-- ==== Sys2Proof/Word.lean ====
section
/-!
DEFINITION. The word types of the machine (00_scope R4: bits are numbered from 0, the least significant; multi-byte values
are little-endian) and the plainest operations on them.
-/
namespace Sys2Proof

/-- A scalar register's contents, an address or a CSR value (R86, R107). -/
abbrev Word := BitVec 64

/-- One byte of memory. -/
abbrev Byte := BitVec 8

/-- One instruction word (R144). -/
abbrev IWord := BitVec 32

/-- A device-wide context number, core x 4 + context (R23). -/
abbrev CtxId := Fin 256

/-- A core number on the ring (R11). -/
abbrev CoreId := Fin 64

/-- A die number (R11). -/
abbrev DieId := Fin 2

/-- The field `w[lo + n - 1 : lo]` (R4). -/
def fld {m : Nat} (w : BitVec m) (lo n : Nat) : BitVec n := w.extractLsb' lo n

/-- The field as a natural number. -/
def fldN {m : Nat} (w : BitVec m) (lo n : Nat) : Nat := (fld w lo n).toNat

/-- Zero extension to 64 bits (R8). -/
def zext64 {n : Nat} (x : BitVec n) : Word := x.setWidth 64

/-- Sign extension to 64 bits (R8). -/
def sext64 {n : Nat} (x : BitVec n) : Word := x.signExtend 64

end Sys2Proof
end

