-- ==== Sys2Proof/Syntax.lean ====
section
/-!
DEFINITION. The instructions and events of the machine as data: one constructor of Instr per row of spec/opcode_table.json.
The 246 rows with a word carry the fields of 06_encoding (R146 to R158), those without any field standing after the others;
the 92 rows without a word are the device's events (95_what_each_step_holds). The table gives an event no operands: which unit
acts, and what comes in from outside, stands in State.arg, written there by the turn that brings the event. Meaning stands in
Sys2Proof/Machine only.
-/
namespace Sys2Proof

/-- The DEP marks WP, WN, SP, SN in bits 3 to 0 (R144). -/
abbrev Dep := BitVec 4
/-- A 5-bit field naming a scalar or tile register (R147). -/
abbrev Reg5 := BitVec 5
/-- A 3-bit field naming a predicate or a mask (R147). -/
abbrev Reg3 := BitVec 3
/-- A 4-bit field naming a shape record (R147). -/
abbrev Reg4 := BitVec 4

/-- The instructions and events (opcode_table.json). -/
inductive Instr where
  /-- add (R177). -/
  | add (d : Reg5) (a : Reg5) (b : Reg5)
  /-- sub (R177). -/
  | sub (d : Reg5) (a : Reg5) (b : Reg5)
  /-- and (R177). -/
  | and (d : Reg5) (a : Reg5) (b : Reg5)
  /-- or (R177). -/
  | or (d : Reg5) (a : Reg5) (b : Reg5)
  /-- xor (R177). -/
  | xor (d : Reg5) (a : Reg5) (b : Reg5)
  /-- andn (R177). -/
  | andn (d : Reg5) (a : Reg5) (b : Reg5)
  /-- sll (R177). -/
  | sll (d : Reg5) (a : Reg5) (b : Reg5)
  /-- srl (R177). -/
  | srl (d : Reg5) (a : Reg5) (b : Reg5)
  /-- sra (R177). -/
  | sra (d : Reg5) (a : Reg5) (b : Reg5)
  /-- addw (R177). -/
  | addw (d : Reg5) (a : Reg5) (b : Reg5)
  /-- subw (R177). -/
  | subw (d : Reg5) (a : Reg5) (b : Reg5)
  /-- min (R177). -/
  | min (d : Reg5) (a : Reg5) (b : Reg5)
  /-- max (R177). -/
  | max (d : Reg5) (a : Reg5) (b : Reg5)
  /-- minu (R177). -/
  | minu (d : Reg5) (a : Reg5) (b : Reg5)
  /-- maxu (R177). -/
  | maxu (d : Reg5) (a : Reg5) (b : Reg5)
  /-- clz (R177). -/
  | clz (d : Reg5) (a : Reg5)
  /-- ctz (R177). -/
  | ctz (d : Reg5) (a : Reg5)
  /-- popc (R177). -/
  | popc (d : Reg5) (a : Reg5)
  /-- addi (R178). -/
  | addi (d : Reg5) (a : Reg5) (i : BitVec 9)
  /-- andi (R178). -/
  | andi (d : Reg5) (a : Reg5) (i : BitVec 9)
  /-- ori (R178). -/
  | ori (d : Reg5) (a : Reg5) (i : BitVec 9)
  /-- xori (R178). -/
  | xori (d : Reg5) (a : Reg5) (i : BitVec 9)
  /-- slli (R178). -/
  | slli (d : Reg5) (a : Reg5) (i : BitVec 9)
  /-- srli (R178). -/
  | srli (d : Reg5) (a : Reg5) (i : BitVec 9)
  /-- srai (R178). -/
  | srai (d : Reg5) (a : Reg5) (i : BitVec 9)
  /-- addiw (R178). -/
  | addiw (d : Reg5) (a : Reg5) (i : BitVec 9)
  /-- mul (R179). -/
  | mul (d : Reg5) (a : Reg5) (b : Reg5)
  /-- mulh (R179). -/
  | mulh (d : Reg5) (a : Reg5) (b : Reg5)
  /-- mulhu (R179). -/
  | mulhu (d : Reg5) (a : Reg5) (b : Reg5)
  /-- mulhsu (R179). -/
  | mulhsu (d : Reg5) (a : Reg5) (b : Reg5)
  /-- div (R179). -/
  | div (d : Reg5) (a : Reg5) (b : Reg5)
  /-- divu (R179). -/
  | divu (d : Reg5) (a : Reg5) (b : Reg5)
  /-- rem (R179). -/
  | rem (d : Reg5) (a : Reg5) (b : Reg5)
  /-- remu (R179). -/
  | remu (d : Reg5) (a : Reg5) (b : Reg5)
  /-- mulw (R179). -/
  | mulw (d : Reg5) (a : Reg5) (b : Reg5)
  /-- divw (R179). -/
  | divw (d : Reg5) (a : Reg5) (b : Reg5)
  /-- remw (R179). -/
  | remw (d : Reg5) (a : Reg5) (b : Reg5)
  /-- cmp (R180). -/
  | cmp (p : Reg3) (a : Reg5) (b : Reg5) (c : Reg4)
  /-- cmpi (R180). -/
  | cmpi (p : Reg3) (a : Reg5) (i : BitVec 5) (c : Reg4)
  /-- pand (R180). -/
  | pand (p : Reg3) (a : Reg3) (b : Reg3)
  /-- por (R180). -/
  | por (p : Reg3) (a : Reg3) (b : Reg3)
  /-- pxor (R180). -/
  | pxor (p : Reg3) (a : Reg3) (b : Reg3)
  /-- pnot (R180). -/
  | pnot (p : Reg3) (a : Reg3)
  /-- br (R181). -/
  | br (p : Reg3) (o : BitVec 18)
  /-- br.f (R181). -/
  | brF (p : Reg3) (o : BitVec 18)
  /-- jmp (R181). -/
  | jmp (o : BitVec 18)
  /-- call (R181). -/
  | call (o : BitVec 18)
  /-- jr (R181). -/
  | jr (a : Reg5)
  /-- callr (R181). -/
  | callr (a : Reg5)
  /-- loopi (R183). -/
  | loopi (d : Reg5) (i : BitVec 14)
  /-- loopb (R183). -/
  | loopb (a : Reg5) (o : BitVec 14)
  /-- ld.b (R184). -/
  | ldB (d : Reg5) (b : Reg5) (o : BitVec 9)
  /-- ld.h (R184). -/
  | ldH (d : Reg5) (b : Reg5) (o : BitVec 9)
  /-- ld.w (R184). -/
  | ldW (d : Reg5) (b : Reg5) (o : BitVec 9)
  /-- ld.d (R184). -/
  | ldD (d : Reg5) (b : Reg5) (o : BitVec 9)
  /-- ld.bu (R184). -/
  | ldBu (d : Reg5) (b : Reg5) (o : BitVec 9)
  /-- ld.hu (R184). -/
  | ldHu (d : Reg5) (b : Reg5) (o : BitVec 9)
  /-- ld.wu (R184). -/
  | ldWu (d : Reg5) (b : Reg5) (o : BitVec 9)
  /-- ldaq (R185). -/
  | ldaq (d : Reg5) (b : Reg5) (s : BitVec 3) (z : BitVec 2)
  /-- st.b (R184). -/
  | stB (d : Reg5) (b : Reg5) (o : BitVec 9)
  /-- st.h (R184). -/
  | stH (d : Reg5) (b : Reg5) (o : BitVec 9)
  /-- st.w (R184). -/
  | stW (d : Reg5) (b : Reg5) (o : BitVec 9)
  /-- st.d (R184). -/
  | stD (d : Reg5) (b : Reg5) (o : BitVec 9)
  /-- strl (R185). -/
  | strl (d : Reg5) (b : Reg5) (s : BitVec 3) (z : BitVec 2)
  /-- amo.swap (R186). -/
  | amoSwap (d : Reg5) (a : Reg5) (z : BitVec 1) (q : BitVec 1) (l : BitVec 1) (s : BitVec 3)
  /-- amo.add (R186). -/
  | amoAdd (d : Reg5) (a : Reg5) (z : BitVec 1) (q : BitVec 1) (l : BitVec 1) (s : BitVec 3)
  /-- amo.and (R186). -/
  | amoAnd (d : Reg5) (a : Reg5) (z : BitVec 1) (q : BitVec 1) (l : BitVec 1) (s : BitVec 3)
  /-- amo.or (R186). -/
  | amoOr (d : Reg5) (a : Reg5) (z : BitVec 1) (q : BitVec 1) (l : BitVec 1) (s : BitVec 3)
  /-- amo.xor (R186). -/
  | amoXor (d : Reg5) (a : Reg5) (z : BitVec 1) (q : BitVec 1) (l : BitVec 1) (s : BitVec 3)
  /-- amo.max (R186). -/
  | amoMax (d : Reg5) (a : Reg5) (z : BitVec 1) (q : BitVec 1) (l : BitVec 1) (s : BitVec 3)
  /-- amo.min (R186). -/
  | amoMin (d : Reg5) (a : Reg5) (z : BitVec 1) (q : BitVec 1) (l : BitVec 1) (s : BitVec 3)
  /-- amo.maxu (R186). -/
  | amoMaxu (d : Reg5) (a : Reg5) (z : BitVec 1) (q : BitVec 1) (l : BitVec 1) (s : BitVec 3)
  /-- amo.minu (R186). -/
  | amoMinu (d : Reg5) (a : Reg5) (z : BitVec 1) (q : BitVec 1) (l : BitVec 1) (s : BitVec 3)
  /-- cas (R187). -/
  | cas (d : Reg5) (a : Reg5) (b : Reg5) (z : BitVec 1) (q : BitVec 1) (l : BitVec 1) (s : BitVec 3)
  /-- fence (R127). -/
  | fence (d : Reg5) (s : BitVec 3)
  /-- qwait (R34). -/
  | qwait (b : Reg5)
  /-- gbar.step (R49). -/
  | gbarStep (d : Reg5)
  /-- abinit (R192). -/
  | abinit (a : Reg5)
  /-- abarm (R135). -/
  | abarm (a : Reg5) (b : Reg5)
  /-- abwait (R137). -/
  | abwait (a : Reg5) (p : BitVec 1)
  /-- slwait (R141). -/
  | slwait (d : Reg5) (a : Reg5) (b : Reg5)
  /-- slpop (R141). -/
  | slpop (d : Reg5) (a : Reg5)
  /-- slfree (R141). -/
  | slfree (a : Reg5)
  /-- lea.1 (R196). -/
  | lea1 (d : Reg5) (a : Reg5) (b : Reg5)
  /-- lea.2 (R196). -/
  | lea2 (d : Reg5) (a : Reg5) (b : Reg5)
  /-- lea.4 (R196). -/
  | lea4 (d : Reg5) (a : Reg5) (b : Reg5)
  /-- lea.8 (R196). -/
  | lea8 (d : Reg5) (a : Reg5) (b : Reg5)
  /-- ispace (R197). -/
  | ispace (d : Reg5) (a : Reg5)
  /-- cvspace.off (R198). -/
  | cvspaceOff (d : Reg5) (a : Reg5)
  /-- cvspace.prv (R198). -/
  | cvspacePrv (d : Reg5) (a : Reg5)
  /-- cvspace.scr (R198). -/
  | cvspaceScr (d : Reg5) (a : Reg5)
  /-- cvspace.dsh (R198). -/
  | cvspaceDsh (d : Reg5) (a : Reg5)
  /-- wbase (R199). -/
  | wbase (d : Reg5) (w : BitVec 2)
  /-- rdcsr (R200). -/
  | rdcsr (d : Reg5) (i : BitVec 9)
  /-- wrcsr (R201). -/
  | wrcsr (a : Reg5) (i : BitVec 9)
  /-- rdts (R202). -/
  | rdts (d : Reg5)
  /-- trap (R203). -/
  | trap (n : BitVec 8)
  /-- shape (R204). -/
  | shape (h : Reg4) (a : Reg5) (b : Reg5)
  /-- shrd.lo (R204). -/
  | shrdLo (d : Reg5) (h : Reg4)
  /-- shrd.hi (R204). -/
  | shrdHi (d : Reg5) (h : Reg4)
  /-- gbind (R312). -/
  | gbind (a : Reg5) (b : Reg5)
  /-- gadv (R312). -/
  | gadv (a : Reg5) (b : Reg5)
  /-- gmask (R313). -/
  | gmask (a : Reg5) (b : Reg5) (c : Reg5)
  /-- gsnap (R312). -/
  | gsnap (a : Reg5) (b : Reg5)
  /-- gfork (R312). -/
  | gfork (a : Reg5) (b : Reg5) (c : Reg5)
  /-- groll (R312). -/
  | groll (a : Reg5) (b : Reg5)
  /-- gstat (R314). -/
  | gstat (a : Reg5) (b : Reg5)
  /-- qrd (R300). -/
  | qrd (d : Reg5) (a : Reg5) (b : Reg5)
  /-- qwr (R301). -/
  | qwr (d : Reg5) (a : Reg5) (b : Reg5)
  /-- qslot (R300). -/
  | qslot (d : Reg5) (a : Reg5)
  /-- qstop (R302). -/
  | qstop (d : Reg5) (a : Reg5) (b : Reg5)
  /-- qret (R303). -/
  | qret (a : Reg5) (b : Reg5)
  /-- qfault (R303). -/
  | qfault (a : Reg5) (b : Reg5)
  /-- escal (R363). -/
  | escal (a : Reg5)
  /-- tlbinv.va (R369). -/
  | tlbinvVa (a : Reg5) (s : BitVec 3)
  /-- tlbinv.ten (R369). -/
  | tlbinvTen (s : BitVec 3)
  /-- qdrop (R370). -/
  | qdrop (b : Reg5)
  /-- tokset (R371). -/
  | tokset (a : Reg5) (f : BitVec 4)
  /-- parkdrop (R370). -/
  | parkdrop (o : BitVec 1) (i : BitVec 1)
  /-- poisclr (R368). -/
  | poisclr (d : Reg5)
  /-- limm (R149). -/
  | limm (i : BitVec 22)
  /-- cin (R216). -/
  | cin (e : Dep) (a : Reg5) (b : Reg5) (c : Reg5) (r : BitVec 1)
  /-- cnest.l (R217). -/
  | cnestL (e : Dep) (a : Reg5) (b : Reg5) (c : Reg5) (l : BitVec 3)
  /-- cnest.go (R218). -/
  | cnestGo (e : Dep) (a : Reg5) (b : Reg5) (c : Reg5) (r : BitVec 1)
  /-- cgath (R220). -/
  | cgath (e : Dep) (a : Reg5) (b : Reg5) (c : Reg5) (r : BitVec 1)
  /-- cpack (R223). -/
  | cpack (e : Dep) (a : Reg4) (b : Reg5) (c : Reg5) (r : BitVec 1)
  /-- cunpk (R223). -/
  | cunpk (e : Dep) (a : Reg4) (b : Reg5) (c : Reg5) (r : BitVec 1)
  /-- cmcast (R224). -/
  | cmcast (e : Dep) (a : Reg5) (b : Reg5) (c : Reg5) (r : BitVec 1)
  /-- cfill (R216). -/
  | cfill (e : Dep) (a : Reg5) (b : Reg5) (c : Reg5) (r : BitVec 1)
  /-- cout (R216). -/
  | cout (e : Dep) (a : Reg5) (b : Reg5) (c : Reg5) (r : BitVec 1)
  /-- cred.addf (R225). -/
  | credAddf (e : Dep) (a : Reg5) (b : Reg5) (c : Reg5) (r : BitVec 1)
  /-- cred.addbf (R225). -/
  | credAddbf (e : Dep) (a : Reg5) (b : Reg5) (c : Reg5) (r : BitVec 1)
  /-- cred.addi (R225). -/
  | credAddi (e : Dep) (a : Reg5) (b : Reg5) (c : Reg5) (r : BitVec 1)
  /-- cred.maxf (R225). -/
  | credMaxf (e : Dep) (a : Reg5) (b : Reg5) (c : Reg5) (r : BitVec 1)
  /-- cred.minf (R225). -/
  | credMinf (e : Dep) (a : Reg5) (b : Reg5) (c : Reg5) (r : BitVec 1)
  /-- cstrm (R227). -/
  | cstrm (e : Dep) (a : Reg5) (b : Reg5) (c : Reg5)
  /-- cnesto.l (R217). -/
  | cnestoL (e : Dep) (a : Reg5) (b : Reg5) (c : Reg5) (l : BitVec 3)
  /-- cnesto.go (R218). -/
  | cnestoGo (e : Dep) (a : Reg5) (b : Reg5) (c : Reg5) (r : BitVec 1)
  /-- mcfg (R243). -/
  | mcfg (e : Dep) (a : Reg5)
  /-- mwld (R244). -/
  | mwld (e : Dep) (a : Reg4) (b : Reg5)
  /-- mwswap (R245). -/
  | mwswap (e : Dep)
  /-- mscl.a (R246). -/
  | msclA (e : Dep) (a : Reg5) (b : Reg5)
  /-- mscl.w (R246). -/
  | msclW (e : Dep) (a : Reg5)
  /-- mma (R249). -/
  | mma (e : Dep) (a : Reg4) (b : Reg4) (c : Reg5) (m : BitVec 2)
  /-- mzero (R252). -/
  | mzero (e : Dep) (a : Reg4)
  /-- mdrain (R253). -/
  | mdrain (e : Dep) (a : Reg4) (b : Reg4) (c : Reg4) (p : BitVec 1) (s : BitVec 1) (m : BitVec 2)
  /-- scfg (R258). -/
  | scfg (e : Dep) (a : Reg5)
  /-- sdecay (R260). -/
  | sdecay (e : Dep) (a : Reg4) (b : Reg4) (c : Reg5)
  /-- schunk (R262). -/
  | schunk (e : Dep) (a : Reg4) (b : Reg4) (c : Reg4)
  /-- sstep (R261). -/
  | sstep (e : Dep) (a : Reg4) (b : Reg4) (c : Reg4)
  /-- sout (R263). -/
  | sout (e : Dep) (a : Reg4) (b : Reg4) (c : Reg4)
  /-- ssnap (R266). -/
  | ssnap (e : Dep) (a : Reg4) (b : Reg4) (c : Reg5)
  /-- sfork (R266). -/
  | sfork (e : Dep) (a : Reg4) (b : Reg4) (c : Reg5)
  /-- sroll (R266). -/
  | sroll (e : Dep) (a : Reg4) (b : Reg4) (c : Reg5)
  /-- scommit (R266). -/
  | scommit (e : Dep) (a : Reg4)
  /-- spair.bf16 (R264). -/
  | spairBf16 (e : Dep) (a : Reg4) (b : Reg4)
  /-- spair.fp32 (R264). -/
  | spairFp32 (e : Dep) (a : Reg4) (b : Reg4)
  /-- spair.pair (R264). -/
  | spairPair (e : Dep) (a : Reg4) (b : Reg4)
  /-- vld (R274). -/
  | vld (e : Dep) (d : Reg5) (a : Reg4) (b : Reg5) (m : Reg3)
  /-- vst (R275). -/
  | vst (e : Dep) (d : Reg5) (a : Reg4) (b : Reg5) (m : Reg3) (s : BitVec 1) (r : BitVec 2)
  /-- vadd.f (R276). -/
  | vaddF (e : Dep) (d : Reg5) (a : Reg5) (b : Reg5) (m : Reg3)
  /-- vsub.f (R276). -/
  | vsubF (e : Dep) (d : Reg5) (a : Reg5) (b : Reg5) (m : Reg3)
  /-- vmul.f (R276). -/
  | vmulF (e : Dep) (d : Reg5) (a : Reg5) (b : Reg5) (m : Reg3)
  /-- vfma.f (R276). -/
  | vfmaF (e : Dep) (d : Reg5) (a : Reg5) (b : Reg5) (m : Reg3)
  /-- vfnma.f (R276). -/
  | vfnmaF (e : Dep) (d : Reg5) (a : Reg5) (b : Reg5) (m : Reg3)
  /-- vmin.f (R276). -/
  | vminF (e : Dep) (d : Reg5) (a : Reg5) (b : Reg5) (m : Reg3)
  /-- vmax.f (R276). -/
  | vmaxF (e : Dep) (d : Reg5) (a : Reg5) (b : Reg5) (m : Reg3)
  /-- vabs.f (R276). -/
  | vabsF (e : Dep) (d : Reg5) (a : Reg5) (m : Reg3)
  /-- vneg.f (R276). -/
  | vnegF (e : Dep) (d : Reg5) (a : Reg5) (m : Reg3)
  /-- vcadd (R277). -/
  | vcadd (e : Dep) (d : Reg5) (a : Reg5) (b : Reg5) (m : Reg3)
  /-- vcmul (R277). -/
  | vcmul (e : Dep) (d : Reg5) (a : Reg5) (b : Reg5) (m : Reg3)
  /-- vadd.i (R278). -/
  | vaddI (e : Dep) (d : Reg5) (a : Reg5) (b : Reg5) (m : Reg3)
  /-- vsub.i (R278). -/
  | vsubI (e : Dep) (d : Reg5) (a : Reg5) (b : Reg5) (m : Reg3)
  /-- vmul.i (R278). -/
  | vmulI (e : Dep) (d : Reg5) (a : Reg5) (b : Reg5) (m : Reg3)
  /-- vand (R278). -/
  | vand (e : Dep) (d : Reg5) (a : Reg5) (b : Reg5) (m : Reg3)
  /-- vor (R278). -/
  | vor (e : Dep) (d : Reg5) (a : Reg5) (b : Reg5) (m : Reg3)
  /-- vxor (R278). -/
  | vxor (e : Dep) (d : Reg5) (a : Reg5) (b : Reg5) (m : Reg3)
  /-- vsll (R278). -/
  | vsll (e : Dep) (d : Reg5) (a : Reg5) (b : Reg5) (m : Reg3)
  /-- vsrl (R278). -/
  | vsrl (e : Dep) (d : Reg5) (a : Reg5) (b : Reg5) (m : Reg3)
  /-- vsra (R278). -/
  | vsra (e : Dep) (d : Reg5) (a : Reg5) (b : Reg5) (m : Reg3)
  /-- vmin.i (R278). -/
  | vminI (e : Dep) (d : Reg5) (a : Reg5) (b : Reg5) (m : Reg3)
  /-- vmax.i (R278). -/
  | vmaxI (e : Dep) (d : Reg5) (a : Reg5) (b : Reg5) (m : Reg3)
  /-- vadds.i (R278). -/
  | vaddsI (e : Dep) (d : Reg5) (a : Reg5) (b : Reg5) (m : Reg3)
  /-- vsubs.i (R278). -/
  | vsubsI (e : Dep) (d : Reg5) (a : Reg5) (b : Reg5) (m : Reg3)
  /-- vcmp.eq.f (R279). -/
  | vcmpEqF (e : Dep) (d : Reg3) (a : Reg5) (b : Reg5) (m : Reg3)
  /-- vcmp.lt.f (R279). -/
  | vcmpLtF (e : Dep) (d : Reg3) (a : Reg5) (b : Reg5) (m : Reg3)
  /-- vcmp.le.f (R279). -/
  | vcmpLeF (e : Dep) (d : Reg3) (a : Reg5) (b : Reg5) (m : Reg3)
  /-- vcmp.un.f (R279). -/
  | vcmpUnF (e : Dep) (d : Reg3) (a : Reg5) (b : Reg5) (m : Reg3)
  /-- vcmp.eq.i (R279). -/
  | vcmpEqI (e : Dep) (d : Reg3) (a : Reg5) (b : Reg5) (m : Reg3)
  /-- vcmp.lt.i (R279). -/
  | vcmpLtI (e : Dep) (d : Reg3) (a : Reg5) (b : Reg5) (m : Reg3)
  /-- vcmp.ltu.i (R279). -/
  | vcmpLtuI (e : Dep) (d : Reg3) (a : Reg5) (b : Reg5) (m : Reg3)
  /-- vsel (R280). -/
  | vsel (e : Dep) (d : Reg5) (a : Reg5) (b : Reg5) (m : Reg3)
  /-- mand (R280). -/
  | mand (e : Dep) (d : Reg3) (a : Reg3) (b : Reg3) (m : Reg3)
  /-- mor (R280). -/
  | mor (e : Dep) (d : Reg3) (a : Reg3) (b : Reg3) (m : Reg3)
  /-- mxor (R280). -/
  | mxor (e : Dep) (d : Reg3) (a : Reg3) (b : Reg3) (m : Reg3)
  /-- mnot (R280). -/
  | mnot (e : Dep) (d : Reg3) (a : Reg3) (m : Reg3)
  /-- vrotr (R281). -/
  | vrotr (e : Dep) (d : Reg5) (a : Reg5) (b : Reg5) (m : Reg3)
  /-- vbcr (R281). -/
  | vbcr (e : Dep) (d : Reg5) (a : Reg5) (b : Reg5) (m : Reg3)
  /-- vredr.add (R282). -/
  | vredrAdd (e : Dep) (d : Reg5) (a : Reg5) (m : Reg3)
  /-- vredr.max (R282). -/
  | vredrMax (e : Dep) (d : Reg5) (a : Reg5) (m : Reg3)
  /-- vredr.min (R282). -/
  | vredrMin (e : Dep) (d : Reg5) (a : Reg5) (m : Reg3)
  /-- vrotc (R281). -/
  | vrotc (e : Dep) (d : Reg5) (a : Reg5) (b : Reg5) (m : Reg3)
  /-- vbcc (R281). -/
  | vbcc (e : Dep) (d : Reg5) (a : Reg5) (b : Reg5) (m : Reg3)
  /-- vredc.add (R282). -/
  | vredcAdd (e : Dep) (d : Reg5) (a : Reg5) (m : Reg3)
  /-- vredc.max (R282). -/
  | vredcMax (e : Dep) (d : Reg5) (a : Reg5) (m : Reg3)
  /-- vredc.min (R282). -/
  | vredcMin (e : Dep) (d : Reg5) (a : Reg5) (m : Reg3)
  /-- vxch.c (R283). -/
  | vxchC (e : Dep) (d : Reg5) (a : Reg5) (b : Reg5) (m : Reg3)
  /-- vxch.r (R283). -/
  | vxchR (e : Dep) (d : Reg5) (a : Reg5) (b : Reg5) (m : Reg3)
  /-- vslice (R284). -/
  | vslice (e : Dep) (d : Reg5) (a : Reg5) (b : Reg5) (j : BitVec 3)
  /-- vins (R284). -/
  | vins (e : Dep) (d : Reg5) (a : Reg5) (b : Reg5) (j : BitVec 3)
  /-- vext (R284). -/
  | vext (e : Dep) (d : Reg5) (a : Reg5) (b : Reg5) (j : BitVec 3)
  /-- vsf.exp2 (R285). -/
  | vsfExp2 (e : Dep) (d : Reg5) (a : Reg5) (m : Reg3)
  /-- vsf.exp (R285). -/
  | vsfExp (e : Dep) (d : Reg5) (a : Reg5) (m : Reg3)
  /-- vsf.log2 (R285). -/
  | vsfLog2 (e : Dep) (d : Reg5) (a : Reg5) (m : Reg3)
  /-- vsf.ln (R285). -/
  | vsfLn (e : Dep) (d : Reg5) (a : Reg5) (m : Reg3)
  /-- vsf.sigmoid (R285). -/
  | vsfSigmoid (e : Dep) (d : Reg5) (a : Reg5) (m : Reg3)
  /-- vsf.tanh (R285). -/
  | vsfTanh (e : Dep) (d : Reg5) (a : Reg5) (m : Reg3)
  /-- vsf.silu (R285). -/
  | vsfSilu (e : Dep) (d : Reg5) (a : Reg5) (m : Reg3)
  /-- vsf.softplus (R285). -/
  | vsfSoftplus (e : Dep) (d : Reg5) (a : Reg5) (m : Reg3)
  /-- vsf.sinpi (R285). -/
  | vsfSinpi (e : Dep) (d : Reg5) (a : Reg5) (m : Reg3)
  /-- vsf.cospi (R285). -/
  | vsfCospi (e : Dep) (d : Reg5) (a : Reg5) (m : Reg3)
  /-- vrcp (R81). -/
  | vrcp (e : Dep) (d : Reg5) (a : Reg5) (m : Reg3)
  /-- vrsq (R82). -/
  | vrsq (e : Dep) (d : Reg5) (a : Reg5) (m : Reg3)
  /-- vrms.part (R286). -/
  | vrmsPart (e : Dep) (d : Reg5) (a : Reg5)
  /-- vrms (R286). -/
  | vrms (e : Dep) (d : Reg5) (a : Reg5) (b : Reg5)
  /-- vcvt (R287). -/
  | vcvt (e : Dep) (d : Reg5) (a : Reg5) (k : BitVec 5) (m : Reg3) (s : BitVec 1) (r : BitVec 2)
  /-- vqmx (R288). -/
  | vqmx (e : Dep) (d : Reg5) (a : Reg5) (q : BitVec 2)
  /-- vbkt (R289). -/
  | vbkt (e : Dep) (d : Reg4) (a : Reg5) (b : Reg5) (m : Reg3)
  /-- vmsk (R290). -/
  | vmsk (e : Dep) (d : Reg5) (a : Reg5) (b : Reg5) (m : Reg3)
  /-- vrand (R291). -/
  | vrand (e : Dep) (d : Reg5) (a : Reg5) (b : Reg5) (m : Reg3)
  /-- vpark (R292). -/
  | vpark (e : Dep) (k : Reg5) (a : Reg5)
  /-- vunpark (R292). -/
  | vunpark (e : Dep) (d : Reg5) (k : Reg5)
  /-- oxN (R331). -/
  | ox (e : Dep) (d : Reg5) (a : Reg5) (b : Reg5) (m : Reg3) (n : Reg4)
  /-- oload (R328). -/
  | oload (e : Dep) (n : Reg4) (a : Reg5) (b : Reg5)
  /-- ounld (R329). -/
  | ounld (e : Dep) (n : Reg4)
  /-- ostat (R330). -/
  | ostat (e : Dep) (d : Reg5)
  /-- ret (R181). -/
  | ret
  /-- gbar (R35). -/
  | gbar
  /-- yield (R190). -/
  | yield
  /-- yield.exit (R191). -/
  | yieldExit
  /-- utret (R48). -/
  | utret
  /-- sret (R362). -/
  | sret
  /-- tlbinv.all (R369). -/
  | tlbinvAll
  /-- wfi (R368). -/
  | wfi
  /-- ochinv (R368). -/
  | ochinv
  /-- snaptrig (R368). -/
  | snaptrig
  /-- Event ENTRY_START (R30). -/
  | evEntryStart
  /-- Event ENTRY_RETIRE (R31). -/
  | evEntryRetire
  /-- Event COPY_GRANULE (R209). -/
  | evCopyGranule
  /-- Event COPY_COMPLETE (R214). -/
  | evCopyComplete
  /-- Event STREAM_SLOT_CLAIM (R140). -/
  | evStreamSlotClaim
  /-- Event STREAM_SLOT_PUBLISH (R140). -/
  | evStreamSlotPublish
  /-- Event ABWAIT_WAKE (R137). -/
  | evAbwaitWake
  /-- Event SLWAIT_WAKE (R141). -/
  | evSlwaitWake
  /-- Event SLPOP_WAKE (R141). -/
  | evSlpopWake
  /-- Event QWAIT_WAKE (R34). -/
  | evQwaitWake
  /-- Event FENCE_COMPLETE (R127). -/
  | evFenceComplete
  /-- Event WFI_WAKE (R368). -/
  | evWfiWake
  /-- Event GBAR_RELEASE (R35). -/
  | evGbarRelease
  /-- Event QUEUE_STALL (R43). -/
  | evQueueStall
  /-- Event DRAIN_AND_PARK (R374). -/
  | evDrainAndPark
  /-- Event DRAIN_ABANDON (R375). -/
  | evDrainAbandon
  /-- Event USER_TRAP_DELIVERY (R46). -/
  | evUserTrapDelivery
  /-- Event SUPERVISOR_TRAP_DELIVERY (R361). -/
  | evSupervisorTrapDelivery
  /-- Event ESCALATION (R363). -/
  | evEscalation
  /-- Event MADDER_PERFORM (R315). -/
  | evMadderPerform
  /-- Event STEP_BOUNDARY (R408). -/
  | evStepBoundary
  /-- Event FIRKIN_LOAD (R436). -/
  | evFirkinLoad
  /-- Event FIRKIN_WRITEBACK (R437). -/
  | evFirkinWriteback
  /-- Event RECORD_WRITEBACK (R294). -/
  | evRecordWriteback
  /-- Event PAGE_TABLE_WALK (R422). -/
  | evPageTableWalk
  /-- Event DOORBELL (R386). -/
  | evDoorbell
  /-- Event NOP (R390). -/
  | evNop
  /-- Event LAUNCH (R391). -/
  | evLaunch
  /-- Event LAUNCH_WARM (R400). -/
  | evLaunchWarm
  /-- Event WAIT (R392). -/
  | evWait
  /-- Event WAIT_SATISFIED (R392). -/
  | evWaitSatisfied
  /-- Event SIGNAL (R392). -/
  | evSignal
  /-- Event INDIRECT (R393). -/
  | evIndirect
  /-- Event CREATE (R406). -/
  | evCreate
  /-- Event READY (R406). -/
  | evReady
  /-- Event CANCEL (R406). -/
  | evCancel
  /-- Event REMOVE (R406). -/
  | evRemove
  /-- Event END (R406). -/
  | evEnd
  /-- Event PACKET_FENCE (R392). -/
  | evPacketFence
  /-- Event PACKET_FENCE_DONE (R392). -/
  | evPacketFenceDone
  /-- Event DESTROY (R394). -/
  | evDestroy
  /-- Event LAUNCH_DECISION (R397). -/
  | evLaunchDecision
  /-- Event GANG_PLACEMENT (R400). -/
  | evGangPlacement
  /-- Event GANG_RELEASE (R400). -/
  | evGangRelease
  /-- Event TASK_COMPLETE (R401). -/
  | evTaskComplete
  /-- Event TASK_KILL (R401). -/
  | evTaskKill
  /-- Event PREEMPT_CHECKPOINT (R403). -/
  | evPreemptCheckpoint
  /-- Event ESCALATION_RESUME (R404). -/
  | evEscalationResume
  /-- Event ESCALATION_KILL (R404). -/
  | evEscalationKill
  /-- Event BUDGET_PERIOD_START (R410). -/
  | evBudgetPeriodStart
  /-- Event RECLAIM (R415). -/
  | evReclaim
  /-- Event HOLD_END (R416). -/
  | evHoldEnd
  /-- Event SPILL_REFILL (R416). -/
  | evSpillRefill
  /-- Event INTERRUPT_WINDOW_EXPIRY (R418). -/
  | evInterruptWindowExpiry
  /-- Event DSCARVE_WRITE (R109). -/
  | evDscarveWrite
  /-- Event ACCSPLIT_WRITE (R366). -/
  | evAccsplitWrite
  /-- Event LEND_WRITE (R414). -/
  | evLendWrite
  /-- Event RCFG_WRITE (R414). -/
  | evRcfgWrite
  /-- Event PTROOT_WRITE (R428). -/
  | evPtrootWrite
  /-- Event PCORES_WRITE (R428). -/
  | evPcoresWrite
  /-- Event PRIGHTS_WRITE (R429). -/
  | evPrightsWrite
  /-- Event PERIOD_WRITE (R410). -/
  | evPeriodWrite
  /-- Event BUDGET_WRITE (R412). -/
  | evBudgetWrite
  /-- Event STEERING_ENTRY_WRITE (R451). -/
  | evSteeringEntryWrite
  /-- Event TSCTL_STEP (R455). -/
  | evTsctlStep
  /-- Event TSCTL_ADJ (R454). -/
  | evTsctlAdj
  /-- Event REGISTER_WRITE (R5). -/
  | evRegisterWrite
  /-- Event FRONTHAUL_FRAME_RX (R449). -/
  | evFronthaulFrameRx
  /-- Event PPS_EDGE (R454). -/
  | evPpsEdge
  /-- Event SNAPSHOT_PIN_EDGE (R457). -/
  | evSnapshotPinEdge
  /-- Event SNAPAT_MATCH (R457). -/
  | evSnapatMatch
  /-- Event BLUMUS_FLIT_RX (R445). -/
  | evBlumusFlitRx
  /-- Event LINK_DEAD (R445). -/
  | evLinkDead
  /-- Event LINK_RETRAIN (R445). -/
  | evLinkRetrain
  /-- Event BAR2_WRITE (R443). -/
  | evBar2Write
  /-- Event BAR2_READ (R443). -/
  | evBar2Read
  /-- Event HOST_COMPLETION (R444). -/
  | evHostCompletion
  /-- Event HOST_COMPLETION_TIMEOUT (R444). -/
  | evHostCompletionTimeout
  /-- Event ECC_UNCORRECTABLE (R458). -/
  | evEccUncorrectable
  /-- Event MEMORY_SCRUB (R458). -/
  | evMemoryScrub
  /-- Event COLD_RESET (R459). -/
  | evColdReset
  /-- Event MODULE_RESET (R459). -/
  | evModuleReset
  /-- Event BOOT_ROM_STEP (R460). -/
  | evBootRomStep
  /-- Event GET_VERSION (R465). -/
  | evGetVersion
  /-- Event GET_CAPABILITIES (R465). -/
  | evGetCapabilities
  /-- Event NEGOTIATE_ALGORITHMS (R465). -/
  | evNegotiateAlgorithms
  /-- Event GET_DIGESTS (R465). -/
  | evGetDigests
  /-- Event GET_CERTIFICATE (R465). -/
  | evGetCertificate
  /-- Event CHALLENGE (R465). -/
  | evChallenge
  /-- Event GET_MEASUREMENTS (R466). -/
  | evGetMeasurements
  /-- Event FIRMWARE_NOTIFICATION (R365). -/
  | evFirmwareNotification
  /-- Event EVENT_MESSAGE_TX (R454). -/
  | evEventMessageTx
  deriving DecidableEq, Repr

end Sys2Proof
end

