-- ==== Sys2Proof/Decode.lean ====
section
/-!
DEFINITION. From words to instructions and back (06_encoding R144 to R160). decode is total on any word and refuses by name;
decodeBytes lays a word out as memory does (R4, R144); encode writes the word of an instruction.
-/
namespace Sys2Proof

/-- Why a word is no instruction (R159). All of these trap ILLEGAL_INSTRUCTION. -/
inductive Reject where
  /-- Checks 1 and 4: DEP is not 0 on a word that R145 names. -/
  | dep
  /-- Check 2: a reserved major opcode. -/
  | reservedMajor
  /-- Check 5: a reserved function code. -/
  | reservedCode
  /-- Check 6: a reserved field that is not 0. -/
  | reservedField
  /-- Fewer than four bytes. -/
  | short
  deriving DecidableEq, Repr

/-- Major opcode 0x00 (R151). -/
def decodeInt (w : IWord) : Except Reject Instr :=
  if fld w 0 7 = 0x0 then .ok (.add (fld w 17 5) (fld w 12 5) (fld w 7 5)) else
  if fld w 0 7 = 0x1 then .ok (.sub (fld w 17 5) (fld w 12 5) (fld w 7 5)) else
  if fld w 0 7 = 0x2 then .ok (.and (fld w 17 5) (fld w 12 5) (fld w 7 5)) else
  if fld w 0 7 = 0x3 then .ok (.or (fld w 17 5) (fld w 12 5) (fld w 7 5)) else
  if fld w 0 7 = 0x4 then .ok (.xor (fld w 17 5) (fld w 12 5) (fld w 7 5)) else
  if fld w 0 7 = 0x5 then .ok (.andn (fld w 17 5) (fld w 12 5) (fld w 7 5)) else
  if fld w 0 7 = 0x6 then .ok (.sll (fld w 17 5) (fld w 12 5) (fld w 7 5)) else
  if fld w 0 7 = 0x7 then .ok (.srl (fld w 17 5) (fld w 12 5) (fld w 7 5)) else
  if fld w 0 7 = 0x8 then .ok (.sra (fld w 17 5) (fld w 12 5) (fld w 7 5)) else
  if fld w 0 7 = 0x9 then .ok (.addw (fld w 17 5) (fld w 12 5) (fld w 7 5)) else
  if fld w 0 7 = 0xa then .ok (.subw (fld w 17 5) (fld w 12 5) (fld w 7 5)) else
  if fld w 0 7 = 0xb then .ok (.min (fld w 17 5) (fld w 12 5) (fld w 7 5)) else
  if fld w 0 7 = 0xc then .ok (.max (fld w 17 5) (fld w 12 5) (fld w 7 5)) else
  if fld w 0 7 = 0xd then .ok (.minu (fld w 17 5) (fld w 12 5) (fld w 7 5)) else
  if fld w 0 7 = 0xe then .ok (.maxu (fld w 17 5) (fld w 12 5) (fld w 7 5)) else
  if fld w 0 7 = 0xf then if fld w 7 5 = 0 then .ok (.clz (fld w 17 5) (fld w 12 5)) else .error .reservedField else
  if fld w 0 7 = 0x10 then if fld w 7 5 = 0 then .ok (.ctz (fld w 17 5) (fld w 12 5)) else .error .reservedField else
  if fld w 0 7 = 0x11 then if fld w 7 5 = 0 then .ok (.popc (fld w 17 5) (fld w 12 5)) else .error .reservedField else
  .error .reservedCode

/-- Major opcode 0x01 (R151). -/
def decodeImm (w : IWord) : Except Reject Instr :=
  if fld w 9 3 = 0x0 then .ok (.addi (fld w 17 5) (fld w 12 5) (fld w 0 9)) else
  if fld w 9 3 = 0x1 then .ok (.andi (fld w 17 5) (fld w 12 5) (fld w 0 9)) else
  if fld w 9 3 = 0x2 then .ok (.ori (fld w 17 5) (fld w 12 5) (fld w 0 9)) else
  if fld w 9 3 = 0x3 then .ok (.xori (fld w 17 5) (fld w 12 5) (fld w 0 9)) else
  if fld w 9 3 = 0x4 then .ok (.slli (fld w 17 5) (fld w 12 5) (fld w 0 9)) else
  if fld w 9 3 = 0x5 then .ok (.srli (fld w 17 5) (fld w 12 5) (fld w 0 9)) else
  if fld w 9 3 = 0x6 then .ok (.srai (fld w 17 5) (fld w 12 5) (fld w 0 9)) else
  if fld w 9 3 = 0x7 then .ok (.addiw (fld w 17 5) (fld w 12 5) (fld w 0 9)) else
  .error .reservedCode

/-- Major opcode 0x02 (R151). -/
def decodeMul (w : IWord) : Except Reject Instr :=
  if fld w 0 7 = 0x0 then .ok (.mul (fld w 17 5) (fld w 12 5) (fld w 7 5)) else
  if fld w 0 7 = 0x1 then .ok (.mulh (fld w 17 5) (fld w 12 5) (fld w 7 5)) else
  if fld w 0 7 = 0x2 then .ok (.mulhu (fld w 17 5) (fld w 12 5) (fld w 7 5)) else
  if fld w 0 7 = 0x3 then .ok (.mulhsu (fld w 17 5) (fld w 12 5) (fld w 7 5)) else
  if fld w 0 7 = 0x4 then .ok (.div (fld w 17 5) (fld w 12 5) (fld w 7 5)) else
  if fld w 0 7 = 0x5 then .ok (.divu (fld w 17 5) (fld w 12 5) (fld w 7 5)) else
  if fld w 0 7 = 0x6 then .ok (.rem (fld w 17 5) (fld w 12 5) (fld w 7 5)) else
  if fld w 0 7 = 0x7 then .ok (.remu (fld w 17 5) (fld w 12 5) (fld w 7 5)) else
  if fld w 0 7 = 0x8 then .ok (.mulw (fld w 17 5) (fld w 12 5) (fld w 7 5)) else
  if fld w 0 7 = 0x9 then .ok (.divw (fld w 17 5) (fld w 12 5) (fld w 7 5)) else
  if fld w 0 7 = 0xa then .ok (.remw (fld w 17 5) (fld w 12 5) (fld w 7 5)) else
  .error .reservedCode

/-- Major opcode 0x03 (R151). -/
def decodeCmp (w : IWord) : Except Reject Instr :=
  if fld w 0 5 = 0x0 then .ok (.cmp (fld w 19 3) (fld w 14 5) (fld w 9 5) (fld w 5 4)) else
  if fld w 0 5 = 0x1 then .ok (.cmpi (fld w 19 3) (fld w 14 5) (fld w 9 5) (fld w 5 4)) else
  if fld w 0 5 = 0x2 then if fld w 5 4 = 0 ∧ fld w 12 2 = 0 ∧ fld w 17 2 = 0 then .ok (.pand (fld w 19 3) (fld w 14 3) (fld w 9 3)) else .error .reservedField else
  if fld w 0 5 = 0x3 then if fld w 5 4 = 0 ∧ fld w 12 2 = 0 ∧ fld w 17 2 = 0 then .ok (.por (fld w 19 3) (fld w 14 3) (fld w 9 3)) else .error .reservedField else
  if fld w 0 5 = 0x4 then if fld w 5 4 = 0 ∧ fld w 12 2 = 0 ∧ fld w 17 2 = 0 then .ok (.pxor (fld w 19 3) (fld w 14 3) (fld w 9 3)) else .error .reservedField else
  if fld w 0 5 = 0x5 then if fld w 5 9 = 0 ∧ fld w 17 2 = 0 then .ok (.pnot (fld w 19 3) (fld w 14 3)) else .error .reservedField else
  .error .reservedCode

/-- Major opcode 0x04 (R151). -/
def decodeBranch (w : IWord) : Except Reject Instr :=
  if fld w 18 1 = 0x0 then .ok (.br (fld w 19 3) (fld w 0 18)) else
  if fld w 18 1 = 0x1 then .ok (.brF (fld w 19 3) (fld w 0 18)) else
  .error .reservedCode

/-- Major opcode 0x05 (R151). -/
def decodeJump (w : IWord) : Except Reject Instr :=
  if fld w 19 3 = 0x0 then if fld w 18 1 = 0 then .ok (.jmp (fld w 0 18)) else .error .reservedField else
  if fld w 19 3 = 0x1 then if fld w 18 1 = 0 then .ok (.call (fld w 0 18)) else .error .reservedField else
  if fld w 19 3 = 0x2 then if fld w 0 14 = 0 then .ok (.jr (fld w 14 5)) else .error .reservedField else
  if fld w 19 3 = 0x3 then if fld w 0 14 = 0 then .ok (.callr (fld w 14 5)) else .error .reservedField else
  if fld w 19 3 = 0x4 then if fld w 0 19 = 0 then .ok (.ret) else .error .reservedField else
  if fld w 19 3 = 0x5 then .ok (.loopi (fld w 14 5) (fld w 0 14)) else
  if fld w 19 3 = 0x6 then .ok (.loopb (fld w 14 5) (fld w 0 14)) else
  .error .reservedCode

/-- Major opcode 0x06 (R151). -/
def decodeLoad (w : IWord) : Except Reject Instr :=
  if fld w 9 3 = 0x0 then .ok (.ldB (fld w 17 5) (fld w 12 5) (fld w 0 9)) else
  if fld w 9 3 = 0x1 then .ok (.ldH (fld w 17 5) (fld w 12 5) (fld w 0 9)) else
  if fld w 9 3 = 0x2 then .ok (.ldW (fld w 17 5) (fld w 12 5) (fld w 0 9)) else
  if fld w 9 3 = 0x3 then .ok (.ldD (fld w 17 5) (fld w 12 5) (fld w 0 9)) else
  if fld w 9 3 = 0x4 then .ok (.ldBu (fld w 17 5) (fld w 12 5) (fld w 0 9)) else
  if fld w 9 3 = 0x5 then .ok (.ldHu (fld w 17 5) (fld w 12 5) (fld w 0 9)) else
  if fld w 9 3 = 0x6 then .ok (.ldWu (fld w 17 5) (fld w 12 5) (fld w 0 9)) else
  if fld w 9 3 = 0x7 then if fld w 0 4 = 0 then .ok (.ldaq (fld w 17 5) (fld w 12 5) (fld w 6 3) (fld w 4 2)) else .error .reservedField else
  .error .reservedCode

/-- Major opcode 0x07 (R151). -/
def decodeStore (w : IWord) : Except Reject Instr :=
  if fld w 9 3 = 0x0 then .ok (.stB (fld w 17 5) (fld w 12 5) (fld w 0 9)) else
  if fld w 9 3 = 0x1 then .ok (.stH (fld w 17 5) (fld w 12 5) (fld w 0 9)) else
  if fld w 9 3 = 0x2 then .ok (.stW (fld w 17 5) (fld w 12 5) (fld w 0 9)) else
  if fld w 9 3 = 0x3 then .ok (.stD (fld w 17 5) (fld w 12 5) (fld w 0 9)) else
  if fld w 9 3 = 0x7 then if fld w 0 4 = 0 then .ok (.strl (fld w 17 5) (fld w 12 5) (fld w 6 3) (fld w 4 2)) else .error .reservedField else
  .error .reservedCode

/-- Major opcode 0x08 (R151). -/
def decodeAtomic (w : IWord) : Except Reject Instr :=
  if fld w 0 1 = 0x0 ∧ fld w 7 5 = 0x0 then .ok (.amoSwap (fld w 17 5) (fld w 12 5) (fld w 6 1) (fld w 5 1) (fld w 4 1) (fld w 1 3)) else
  if fld w 0 1 = 0x0 ∧ fld w 7 5 = 0x1 then .ok (.amoAdd (fld w 17 5) (fld w 12 5) (fld w 6 1) (fld w 5 1) (fld w 4 1) (fld w 1 3)) else
  if fld w 0 1 = 0x0 ∧ fld w 7 5 = 0x2 then .ok (.amoAnd (fld w 17 5) (fld w 12 5) (fld w 6 1) (fld w 5 1) (fld w 4 1) (fld w 1 3)) else
  if fld w 0 1 = 0x0 ∧ fld w 7 5 = 0x3 then .ok (.amoOr (fld w 17 5) (fld w 12 5) (fld w 6 1) (fld w 5 1) (fld w 4 1) (fld w 1 3)) else
  if fld w 0 1 = 0x0 ∧ fld w 7 5 = 0x4 then .ok (.amoXor (fld w 17 5) (fld w 12 5) (fld w 6 1) (fld w 5 1) (fld w 4 1) (fld w 1 3)) else
  if fld w 0 1 = 0x0 ∧ fld w 7 5 = 0x5 then .ok (.amoMax (fld w 17 5) (fld w 12 5) (fld w 6 1) (fld w 5 1) (fld w 4 1) (fld w 1 3)) else
  if fld w 0 1 = 0x0 ∧ fld w 7 5 = 0x6 then .ok (.amoMin (fld w 17 5) (fld w 12 5) (fld w 6 1) (fld w 5 1) (fld w 4 1) (fld w 1 3)) else
  if fld w 0 1 = 0x0 ∧ fld w 7 5 = 0x7 then .ok (.amoMaxu (fld w 17 5) (fld w 12 5) (fld w 6 1) (fld w 5 1) (fld w 4 1) (fld w 1 3)) else
  if fld w 0 1 = 0x0 ∧ fld w 7 5 = 0x8 then .ok (.amoMinu (fld w 17 5) (fld w 12 5) (fld w 6 1) (fld w 5 1) (fld w 4 1) (fld w 1 3)) else
  if fld w 0 1 = 0x1 then .ok (.cas (fld w 17 5) (fld w 12 5) (fld w 7 5) (fld w 6 1) (fld w 5 1) (fld w 4 1) (fld w 1 3)) else
  .error .reservedCode

/-- Major opcode 0x09 (R151). -/
def decodeSync (w : IWord) : Except Reject Instr :=
  if fld w 0 7 = 0x0 then if fld w 10 7 = 0 then .ok (.fence (fld w 17 5) (fld w 7 3)) else .error .reservedField else
  if fld w 0 7 = 0x1 then if fld w 12 10 = 0 then .ok (.qwait (fld w 7 5)) else .error .reservedField else
  if fld w 0 7 = 0x2 then if fld w 7 15 = 0 then .ok (.gbar) else .error .reservedField else
  if fld w 0 7 = 0x3 then if fld w 7 10 = 0 then .ok (.gbarStep (fld w 17 5)) else .error .reservedField else
  if fld w 0 7 = 0x4 then if fld w 7 15 = 0 then .ok (.yield) else .error .reservedField else
  if fld w 0 7 = 0x5 then if fld w 7 15 = 0 then .ok (.yieldExit) else .error .reservedField else
  .error .reservedCode

/-- Major opcode 0x0a (R151). -/
def decodeBarrier (w : IWord) : Except Reject Instr :=
  if fld w 0 7 = 0x0 then if fld w 7 5 = 0 ∧ fld w 17 5 = 0 then .ok (.abinit (fld w 12 5)) else .error .reservedField else
  if fld w 0 7 = 0x1 then if fld w 17 5 = 0 then .ok (.abarm (fld w 12 5) (fld w 7 5)) else .error .reservedField else
  if fld w 0 7 = 0x2 then if fld w 8 4 = 0 ∧ fld w 17 5 = 0 then .ok (.abwait (fld w 12 5) (fld w 7 1)) else .error .reservedField else
  if fld w 0 7 = 0x3 then .ok (.slwait (fld w 17 5) (fld w 12 5) (fld w 7 5)) else
  if fld w 0 7 = 0x4 then if fld w 7 5 = 0 then .ok (.slpop (fld w 17 5) (fld w 12 5)) else .error .reservedField else
  if fld w 0 7 = 0x5 then if fld w 7 5 = 0 ∧ fld w 17 5 = 0 then .ok (.slfree (fld w 12 5)) else .error .reservedField else
  .error .reservedCode

/-- Major opcode 0x0b (R151). -/
def decodeWindow (w : IWord) : Except Reject Instr :=
  if fld w 0 7 = 0x0 then .ok (.lea1 (fld w 17 5) (fld w 12 5) (fld w 7 5)) else
  if fld w 0 7 = 0x1 then .ok (.lea2 (fld w 17 5) (fld w 12 5) (fld w 7 5)) else
  if fld w 0 7 = 0x2 then .ok (.lea4 (fld w 17 5) (fld w 12 5) (fld w 7 5)) else
  if fld w 0 7 = 0x3 then .ok (.lea8 (fld w 17 5) (fld w 12 5) (fld w 7 5)) else
  if fld w 0 7 = 0x4 then if fld w 7 5 = 0 then .ok (.ispace (fld w 17 5) (fld w 12 5)) else .error .reservedField else
  if fld w 0 7 = 0x5 then if fld w 7 5 = 0 then .ok (.cvspaceOff (fld w 17 5) (fld w 12 5)) else .error .reservedField else
  if fld w 0 7 = 0x6 then if fld w 7 5 = 0 then .ok (.cvspacePrv (fld w 17 5) (fld w 12 5)) else .error .reservedField else
  if fld w 0 7 = 0x7 then if fld w 7 5 = 0 then .ok (.cvspaceScr (fld w 17 5) (fld w 12 5)) else .error .reservedField else
  if fld w 0 7 = 0x8 then if fld w 7 5 = 0 then .ok (.cvspaceDsh (fld w 17 5) (fld w 12 5)) else .error .reservedField else
  if fld w 0 7 = 0x9 then if fld w 9 8 = 0 then .ok (.wbase (fld w 17 5) (fld w 7 2)) else .error .reservedField else
  .error .reservedCode

/-- Major opcode 0x0c (R151). -/
def decodeCsr (w : IWord) : Except Reject Instr :=
  if fld w 9 3 = 0x0 then if fld w 12 5 = 0 then .ok (.rdcsr (fld w 17 5) (fld w 0 9)) else .error .reservedField else
  if fld w 9 3 = 0x1 then if fld w 17 5 = 0 then .ok (.wrcsr (fld w 12 5) (fld w 0 9)) else .error .reservedField else
  if fld w 9 3 = 0x2 then if fld w 0 9 = 0 ∧ fld w 12 5 = 0 then .ok (.rdts (fld w 17 5)) else .error .reservedField else
  if fld w 9 3 = 0x3 then if fld w 8 1 = 0 ∧ fld w 12 10 = 0 then .ok (.trap (fld w 0 8)) else .error .reservedField else
  if fld w 9 3 = 0x4 then if fld w 0 9 = 0 ∧ fld w 12 10 = 0 then .ok (.utret) else .error .reservedField else
  .error .reservedCode

/-- Major opcode 0x0d (R151). -/
def decodeShape (w : IWord) : Except Reject Instr :=
  if fld w 0 7 = 0x0 then if fld w 21 1 = 0 then .ok (.shape (fld w 17 4) (fld w 12 5) (fld w 7 5)) else .error .reservedField else
  if fld w 0 7 = 0x1 then if fld w 7 5 = 0 ∧ fld w 16 1 = 0 then .ok (.shrdLo (fld w 17 5) (fld w 12 4)) else .error .reservedField else
  if fld w 0 7 = 0x2 then if fld w 7 5 = 0 ∧ fld w 16 1 = 0 then .ok (.shrdHi (fld w 17 5) (fld w 12 4)) else .error .reservedField else
  .error .reservedCode

/-- Major opcode 0x0e (R151). -/
def decodeMadder (w : IWord) : Except Reject Instr :=
  if fld w 0 7 = 0x0 then if fld w 7 5 = 0 then .ok (.gbind (fld w 17 5) (fld w 12 5)) else .error .reservedField else
  if fld w 0 7 = 0x1 then if fld w 7 5 = 0 then .ok (.gadv (fld w 17 5) (fld w 12 5)) else .error .reservedField else
  if fld w 0 7 = 0x2 then .ok (.gmask (fld w 17 5) (fld w 12 5) (fld w 7 5)) else
  if fld w 0 7 = 0x3 then if fld w 7 5 = 0 then .ok (.gsnap (fld w 17 5) (fld w 12 5)) else .error .reservedField else
  if fld w 0 7 = 0x4 then .ok (.gfork (fld w 17 5) (fld w 12 5) (fld w 7 5)) else
  if fld w 0 7 = 0x5 then if fld w 7 5 = 0 then .ok (.groll (fld w 17 5) (fld w 12 5)) else .error .reservedField else
  if fld w 0 7 = 0x6 then if fld w 7 5 = 0 then .ok (.gstat (fld w 17 5) (fld w 12 5)) else .error .reservedField else
  .error .reservedCode

/-- Major opcode 0x10 (R151). -/
def decodeCin (w : IWord) : Except Reject Instr :=
  if fld w 1 6 = 0x0 then .ok (.cin (fld w 28 4) (fld w 17 5) (fld w 12 5) (fld w 7 5) (fld w 0 1)) else
  .error .reservedCode

/-- Major opcode 0x11 (R151). -/
def decodeCnest (w : IWord) : Except Reject Instr :=
  if fld w 3 4 = 0x0 then .ok (.cnestL (fld w 28 4) (fld w 17 5) (fld w 12 5) (fld w 7 5) (fld w 0 3)) else
  if fld w 1 6 = 0x4 then .ok (.cnestGo (fld w 28 4) (fld w 17 5) (fld w 12 5) (fld w 7 5) (fld w 0 1)) else
  .error .reservedCode

/-- Major opcode 0x12 (R151). -/
def decodeCgath (w : IWord) : Except Reject Instr :=
  if fld w 1 6 = 0x0 then .ok (.cgath (fld w 28 4) (fld w 17 5) (fld w 12 5) (fld w 7 5) (fld w 0 1)) else
  .error .reservedCode

/-- Major opcode 0x13 (R151). -/
def decodeCpack (w : IWord) : Except Reject Instr :=
  if fld w 1 6 = 0x0 then if fld w 21 1 = 0 then .ok (.cpack (fld w 28 4) (fld w 17 4) (fld w 12 5) (fld w 7 5) (fld w 0 1)) else .error .reservedField else
  if fld w 1 6 = 0x1 then if fld w 21 1 = 0 then .ok (.cunpk (fld w 28 4) (fld w 17 4) (fld w 12 5) (fld w 7 5) (fld w 0 1)) else .error .reservedField else
  .error .reservedCode

/-- Major opcode 0x14 (R151). -/
def decodeCmcast (w : IWord) : Except Reject Instr :=
  if fld w 1 6 = 0x0 then .ok (.cmcast (fld w 28 4) (fld w 17 5) (fld w 12 5) (fld w 7 5) (fld w 0 1)) else
  .error .reservedCode

/-- Major opcode 0x15 (R151). -/
def decodeCfill (w : IWord) : Except Reject Instr :=
  if fld w 1 6 = 0x0 then .ok (.cfill (fld w 28 4) (fld w 17 5) (fld w 12 5) (fld w 7 5) (fld w 0 1)) else
  .error .reservedCode

/-- Major opcode 0x18 (R151). -/
def decodeMcfg (w : IWord) : Except Reject Instr :=
  if fld w 0 7 = 0x0 then if fld w 7 10 = 0 then .ok (.mcfg (fld w 28 4) (fld w 17 5)) else .error .reservedField else
  .error .reservedCode

/-- Major opcode 0x19 (R151). -/
def decodeMwld (w : IWord) : Except Reject Instr :=
  if fld w 0 7 = 0x0 then if fld w 7 5 = 0 ∧ fld w 21 1 = 0 then .ok (.mwld (fld w 28 4) (fld w 17 4) (fld w 12 5)) else .error .reservedField else
  .error .reservedCode

/-- Major opcode 0x1a (R151). -/
def decodeMwswap (w : IWord) : Except Reject Instr :=
  if fld w 0 7 = 0x0 then if fld w 7 15 = 0 then .ok (.mwswap (fld w 28 4)) else .error .reservedField else
  .error .reservedCode

/-- Major opcode 0x1b (R151). -/
def decodeMscl (w : IWord) : Except Reject Instr :=
  if fld w 0 7 = 0x0 then if fld w 7 5 = 0 then .ok (.msclA (fld w 28 4) (fld w 17 5) (fld w 12 5)) else .error .reservedField else
  if fld w 0 7 = 0x1 then if fld w 7 10 = 0 then .ok (.msclW (fld w 28 4) (fld w 17 5)) else .error .reservedField else
  .error .reservedCode

/-- Major opcode 0x1c (R151). -/
def decodeMma (w : IWord) : Except Reject Instr :=
  if fld w 2 5 = 0x0 then if fld w 16 1 = 0 ∧ fld w 21 1 = 0 then .ok (.mma (fld w 28 4) (fld w 17 4) (fld w 12 4) (fld w 7 5) (fld w 0 2)) else .error .reservedField else
  .error .reservedCode

/-- Major opcode 0x1d (R151). -/
def decodeMzero (w : IWord) : Except Reject Instr :=
  if fld w 0 7 = 0x0 then if fld w 7 10 = 0 ∧ fld w 21 1 = 0 then .ok (.mzero (fld w 28 4) (fld w 17 4)) else .error .reservedField else
  .error .reservedCode

/-- Major opcode 0x1e (R151). -/
def decodeMdrain (w : IWord) : Except Reject Instr :=
  if fld w 4 3 = 0x0 then if fld w 11 1 = 0 ∧ fld w 16 1 = 0 ∧ fld w 21 1 = 0 then .ok (.mdrain (fld w 28 4) (fld w 17 4) (fld w 12 4) (fld w 7 4) (fld w 3 1) (fld w 2 1) (fld w 0 2)) else .error .reservedField else
  .error .reservedCode

/-- Major opcode 0x20 (R151). -/
def decodeScfg (w : IWord) : Except Reject Instr :=
  if fld w 0 7 = 0x0 then if fld w 7 10 = 0 then .ok (.scfg (fld w 28 4) (fld w 17 5)) else .error .reservedField else
  .error .reservedCode

/-- Major opcode 0x21 (R151). -/
def decodeSdecay (w : IWord) : Except Reject Instr :=
  if fld w 0 7 = 0x0 then if fld w 16 1 = 0 ∧ fld w 21 1 = 0 then .ok (.sdecay (fld w 28 4) (fld w 17 4) (fld w 12 4) (fld w 7 5)) else .error .reservedField else
  .error .reservedCode

/-- Major opcode 0x22 (R151). -/
def decodeSchunk (w : IWord) : Except Reject Instr :=
  if fld w 0 7 = 0x0 then if fld w 11 1 = 0 ∧ fld w 16 1 = 0 ∧ fld w 21 1 = 0 then .ok (.schunk (fld w 28 4) (fld w 17 4) (fld w 12 4) (fld w 7 4)) else .error .reservedField else
  .error .reservedCode

/-- Major opcode 0x23 (R151). -/
def decodeSstep (w : IWord) : Except Reject Instr :=
  if fld w 0 7 = 0x0 then if fld w 11 1 = 0 ∧ fld w 16 1 = 0 ∧ fld w 21 1 = 0 then .ok (.sstep (fld w 28 4) (fld w 17 4) (fld w 12 4) (fld w 7 4)) else .error .reservedField else
  .error .reservedCode

/-- Major opcode 0x24 (R151). -/
def decodeSout (w : IWord) : Except Reject Instr :=
  if fld w 0 7 = 0x0 then if fld w 11 1 = 0 ∧ fld w 16 1 = 0 ∧ fld w 21 1 = 0 then .ok (.sout (fld w 28 4) (fld w 17 4) (fld w 12 4) (fld w 7 4)) else .error .reservedField else
  .error .reservedCode

/-- Major opcode 0x25 (R151). -/
def decodeSver (w : IWord) : Except Reject Instr :=
  if fld w 0 7 = 0x0 then if fld w 16 1 = 0 ∧ fld w 21 1 = 0 then .ok (.ssnap (fld w 28 4) (fld w 17 4) (fld w 12 4) (fld w 7 5)) else .error .reservedField else
  if fld w 0 7 = 0x1 then if fld w 16 1 = 0 ∧ fld w 21 1 = 0 then .ok (.sfork (fld w 28 4) (fld w 17 4) (fld w 12 4) (fld w 7 5)) else .error .reservedField else
  if fld w 0 7 = 0x2 then if fld w 16 1 = 0 ∧ fld w 21 1 = 0 then .ok (.sroll (fld w 28 4) (fld w 17 4) (fld w 12 4) (fld w 7 5)) else .error .reservedField else
  if fld w 0 7 = 0x3 then if fld w 7 10 = 0 ∧ fld w 21 1 = 0 then .ok (.scommit (fld w 28 4) (fld w 17 4)) else .error .reservedField else
  .error .reservedCode

/-- Major opcode 0x26 (R151). -/
def decodeSpair (w : IWord) : Except Reject Instr :=
  if fld w 0 7 = 0x0 then if fld w 7 5 = 0 ∧ fld w 16 1 = 0 ∧ fld w 21 1 = 0 then .ok (.spairBf16 (fld w 28 4) (fld w 17 4) (fld w 12 4)) else .error .reservedField else
  if fld w 0 7 = 0x1 then if fld w 7 5 = 0 ∧ fld w 16 1 = 0 ∧ fld w 21 1 = 0 then .ok (.spairFp32 (fld w 28 4) (fld w 17 4) (fld w 12 4)) else .error .reservedField else
  if fld w 0 7 = 0x2 then if fld w 7 5 = 0 ∧ fld w 16 1 = 0 ∧ fld w 21 1 = 0 then .ok (.spairPair (fld w 28 4) (fld w 17 4) (fld w 12 4)) else .error .reservedField else
  .error .reservedCode

/-- Major opcode 0x28 (R151). -/
def decodeVmem (w : IWord) : Except Reject Instr :=
  if fld w 0 4 = 0x0 then if fld w 16 1 = 0 then .ok (.vld (fld w 28 4) (fld w 17 5) (fld w 12 4) (fld w 7 5) (fld w 4 3)) else .error .reservedField else
  if fld w 2 1 = 0x1 then if fld w 16 1 = 0 then .ok (.vst (fld w 28 4) (fld w 17 5) (fld w 12 4) (fld w 7 5) (fld w 4 3) (fld w 3 1) (fld w 0 2)) else .error .reservedField else
  .error .reservedCode

/-- Major opcode 0x29 (R151). -/
def decodeLaneF (w : IWord) : Except Reject Instr :=
  if fld w 0 4 = 0x0 then .ok (.vaddF (fld w 28 4) (fld w 17 5) (fld w 12 5) (fld w 7 5) (fld w 4 3)) else
  if fld w 0 4 = 0x1 then .ok (.vsubF (fld w 28 4) (fld w 17 5) (fld w 12 5) (fld w 7 5) (fld w 4 3)) else
  if fld w 0 4 = 0x2 then .ok (.vmulF (fld w 28 4) (fld w 17 5) (fld w 12 5) (fld w 7 5) (fld w 4 3)) else
  if fld w 0 4 = 0x3 then .ok (.vfmaF (fld w 28 4) (fld w 17 5) (fld w 12 5) (fld w 7 5) (fld w 4 3)) else
  if fld w 0 4 = 0x4 then .ok (.vfnmaF (fld w 28 4) (fld w 17 5) (fld w 12 5) (fld w 7 5) (fld w 4 3)) else
  if fld w 0 4 = 0x5 then .ok (.vminF (fld w 28 4) (fld w 17 5) (fld w 12 5) (fld w 7 5) (fld w 4 3)) else
  if fld w 0 4 = 0x6 then .ok (.vmaxF (fld w 28 4) (fld w 17 5) (fld w 12 5) (fld w 7 5) (fld w 4 3)) else
  if fld w 0 4 = 0x7 then if fld w 7 5 = 0 then .ok (.vabsF (fld w 28 4) (fld w 17 5) (fld w 12 5) (fld w 4 3)) else .error .reservedField else
  if fld w 0 4 = 0x8 then if fld w 7 5 = 0 then .ok (.vnegF (fld w 28 4) (fld w 17 5) (fld w 12 5) (fld w 4 3)) else .error .reservedField else
  if fld w 0 4 = 0x9 then .ok (.vcadd (fld w 28 4) (fld w 17 5) (fld w 12 5) (fld w 7 5) (fld w 4 3)) else
  if fld w 0 4 = 0xa then .ok (.vcmul (fld w 28 4) (fld w 17 5) (fld w 12 5) (fld w 7 5) (fld w 4 3)) else
  .error .reservedCode

/-- Major opcode 0x2a (R151). -/
def decodeLaneI (w : IWord) : Except Reject Instr :=
  if fld w 0 4 = 0x0 then .ok (.vaddI (fld w 28 4) (fld w 17 5) (fld w 12 5) (fld w 7 5) (fld w 4 3)) else
  if fld w 0 4 = 0x1 then .ok (.vsubI (fld w 28 4) (fld w 17 5) (fld w 12 5) (fld w 7 5) (fld w 4 3)) else
  if fld w 0 4 = 0x2 then .ok (.vmulI (fld w 28 4) (fld w 17 5) (fld w 12 5) (fld w 7 5) (fld w 4 3)) else
  if fld w 0 4 = 0x3 then .ok (.vand (fld w 28 4) (fld w 17 5) (fld w 12 5) (fld w 7 5) (fld w 4 3)) else
  if fld w 0 4 = 0x4 then .ok (.vor (fld w 28 4) (fld w 17 5) (fld w 12 5) (fld w 7 5) (fld w 4 3)) else
  if fld w 0 4 = 0x5 then .ok (.vxor (fld w 28 4) (fld w 17 5) (fld w 12 5) (fld w 7 5) (fld w 4 3)) else
  if fld w 0 4 = 0x6 then .ok (.vsll (fld w 28 4) (fld w 17 5) (fld w 12 5) (fld w 7 5) (fld w 4 3)) else
  if fld w 0 4 = 0x7 then .ok (.vsrl (fld w 28 4) (fld w 17 5) (fld w 12 5) (fld w 7 5) (fld w 4 3)) else
  if fld w 0 4 = 0x8 then .ok (.vsra (fld w 28 4) (fld w 17 5) (fld w 12 5) (fld w 7 5) (fld w 4 3)) else
  if fld w 0 4 = 0x9 then .ok (.vminI (fld w 28 4) (fld w 17 5) (fld w 12 5) (fld w 7 5) (fld w 4 3)) else
  if fld w 0 4 = 0xa then .ok (.vmaxI (fld w 28 4) (fld w 17 5) (fld w 12 5) (fld w 7 5) (fld w 4 3)) else
  if fld w 0 4 = 0xb then .ok (.vaddsI (fld w 28 4) (fld w 17 5) (fld w 12 5) (fld w 7 5) (fld w 4 3)) else
  if fld w 0 4 = 0xc then .ok (.vsubsI (fld w 28 4) (fld w 17 5) (fld w 12 5) (fld w 7 5) (fld w 4 3)) else
  .error .reservedCode

/-- Major opcode 0x2b (R151). -/
def decodeMask (w : IWord) : Except Reject Instr :=
  if fld w 0 4 = 0x0 then if fld w 20 2 = 0 then .ok (.vcmpEqF (fld w 28 4) (fld w 17 3) (fld w 12 5) (fld w 7 5) (fld w 4 3)) else .error .reservedField else
  if fld w 0 4 = 0x1 then if fld w 20 2 = 0 then .ok (.vcmpLtF (fld w 28 4) (fld w 17 3) (fld w 12 5) (fld w 7 5) (fld w 4 3)) else .error .reservedField else
  if fld w 0 4 = 0x2 then if fld w 20 2 = 0 then .ok (.vcmpLeF (fld w 28 4) (fld w 17 3) (fld w 12 5) (fld w 7 5) (fld w 4 3)) else .error .reservedField else
  if fld w 0 4 = 0x3 then if fld w 20 2 = 0 then .ok (.vcmpUnF (fld w 28 4) (fld w 17 3) (fld w 12 5) (fld w 7 5) (fld w 4 3)) else .error .reservedField else
  if fld w 0 4 = 0x4 then if fld w 20 2 = 0 then .ok (.vcmpEqI (fld w 28 4) (fld w 17 3) (fld w 12 5) (fld w 7 5) (fld w 4 3)) else .error .reservedField else
  if fld w 0 4 = 0x5 then if fld w 20 2 = 0 then .ok (.vcmpLtI (fld w 28 4) (fld w 17 3) (fld w 12 5) (fld w 7 5) (fld w 4 3)) else .error .reservedField else
  if fld w 0 4 = 0x6 then if fld w 20 2 = 0 then .ok (.vcmpLtuI (fld w 28 4) (fld w 17 3) (fld w 12 5) (fld w 7 5) (fld w 4 3)) else .error .reservedField else
  if fld w 0 4 = 0x7 then .ok (.vsel (fld w 28 4) (fld w 17 5) (fld w 12 5) (fld w 7 5) (fld w 4 3)) else
  if fld w 0 4 = 0x8 then if fld w 10 2 = 0 ∧ fld w 15 2 = 0 ∧ fld w 20 2 = 0 then .ok (.mand (fld w 28 4) (fld w 17 3) (fld w 12 3) (fld w 7 3) (fld w 4 3)) else .error .reservedField else
  if fld w 0 4 = 0x9 then if fld w 10 2 = 0 ∧ fld w 15 2 = 0 ∧ fld w 20 2 = 0 then .ok (.mor (fld w 28 4) (fld w 17 3) (fld w 12 3) (fld w 7 3) (fld w 4 3)) else .error .reservedField else
  if fld w 0 4 = 0xa then if fld w 10 2 = 0 ∧ fld w 15 2 = 0 ∧ fld w 20 2 = 0 then .ok (.mxor (fld w 28 4) (fld w 17 3) (fld w 12 3) (fld w 7 3) (fld w 4 3)) else .error .reservedField else
  if fld w 0 4 = 0xb then if fld w 7 5 = 0 ∧ fld w 15 2 = 0 ∧ fld w 20 2 = 0 then .ok (.mnot (fld w 28 4) (fld w 17 3) (fld w 12 3) (fld w 4 3)) else .error .reservedField else
  .error .reservedCode

/-- Major opcode 0x2c (R151). -/
def decodeRow (w : IWord) : Except Reject Instr :=
  if fld w 0 4 = 0x0 then .ok (.vrotr (fld w 28 4) (fld w 17 5) (fld w 12 5) (fld w 7 5) (fld w 4 3)) else
  if fld w 0 4 = 0x1 then .ok (.vbcr (fld w 28 4) (fld w 17 5) (fld w 12 5) (fld w 7 5) (fld w 4 3)) else
  if fld w 0 4 = 0x2 then if fld w 7 5 = 0 then .ok (.vredrAdd (fld w 28 4) (fld w 17 5) (fld w 12 5) (fld w 4 3)) else .error .reservedField else
  if fld w 0 4 = 0x3 then if fld w 7 5 = 0 then .ok (.vredrMax (fld w 28 4) (fld w 17 5) (fld w 12 5) (fld w 4 3)) else .error .reservedField else
  if fld w 0 4 = 0x4 then if fld w 7 5 = 0 then .ok (.vredrMin (fld w 28 4) (fld w 17 5) (fld w 12 5) (fld w 4 3)) else .error .reservedField else
  .error .reservedCode

/-- Major opcode 0x2d (R151). -/
def decodeCol (w : IWord) : Except Reject Instr :=
  if fld w 0 4 = 0x0 then .ok (.vrotc (fld w 28 4) (fld w 17 5) (fld w 12 5) (fld w 7 5) (fld w 4 3)) else
  if fld w 0 4 = 0x1 then .ok (.vbcc (fld w 28 4) (fld w 17 5) (fld w 12 5) (fld w 7 5) (fld w 4 3)) else
  if fld w 0 4 = 0x2 then if fld w 7 5 = 0 then .ok (.vredcAdd (fld w 28 4) (fld w 17 5) (fld w 12 5) (fld w 4 3)) else .error .reservedField else
  if fld w 0 4 = 0x3 then if fld w 7 5 = 0 then .ok (.vredcMax (fld w 28 4) (fld w 17 5) (fld w 12 5) (fld w 4 3)) else .error .reservedField else
  if fld w 0 4 = 0x4 then if fld w 7 5 = 0 then .ok (.vredcMin (fld w 28 4) (fld w 17 5) (fld w 12 5) (fld w 4 3)) else .error .reservedField else
  .error .reservedCode

/-- Major opcode 0x2e (R151). -/
def decodeMove (w : IWord) : Except Reject Instr :=
  if fld w 0 4 = 0x0 then .ok (.vxchC (fld w 28 4) (fld w 17 5) (fld w 12 5) (fld w 7 5) (fld w 4 3)) else
  if fld w 0 4 = 0x1 then .ok (.vxchR (fld w 28 4) (fld w 17 5) (fld w 12 5) (fld w 7 5) (fld w 4 3)) else
  if fld w 0 4 = 0x2 then .ok (.vslice (fld w 28 4) (fld w 17 5) (fld w 12 5) (fld w 7 5) (fld w 4 3)) else
  if fld w 0 4 = 0x3 then .ok (.vins (fld w 28 4) (fld w 17 5) (fld w 12 5) (fld w 7 5) (fld w 4 3)) else
  if fld w 0 4 = 0x4 then .ok (.vext (fld w 28 4) (fld w 17 5) (fld w 12 5) (fld w 7 5) (fld w 4 3)) else
  .error .reservedCode

/-- Major opcode 0x2f (R151). -/
def decodeVsf (w : IWord) : Except Reject Instr :=
  if fld w 0 4 = 0x0 then if fld w 7 5 = 0 then .ok (.vsfExp2 (fld w 28 4) (fld w 17 5) (fld w 12 5) (fld w 4 3)) else .error .reservedField else
  if fld w 0 4 = 0x1 then if fld w 7 5 = 0 then .ok (.vsfExp (fld w 28 4) (fld w 17 5) (fld w 12 5) (fld w 4 3)) else .error .reservedField else
  if fld w 0 4 = 0x2 then if fld w 7 5 = 0 then .ok (.vsfLog2 (fld w 28 4) (fld w 17 5) (fld w 12 5) (fld w 4 3)) else .error .reservedField else
  if fld w 0 4 = 0x3 then if fld w 7 5 = 0 then .ok (.vsfLn (fld w 28 4) (fld w 17 5) (fld w 12 5) (fld w 4 3)) else .error .reservedField else
  if fld w 0 4 = 0x4 then if fld w 7 5 = 0 then .ok (.vsfSigmoid (fld w 28 4) (fld w 17 5) (fld w 12 5) (fld w 4 3)) else .error .reservedField else
  if fld w 0 4 = 0x5 then if fld w 7 5 = 0 then .ok (.vsfTanh (fld w 28 4) (fld w 17 5) (fld w 12 5) (fld w 4 3)) else .error .reservedField else
  if fld w 0 4 = 0x6 then if fld w 7 5 = 0 then .ok (.vsfSilu (fld w 28 4) (fld w 17 5) (fld w 12 5) (fld w 4 3)) else .error .reservedField else
  if fld w 0 4 = 0x7 then if fld w 7 5 = 0 then .ok (.vsfSoftplus (fld w 28 4) (fld w 17 5) (fld w 12 5) (fld w 4 3)) else .error .reservedField else
  if fld w 0 4 = 0x8 then if fld w 7 5 = 0 then .ok (.vsfSinpi (fld w 28 4) (fld w 17 5) (fld w 12 5) (fld w 4 3)) else .error .reservedField else
  if fld w 0 4 = 0x9 then if fld w 7 5 = 0 then .ok (.vsfCospi (fld w 28 4) (fld w 17 5) (fld w 12 5) (fld w 4 3)) else .error .reservedField else
  .error .reservedCode

/-- Major opcode 0x30 (R151). -/
def decodeRecip (w : IWord) : Except Reject Instr :=
  if fld w 0 4 = 0x0 then if fld w 7 5 = 0 then .ok (.vrcp (fld w 28 4) (fld w 17 5) (fld w 12 5) (fld w 4 3)) else .error .reservedField else
  if fld w 0 4 = 0x1 then if fld w 7 5 = 0 then .ok (.vrsq (fld w 28 4) (fld w 17 5) (fld w 12 5) (fld w 4 3)) else .error .reservedField else
  if fld w 0 4 = 0x2 then if fld w 4 8 = 0 then .ok (.vrmsPart (fld w 28 4) (fld w 17 5) (fld w 12 5)) else .error .reservedField else
  if fld w 0 4 = 0x3 then if fld w 4 3 = 0 then .ok (.vrms (fld w 28 4) (fld w 17 5) (fld w 12 5) (fld w 7 5)) else .error .reservedField else
  .error .reservedCode

/-- Major opcode 0x31 (R151). -/
def decodeVcvt (w : IWord) : Except Reject Instr :=
  if fld w 3 1 = 0x0 then .ok (.vcvt (fld w 28 4) (fld w 17 5) (fld w 12 5) (fld w 7 5) (fld w 4 3) (fld w 2 1) (fld w 0 2)) else
  if fld w 0 4 = 0x8 then if fld w 4 3 = 0 ∧ fld w 9 3 = 0 then .ok (.vqmx (fld w 28 4) (fld w 17 5) (fld w 12 5) (fld w 7 2)) else .error .reservedField else
  .error .reservedCode

/-- Major opcode 0x32 (R151). -/
def decodeSelect (w : IWord) : Except Reject Instr :=
  if fld w 0 4 = 0x0 then if fld w 21 1 = 0 then .ok (.vbkt (fld w 28 4) (fld w 17 4) (fld w 12 5) (fld w 7 5) (fld w 4 3)) else .error .reservedField else
  if fld w 0 4 = 0x1 then .ok (.vmsk (fld w 28 4) (fld w 17 5) (fld w 12 5) (fld w 7 5) (fld w 4 3)) else
  if fld w 0 4 = 0x2 then .ok (.vrand (fld w 28 4) (fld w 17 5) (fld w 12 5) (fld w 7 5) (fld w 4 3)) else
  .error .reservedCode

/-- Major opcode 0x33 (R151). -/
def decodePark (w : IWord) : Except Reject Instr :=
  if fld w 0 4 = 0x0 then if fld w 4 8 = 0 then .ok (.vpark (fld w 28 4) (fld w 17 5) (fld w 12 5)) else .error .reservedField else
  if fld w 0 4 = 0x1 then if fld w 4 8 = 0 then .ok (.vunpark (fld w 28 4) (fld w 17 5) (fld w 12 5)) else .error .reservedField else
  .error .reservedCode

/-- Major opcode 0x34 (R151). -/
def decodeCout (w : IWord) : Except Reject Instr :=
  if fld w 1 3 = 0x0 then if fld w 4 3 = 0 then .ok (.cout (fld w 28 4) (fld w 17 5) (fld w 12 5) (fld w 7 5) (fld w 0 1)) else .error .reservedField else
  .error .reservedCode

/-- Major opcode 0x35 (R151). -/
def decodeCred (w : IWord) : Except Reject Instr :=
  if fld w 1 3 = 0x0 then if fld w 4 3 = 0 then .ok (.credAddf (fld w 28 4) (fld w 17 5) (fld w 12 5) (fld w 7 5) (fld w 0 1)) else .error .reservedField else
  if fld w 1 3 = 0x1 then if fld w 4 3 = 0 then .ok (.credAddbf (fld w 28 4) (fld w 17 5) (fld w 12 5) (fld w 7 5) (fld w 0 1)) else .error .reservedField else
  if fld w 1 3 = 0x2 then if fld w 4 3 = 0 then .ok (.credAddi (fld w 28 4) (fld w 17 5) (fld w 12 5) (fld w 7 5) (fld w 0 1)) else .error .reservedField else
  if fld w 1 3 = 0x3 then if fld w 4 3 = 0 then .ok (.credMaxf (fld w 28 4) (fld w 17 5) (fld w 12 5) (fld w 7 5) (fld w 0 1)) else .error .reservedField else
  if fld w 1 3 = 0x4 then if fld w 4 3 = 0 then .ok (.credMinf (fld w 28 4) (fld w 17 5) (fld w 12 5) (fld w 7 5) (fld w 0 1)) else .error .reservedField else
  .error .reservedCode

/-- Major opcode 0x36 (R151). -/
def decodeCstrm (w : IWord) : Except Reject Instr :=
  if fld w 0 4 = 0x0 then if fld w 4 3 = 0 then .ok (.cstrm (fld w 28 4) (fld w 17 5) (fld w 12 5) (fld w 7 5)) else .error .reservedField else
  .error .reservedCode

/-- Major opcode 0x37 (R151). -/
def decodeCnesto (w : IWord) : Except Reject Instr :=
  if fld w 3 1 = 0x0 then if fld w 4 3 = 0 then .ok (.cnestoL (fld w 28 4) (fld w 17 5) (fld w 12 5) (fld w 7 5) (fld w 0 3)) else .error .reservedField else
  if fld w 1 3 = 0x4 then if fld w 4 3 = 0 then .ok (.cnestoGo (fld w 28 4) (fld w 17 5) (fld w 12 5) (fld w 7 5) (fld w 0 1)) else .error .reservedField else
  .error .reservedCode

/-- Major opcode 0x38 (R151). -/
def decodeOx (w : IWord) : Except Reject Instr :=
  .ok (.ox (fld w 28 4) (fld w 17 5) (fld w 12 5) (fld w 7 5) (fld w 4 3) (fld w 0 4))

/-- Major opcode 0x39 (R151). -/
def decodeOchre (w : IWord) : Except Reject Instr :=
  if fld w 0 4 = 0x0 then if fld w 4 3 = 0 ∧ fld w 21 1 = 0 then .ok (.oload (fld w 28 4) (fld w 17 4) (fld w 12 5) (fld w 7 5)) else .error .reservedField else
  if fld w 0 4 = 0x1 then if fld w 4 13 = 0 ∧ fld w 21 1 = 0 then .ok (.ounld (fld w 28 4) (fld w 17 4)) else .error .reservedField else
  if fld w 0 4 = 0x2 then if fld w 4 13 = 0 then .ok (.ostat (fld w 28 4) (fld w 17 5)) else .error .reservedField else
  .error .reservedCode

/-- Major opcode 0x3c (R151). -/
def decodeRequest (w : IWord) : Except Reject Instr :=
  if fld w 0 7 = 0x0 then .ok (.qrd (fld w 17 5) (fld w 12 5) (fld w 7 5)) else
  if fld w 0 7 = 0x1 then .ok (.qwr (fld w 17 5) (fld w 12 5) (fld w 7 5)) else
  if fld w 0 7 = 0x2 then if fld w 7 5 = 0 then .ok (.qslot (fld w 17 5) (fld w 12 5)) else .error .reservedField else
  if fld w 0 7 = 0x3 then .ok (.qstop (fld w 17 5) (fld w 12 5) (fld w 7 5)) else
  if fld w 0 7 = 0x4 then if fld w 17 5 = 0 then .ok (.qret (fld w 12 5) (fld w 7 5)) else .error .reservedField else
  if fld w 0 7 = 0x5 then if fld w 17 5 = 0 then .ok (.qfault (fld w 12 5) (fld w 7 5)) else .error .reservedField else
  .error .reservedCode

/-- Major opcode 0x3d (R151). -/
def decodeSys (w : IWord) : Except Reject Instr :=
  if fld w 0 7 = 0x0 then if fld w 7 15 = 0 then .ok (.sret) else .error .reservedField else
  if fld w 0 7 = 0x1 then if fld w 7 5 = 0 ∧ fld w 17 5 = 0 then .ok (.escal (fld w 12 5)) else .error .reservedField else
  if fld w 0 7 = 0x2 then if fld w 10 2 = 0 ∧ fld w 17 5 = 0 then .ok (.tlbinvVa (fld w 12 5) (fld w 7 3)) else .error .reservedField else
  if fld w 0 7 = 0x3 then if fld w 10 12 = 0 then .ok (.tlbinvTen (fld w 7 3)) else .error .reservedField else
  if fld w 0 7 = 0x4 then if fld w 7 15 = 0 then .ok (.tlbinvAll) else .error .reservedField else
  if fld w 0 7 = 0x5 then if fld w 12 10 = 0 then .ok (.qdrop (fld w 7 5)) else .error .reservedField else
  if fld w 0 7 = 0x6 then if fld w 11 1 = 0 ∧ fld w 17 5 = 0 then .ok (.tokset (fld w 12 5) (fld w 7 4)) else .error .reservedField else
  if fld w 0 7 = 0x7 then if fld w 8 3 = 0 ∧ fld w 12 10 = 0 then .ok (.parkdrop (fld w 11 1) (fld w 7 1)) else .error .reservedField else
  if fld w 0 7 = 0x8 then if fld w 7 15 = 0 then .ok (.wfi) else .error .reservedField else
  if fld w 0 7 = 0x9 then if fld w 7 15 = 0 then .ok (.ochinv) else .error .reservedField else
  if fld w 0 7 = 0xa then if fld w 7 10 = 0 then .ok (.poisclr (fld w 17 5)) else .error .reservedField else
  if fld w 0 7 = 0xb then if fld w 7 15 = 0 then .ok (.snaptrig) else .error .reservedField else
  .error .reservedCode

/-- Major opcode 0x3f (R151). -/
def decodeLimm (w : IWord) : Except Reject Instr :=
  .ok (.limm (fld w 0 22))

/-- The instruction a word encodes, or the check of R159 that refuses it. Checks 1 and 4 (DEP on a word the FE executes, on
SYS or on LIMM, R145), 2 (a reserved major, R151), 5 (a reserved code) and 6 (a reserved field) stand here; a field whose
value lies outside its kind (R147) is refused by the instruction itself, with the same trap. -/
def decode (w : IWord) : Except Reject Instr :=
  match (fld w 22 6).toNat with
  | 0x00 => if fld w 28 4 = 0 then decodeInt w else .error .dep
  | 0x01 => if fld w 28 4 = 0 then decodeImm w else .error .dep
  | 0x02 => if fld w 28 4 = 0 then decodeMul w else .error .dep
  | 0x03 => if fld w 28 4 = 0 then decodeCmp w else .error .dep
  | 0x04 => if fld w 28 4 = 0 then decodeBranch w else .error .dep
  | 0x05 => if fld w 28 4 = 0 then decodeJump w else .error .dep
  | 0x06 => if fld w 28 4 = 0 then decodeLoad w else .error .dep
  | 0x07 => if fld w 28 4 = 0 then decodeStore w else .error .dep
  | 0x08 => if fld w 28 4 = 0 then decodeAtomic w else .error .dep
  | 0x09 => if fld w 28 4 = 0 then decodeSync w else .error .dep
  | 0x0a => if fld w 28 4 = 0 then decodeBarrier w else .error .dep
  | 0x0b => if fld w 28 4 = 0 then decodeWindow w else .error .dep
  | 0x0c => if fld w 28 4 = 0 then decodeCsr w else .error .dep
  | 0x0d => if fld w 28 4 = 0 then decodeShape w else .error .dep
  | 0x0e => if fld w 28 4 = 0 then decodeMadder w else .error .dep
  | 0x10 => decodeCin w
  | 0x11 => decodeCnest w
  | 0x12 => decodeCgath w
  | 0x13 => decodeCpack w
  | 0x14 => decodeCmcast w
  | 0x15 => decodeCfill w
  | 0x18 => decodeMcfg w
  | 0x19 => decodeMwld w
  | 0x1a => decodeMwswap w
  | 0x1b => decodeMscl w
  | 0x1c => decodeMma w
  | 0x1d => decodeMzero w
  | 0x1e => decodeMdrain w
  | 0x20 => decodeScfg w
  | 0x21 => decodeSdecay w
  | 0x22 => decodeSchunk w
  | 0x23 => decodeSstep w
  | 0x24 => decodeSout w
  | 0x25 => decodeSver w
  | 0x26 => decodeSpair w
  | 0x28 => decodeVmem w
  | 0x29 => decodeLaneF w
  | 0x2a => decodeLaneI w
  | 0x2b => decodeMask w
  | 0x2c => decodeRow w
  | 0x2d => decodeCol w
  | 0x2e => decodeMove w
  | 0x2f => decodeVsf w
  | 0x30 => decodeRecip w
  | 0x31 => decodeVcvt w
  | 0x32 => decodeSelect w
  | 0x33 => decodePark w
  | 0x34 => decodeCout w
  | 0x35 => decodeCred w
  | 0x36 => decodeCstrm w
  | 0x37 => decodeCnesto w
  | 0x38 => decodeOx w
  | 0x39 => decodeOchre w
  | 0x3c => if fld w 28 4 = 0 then decodeRequest w else .error .dep
  | 0x3d => if fld w 28 4 = 0 then decodeSys w else .error .dep
  | 0x3f => if fld w 28 4 = 0 then decodeLimm w else .error .dep
  | _ => .error .reservedMajor

/-- The word of an instruction (R146 to R158); an event has none. -/
def encode : Instr → Option IWord
  | .add d a b => some (0x0#4 ++ 0x0#6 ++ d ++ a ++ b ++ 0x0#7 : IWord)
  | .sub d a b => some (0x0#4 ++ 0x0#6 ++ d ++ a ++ b ++ 0x1#7 : IWord)
  | .and d a b => some (0x0#4 ++ 0x0#6 ++ d ++ a ++ b ++ 0x2#7 : IWord)
  | .or d a b => some (0x0#4 ++ 0x0#6 ++ d ++ a ++ b ++ 0x3#7 : IWord)
  | .xor d a b => some (0x0#4 ++ 0x0#6 ++ d ++ a ++ b ++ 0x4#7 : IWord)
  | .andn d a b => some (0x0#4 ++ 0x0#6 ++ d ++ a ++ b ++ 0x5#7 : IWord)
  | .sll d a b => some (0x0#4 ++ 0x0#6 ++ d ++ a ++ b ++ 0x6#7 : IWord)
  | .srl d a b => some (0x0#4 ++ 0x0#6 ++ d ++ a ++ b ++ 0x7#7 : IWord)
  | .sra d a b => some (0x0#4 ++ 0x0#6 ++ d ++ a ++ b ++ 0x8#7 : IWord)
  | .addw d a b => some (0x0#4 ++ 0x0#6 ++ d ++ a ++ b ++ 0x9#7 : IWord)
  | .subw d a b => some (0x0#4 ++ 0x0#6 ++ d ++ a ++ b ++ 0xa#7 : IWord)
  | .min d a b => some (0x0#4 ++ 0x0#6 ++ d ++ a ++ b ++ 0xb#7 : IWord)
  | .max d a b => some (0x0#4 ++ 0x0#6 ++ d ++ a ++ b ++ 0xc#7 : IWord)
  | .minu d a b => some (0x0#4 ++ 0x0#6 ++ d ++ a ++ b ++ 0xd#7 : IWord)
  | .maxu d a b => some (0x0#4 ++ 0x0#6 ++ d ++ a ++ b ++ 0xe#7 : IWord)
  | .clz d a => some (0x0#4 ++ 0x0#6 ++ d ++ a ++ 0xf#12 : IWord)
  | .ctz d a => some (0x0#4 ++ 0x0#6 ++ d ++ a ++ 0x10#12 : IWord)
  | .popc d a => some (0x0#4 ++ 0x0#6 ++ d ++ a ++ 0x11#12 : IWord)
  | .addi d a i => some (0x0#4 ++ 0x1#6 ++ d ++ a ++ 0x0#3 ++ i : IWord)
  | .andi d a i => some (0x0#4 ++ 0x1#6 ++ d ++ a ++ 0x1#3 ++ i : IWord)
  | .ori d a i => some (0x0#4 ++ 0x1#6 ++ d ++ a ++ 0x2#3 ++ i : IWord)
  | .xori d a i => some (0x0#4 ++ 0x1#6 ++ d ++ a ++ 0x3#3 ++ i : IWord)
  | .slli d a i => some (0x0#4 ++ 0x1#6 ++ d ++ a ++ 0x4#3 ++ i : IWord)
  | .srli d a i => some (0x0#4 ++ 0x1#6 ++ d ++ a ++ 0x5#3 ++ i : IWord)
  | .srai d a i => some (0x0#4 ++ 0x1#6 ++ d ++ a ++ 0x6#3 ++ i : IWord)
  | .addiw d a i => some (0x0#4 ++ 0x1#6 ++ d ++ a ++ 0x7#3 ++ i : IWord)
  | .mul d a b => some (0x0#4 ++ 0x2#6 ++ d ++ a ++ b ++ 0x0#7 : IWord)
  | .mulh d a b => some (0x0#4 ++ 0x2#6 ++ d ++ a ++ b ++ 0x1#7 : IWord)
  | .mulhu d a b => some (0x0#4 ++ 0x2#6 ++ d ++ a ++ b ++ 0x2#7 : IWord)
  | .mulhsu d a b => some (0x0#4 ++ 0x2#6 ++ d ++ a ++ b ++ 0x3#7 : IWord)
  | .div d a b => some (0x0#4 ++ 0x2#6 ++ d ++ a ++ b ++ 0x4#7 : IWord)
  | .divu d a b => some (0x0#4 ++ 0x2#6 ++ d ++ a ++ b ++ 0x5#7 : IWord)
  | .rem d a b => some (0x0#4 ++ 0x2#6 ++ d ++ a ++ b ++ 0x6#7 : IWord)
  | .remu d a b => some (0x0#4 ++ 0x2#6 ++ d ++ a ++ b ++ 0x7#7 : IWord)
  | .mulw d a b => some (0x0#4 ++ 0x2#6 ++ d ++ a ++ b ++ 0x8#7 : IWord)
  | .divw d a b => some (0x0#4 ++ 0x2#6 ++ d ++ a ++ b ++ 0x9#7 : IWord)
  | .remw d a b => some (0x0#4 ++ 0x2#6 ++ d ++ a ++ b ++ 0xa#7 : IWord)
  | .cmp p a b c => some (0x0#4 ++ 0x3#6 ++ p ++ a ++ b ++ c ++ 0x0#5 : IWord)
  | .cmpi p a i c => some (0x0#4 ++ 0x3#6 ++ p ++ a ++ i ++ c ++ 0x1#5 : IWord)
  | .pand p a b => some (0x0#4 ++ 0x3#6 ++ p ++ 0x0#2 ++ a ++ 0x0#2 ++ b ++ 0x2#9 : IWord)
  | .por p a b => some (0x0#4 ++ 0x3#6 ++ p ++ 0x0#2 ++ a ++ 0x0#2 ++ b ++ 0x3#9 : IWord)
  | .pxor p a b => some (0x0#4 ++ 0x3#6 ++ p ++ 0x0#2 ++ a ++ 0x0#2 ++ b ++ 0x4#9 : IWord)
  | .pnot p a => some (0x0#4 ++ 0x3#6 ++ p ++ 0x0#2 ++ a ++ 0x5#14 : IWord)
  | .br p o => some (0x0#4 ++ 0x4#6 ++ p ++ 0x0#1 ++ o : IWord)
  | .brF p o => some (0x0#4 ++ 0x4#6 ++ p ++ 0x1#1 ++ o : IWord)
  | .jmp o => some (0x0#4 ++ 0x5#6 ++ 0x0#4 ++ o : IWord)
  | .call o => some (0x0#4 ++ 0x5#6 ++ 0x2#4 ++ o : IWord)
  | .jr a => some (0x0#4 ++ 0x5#6 ++ 0x2#3 ++ a ++ 0x0#14 : IWord)
  | .callr a => some (0x0#4 ++ 0x5#6 ++ 0x3#3 ++ a ++ 0x0#14 : IWord)
  | .ret => some (0x0#4 ++ 0x5#6 ++ 0x200000#22 : IWord)
  | .loopi d i => some (0x0#4 ++ 0x5#6 ++ 0x5#3 ++ d ++ i : IWord)
  | .loopb a o => some (0x0#4 ++ 0x5#6 ++ 0x6#3 ++ a ++ o : IWord)
  | .ldB d b o => some (0x0#4 ++ 0x6#6 ++ d ++ b ++ 0x0#3 ++ o : IWord)
  | .ldH d b o => some (0x0#4 ++ 0x6#6 ++ d ++ b ++ 0x1#3 ++ o : IWord)
  | .ldW d b o => some (0x0#4 ++ 0x6#6 ++ d ++ b ++ 0x2#3 ++ o : IWord)
  | .ldD d b o => some (0x0#4 ++ 0x6#6 ++ d ++ b ++ 0x3#3 ++ o : IWord)
  | .ldBu d b o => some (0x0#4 ++ 0x6#6 ++ d ++ b ++ 0x4#3 ++ o : IWord)
  | .ldHu d b o => some (0x0#4 ++ 0x6#6 ++ d ++ b ++ 0x5#3 ++ o : IWord)
  | .ldWu d b o => some (0x0#4 ++ 0x6#6 ++ d ++ b ++ 0x6#3 ++ o : IWord)
  | .ldaq d b s z => some (0x0#4 ++ 0x6#6 ++ d ++ b ++ 0x7#3 ++ s ++ z ++ 0x0#4 : IWord)
  | .stB d b o => some (0x0#4 ++ 0x7#6 ++ d ++ b ++ 0x0#3 ++ o : IWord)
  | .stH d b o => some (0x0#4 ++ 0x7#6 ++ d ++ b ++ 0x1#3 ++ o : IWord)
  | .stW d b o => some (0x0#4 ++ 0x7#6 ++ d ++ b ++ 0x2#3 ++ o : IWord)
  | .stD d b o => some (0x0#4 ++ 0x7#6 ++ d ++ b ++ 0x3#3 ++ o : IWord)
  | .strl d b s z => some (0x0#4 ++ 0x7#6 ++ d ++ b ++ 0x7#3 ++ s ++ z ++ 0x0#4 : IWord)
  | .amoSwap d a z q l s => some (0x0#4 ++ 0x8#6 ++ d ++ a ++ 0x0#5 ++ z ++ q ++ l ++ s ++ 0x0#1 : IWord)
  | .amoAdd d a z q l s => some (0x0#4 ++ 0x8#6 ++ d ++ a ++ 0x1#5 ++ z ++ q ++ l ++ s ++ 0x0#1 : IWord)
  | .amoAnd d a z q l s => some (0x0#4 ++ 0x8#6 ++ d ++ a ++ 0x2#5 ++ z ++ q ++ l ++ s ++ 0x0#1 : IWord)
  | .amoOr d a z q l s => some (0x0#4 ++ 0x8#6 ++ d ++ a ++ 0x3#5 ++ z ++ q ++ l ++ s ++ 0x0#1 : IWord)
  | .amoXor d a z q l s => some (0x0#4 ++ 0x8#6 ++ d ++ a ++ 0x4#5 ++ z ++ q ++ l ++ s ++ 0x0#1 : IWord)
  | .amoMax d a z q l s => some (0x0#4 ++ 0x8#6 ++ d ++ a ++ 0x5#5 ++ z ++ q ++ l ++ s ++ 0x0#1 : IWord)
  | .amoMin d a z q l s => some (0x0#4 ++ 0x8#6 ++ d ++ a ++ 0x6#5 ++ z ++ q ++ l ++ s ++ 0x0#1 : IWord)
  | .amoMaxu d a z q l s => some (0x0#4 ++ 0x8#6 ++ d ++ a ++ 0x7#5 ++ z ++ q ++ l ++ s ++ 0x0#1 : IWord)
  | .amoMinu d a z q l s => some (0x0#4 ++ 0x8#6 ++ d ++ a ++ 0x8#5 ++ z ++ q ++ l ++ s ++ 0x0#1 : IWord)
  | .cas d a b z q l s => some (0x0#4 ++ 0x8#6 ++ d ++ a ++ b ++ z ++ q ++ l ++ s ++ 0x1#1 : IWord)
  | .fence d s => some (0x0#4 ++ 0x9#6 ++ d ++ 0x0#7 ++ s ++ 0x0#7 : IWord)
  | .qwait b => some (0x0#4 ++ 0x9#6 ++ 0x0#10 ++ b ++ 0x1#7 : IWord)
  | .gbar => some (0x0#4 ++ 0x9#6 ++ 0x2#22 : IWord)
  | .gbarStep d => some (0x0#4 ++ 0x9#6 ++ d ++ 0x3#17 : IWord)
  | .yield => some (0x0#4 ++ 0x9#6 ++ 0x4#22 : IWord)
  | .yieldExit => some (0x0#4 ++ 0x9#6 ++ 0x5#22 : IWord)
  | .abinit a => some (0x0#4 ++ 0xa#6 ++ 0x0#5 ++ a ++ 0x0#12 : IWord)
  | .abarm a b => some (0x0#4 ++ 0xa#6 ++ 0x0#5 ++ a ++ b ++ 0x1#7 : IWord)
  | .abwait a p => some (0x0#4 ++ 0xa#6 ++ 0x0#5 ++ a ++ 0x0#4 ++ p ++ 0x2#7 : IWord)
  | .slwait d a b => some (0x0#4 ++ 0xa#6 ++ d ++ a ++ b ++ 0x3#7 : IWord)
  | .slpop d a => some (0x0#4 ++ 0xa#6 ++ d ++ a ++ 0x4#12 : IWord)
  | .slfree a => some (0x0#4 ++ 0xa#6 ++ 0x0#5 ++ a ++ 0x5#12 : IWord)
  | .lea1 d a b => some (0x0#4 ++ 0xb#6 ++ d ++ a ++ b ++ 0x0#7 : IWord)
  | .lea2 d a b => some (0x0#4 ++ 0xb#6 ++ d ++ a ++ b ++ 0x1#7 : IWord)
  | .lea4 d a b => some (0x0#4 ++ 0xb#6 ++ d ++ a ++ b ++ 0x2#7 : IWord)
  | .lea8 d a b => some (0x0#4 ++ 0xb#6 ++ d ++ a ++ b ++ 0x3#7 : IWord)
  | .ispace d a => some (0x0#4 ++ 0xb#6 ++ d ++ a ++ 0x4#12 : IWord)
  | .cvspaceOff d a => some (0x0#4 ++ 0xb#6 ++ d ++ a ++ 0x5#12 : IWord)
  | .cvspacePrv d a => some (0x0#4 ++ 0xb#6 ++ d ++ a ++ 0x6#12 : IWord)
  | .cvspaceScr d a => some (0x0#4 ++ 0xb#6 ++ d ++ a ++ 0x7#12 : IWord)
  | .cvspaceDsh d a => some (0x0#4 ++ 0xb#6 ++ d ++ a ++ 0x8#12 : IWord)
  | .wbase d w => some (0x0#4 ++ 0xb#6 ++ d ++ 0x0#8 ++ w ++ 0x9#7 : IWord)
  | .rdcsr d i => some (0x0#4 ++ 0xc#6 ++ d ++ 0x0#8 ++ i : IWord)
  | .wrcsr a i => some (0x0#4 ++ 0xc#6 ++ 0x0#5 ++ a ++ 0x1#3 ++ i : IWord)
  | .rdts d => some (0x0#4 ++ 0xc#6 ++ d ++ 0x400#17 : IWord)
  | .trap n => some (0x0#4 ++ 0xc#6 ++ 0x6#14 ++ n : IWord)
  | .utret => some (0x0#4 ++ 0xc#6 ++ 0x800#22 : IWord)
  | .shape h a b => some (0x0#4 ++ 0xd#6 ++ 0x0#1 ++ h ++ a ++ b ++ 0x0#7 : IWord)
  | .shrdLo d h => some (0x0#4 ++ 0xd#6 ++ d ++ 0x0#1 ++ h ++ 0x1#12 : IWord)
  | .shrdHi d h => some (0x0#4 ++ 0xd#6 ++ d ++ 0x0#1 ++ h ++ 0x2#12 : IWord)
  | .gbind a b => some (0x0#4 ++ 0xe#6 ++ a ++ b ++ 0x0#12 : IWord)
  | .gadv a b => some (0x0#4 ++ 0xe#6 ++ a ++ b ++ 0x1#12 : IWord)
  | .gmask a b c => some (0x0#4 ++ 0xe#6 ++ a ++ b ++ c ++ 0x2#7 : IWord)
  | .gsnap a b => some (0x0#4 ++ 0xe#6 ++ a ++ b ++ 0x3#12 : IWord)
  | .gfork a b c => some (0x0#4 ++ 0xe#6 ++ a ++ b ++ c ++ 0x4#7 : IWord)
  | .groll a b => some (0x0#4 ++ 0xe#6 ++ a ++ b ++ 0x5#12 : IWord)
  | .gstat a b => some (0x0#4 ++ 0xe#6 ++ a ++ b ++ 0x6#12 : IWord)
  | .cin e a b c r => some (e ++ 0x10#6 ++ a ++ b ++ c ++ 0x0#6 ++ r : IWord)
  | .cnestL e a b c l => some (e ++ 0x11#6 ++ a ++ b ++ c ++ 0x0#4 ++ l : IWord)
  | .cnestGo e a b c r => some (e ++ 0x11#6 ++ a ++ b ++ c ++ 0x4#6 ++ r : IWord)
  | .cgath e a b c r => some (e ++ 0x12#6 ++ a ++ b ++ c ++ 0x0#6 ++ r : IWord)
  | .cpack e a b c r => some (e ++ 0x13#6 ++ 0x0#1 ++ a ++ b ++ c ++ 0x0#6 ++ r : IWord)
  | .cunpk e a b c r => some (e ++ 0x13#6 ++ 0x0#1 ++ a ++ b ++ c ++ 0x1#6 ++ r : IWord)
  | .cmcast e a b c r => some (e ++ 0x14#6 ++ a ++ b ++ c ++ 0x0#6 ++ r : IWord)
  | .cfill e a b c r => some (e ++ 0x15#6 ++ a ++ b ++ c ++ 0x0#6 ++ r : IWord)
  | .mcfg e a => some (e ++ 0x18#6 ++ a ++ 0x0#17 : IWord)
  | .mwld e a b => some (e ++ 0x19#6 ++ 0x0#1 ++ a ++ b ++ 0x0#12 : IWord)
  | .mwswap e => some (e ++ 0x1a#6 ++ 0x0#22 : IWord)
  | .msclA e a b => some (e ++ 0x1b#6 ++ a ++ b ++ 0x0#12 : IWord)
  | .msclW e a => some (e ++ 0x1b#6 ++ a ++ 0x1#17 : IWord)
  | .mma e a b c m => some (e ++ 0x1c#6 ++ 0x0#1 ++ a ++ 0x0#1 ++ b ++ c ++ 0x0#5 ++ m : IWord)
  | .mzero e a => some (e ++ 0x1d#6 ++ 0x0#1 ++ a ++ 0x0#17 : IWord)
  | .mdrain e a b c p s m => some (e ++ 0x1e#6 ++ 0x0#1 ++ a ++ 0x0#1 ++ b ++ 0x0#1 ++ c ++ 0x0#3 ++ p ++ s ++ m : IWord)
  | .scfg e a => some (e ++ 0x20#6 ++ a ++ 0x0#17 : IWord)
  | .sdecay e a b c => some (e ++ 0x21#6 ++ 0x0#1 ++ a ++ 0x0#1 ++ b ++ c ++ 0x0#7 : IWord)
  | .schunk e a b c => some (e ++ 0x22#6 ++ 0x0#1 ++ a ++ 0x0#1 ++ b ++ 0x0#1 ++ c ++ 0x0#7 : IWord)
  | .sstep e a b c => some (e ++ 0x23#6 ++ 0x0#1 ++ a ++ 0x0#1 ++ b ++ 0x0#1 ++ c ++ 0x0#7 : IWord)
  | .sout e a b c => some (e ++ 0x24#6 ++ 0x0#1 ++ a ++ 0x0#1 ++ b ++ 0x0#1 ++ c ++ 0x0#7 : IWord)
  | .ssnap e a b c => some (e ++ 0x25#6 ++ 0x0#1 ++ a ++ 0x0#1 ++ b ++ c ++ 0x0#7 : IWord)
  | .sfork e a b c => some (e ++ 0x25#6 ++ 0x0#1 ++ a ++ 0x0#1 ++ b ++ c ++ 0x1#7 : IWord)
  | .sroll e a b c => some (e ++ 0x25#6 ++ 0x0#1 ++ a ++ 0x0#1 ++ b ++ c ++ 0x2#7 : IWord)
  | .scommit e a => some (e ++ 0x25#6 ++ 0x0#1 ++ a ++ 0x3#17 : IWord)
  | .spairBf16 e a b => some (e ++ 0x26#6 ++ 0x0#1 ++ a ++ 0x0#1 ++ b ++ 0x0#12 : IWord)
  | .spairFp32 e a b => some (e ++ 0x26#6 ++ 0x0#1 ++ a ++ 0x0#1 ++ b ++ 0x1#12 : IWord)
  | .spairPair e a b => some (e ++ 0x26#6 ++ 0x0#1 ++ a ++ 0x0#1 ++ b ++ 0x2#12 : IWord)
  | .vld e d a b m => some (e ++ 0x28#6 ++ d ++ 0x0#1 ++ a ++ b ++ m ++ 0x0#4 : IWord)
  | .vst e d a b m s r => some (e ++ 0x28#6 ++ d ++ 0x0#1 ++ a ++ b ++ m ++ s ++ 0x1#1 ++ r : IWord)
  | .vaddF e d a b m => some (e ++ 0x29#6 ++ d ++ a ++ b ++ m ++ 0x0#4 : IWord)
  | .vsubF e d a b m => some (e ++ 0x29#6 ++ d ++ a ++ b ++ m ++ 0x1#4 : IWord)
  | .vmulF e d a b m => some (e ++ 0x29#6 ++ d ++ a ++ b ++ m ++ 0x2#4 : IWord)
  | .vfmaF e d a b m => some (e ++ 0x29#6 ++ d ++ a ++ b ++ m ++ 0x3#4 : IWord)
  | .vfnmaF e d a b m => some (e ++ 0x29#6 ++ d ++ a ++ b ++ m ++ 0x4#4 : IWord)
  | .vminF e d a b m => some (e ++ 0x29#6 ++ d ++ a ++ b ++ m ++ 0x5#4 : IWord)
  | .vmaxF e d a b m => some (e ++ 0x29#6 ++ d ++ a ++ b ++ m ++ 0x6#4 : IWord)
  | .vabsF e d a m => some (e ++ 0x29#6 ++ d ++ a ++ 0x0#5 ++ m ++ 0x7#4 : IWord)
  | .vnegF e d a m => some (e ++ 0x29#6 ++ d ++ a ++ 0x0#5 ++ m ++ 0x8#4 : IWord)
  | .vcadd e d a b m => some (e ++ 0x29#6 ++ d ++ a ++ b ++ m ++ 0x9#4 : IWord)
  | .vcmul e d a b m => some (e ++ 0x29#6 ++ d ++ a ++ b ++ m ++ 0xa#4 : IWord)
  | .vaddI e d a b m => some (e ++ 0x2a#6 ++ d ++ a ++ b ++ m ++ 0x0#4 : IWord)
  | .vsubI e d a b m => some (e ++ 0x2a#6 ++ d ++ a ++ b ++ m ++ 0x1#4 : IWord)
  | .vmulI e d a b m => some (e ++ 0x2a#6 ++ d ++ a ++ b ++ m ++ 0x2#4 : IWord)
  | .vand e d a b m => some (e ++ 0x2a#6 ++ d ++ a ++ b ++ m ++ 0x3#4 : IWord)
  | .vor e d a b m => some (e ++ 0x2a#6 ++ d ++ a ++ b ++ m ++ 0x4#4 : IWord)
  | .vxor e d a b m => some (e ++ 0x2a#6 ++ d ++ a ++ b ++ m ++ 0x5#4 : IWord)
  | .vsll e d a b m => some (e ++ 0x2a#6 ++ d ++ a ++ b ++ m ++ 0x6#4 : IWord)
  | .vsrl e d a b m => some (e ++ 0x2a#6 ++ d ++ a ++ b ++ m ++ 0x7#4 : IWord)
  | .vsra e d a b m => some (e ++ 0x2a#6 ++ d ++ a ++ b ++ m ++ 0x8#4 : IWord)
  | .vminI e d a b m => some (e ++ 0x2a#6 ++ d ++ a ++ b ++ m ++ 0x9#4 : IWord)
  | .vmaxI e d a b m => some (e ++ 0x2a#6 ++ d ++ a ++ b ++ m ++ 0xa#4 : IWord)
  | .vaddsI e d a b m => some (e ++ 0x2a#6 ++ d ++ a ++ b ++ m ++ 0xb#4 : IWord)
  | .vsubsI e d a b m => some (e ++ 0x2a#6 ++ d ++ a ++ b ++ m ++ 0xc#4 : IWord)
  | .vcmpEqF e d a b m => some (e ++ 0x2b#6 ++ 0x0#2 ++ d ++ a ++ b ++ m ++ 0x0#4 : IWord)
  | .vcmpLtF e d a b m => some (e ++ 0x2b#6 ++ 0x0#2 ++ d ++ a ++ b ++ m ++ 0x1#4 : IWord)
  | .vcmpLeF e d a b m => some (e ++ 0x2b#6 ++ 0x0#2 ++ d ++ a ++ b ++ m ++ 0x2#4 : IWord)
  | .vcmpUnF e d a b m => some (e ++ 0x2b#6 ++ 0x0#2 ++ d ++ a ++ b ++ m ++ 0x3#4 : IWord)
  | .vcmpEqI e d a b m => some (e ++ 0x2b#6 ++ 0x0#2 ++ d ++ a ++ b ++ m ++ 0x4#4 : IWord)
  | .vcmpLtI e d a b m => some (e ++ 0x2b#6 ++ 0x0#2 ++ d ++ a ++ b ++ m ++ 0x5#4 : IWord)
  | .vcmpLtuI e d a b m => some (e ++ 0x2b#6 ++ 0x0#2 ++ d ++ a ++ b ++ m ++ 0x6#4 : IWord)
  | .vsel e d a b m => some (e ++ 0x2b#6 ++ d ++ a ++ b ++ m ++ 0x7#4 : IWord)
  | .mand e d a b m => some (e ++ 0x2b#6 ++ 0x0#2 ++ d ++ 0x0#2 ++ a ++ 0x0#2 ++ b ++ m ++ 0x8#4 : IWord)
  | .mor e d a b m => some (e ++ 0x2b#6 ++ 0x0#2 ++ d ++ 0x0#2 ++ a ++ 0x0#2 ++ b ++ m ++ 0x9#4 : IWord)
  | .mxor e d a b m => some (e ++ 0x2b#6 ++ 0x0#2 ++ d ++ 0x0#2 ++ a ++ 0x0#2 ++ b ++ m ++ 0xa#4 : IWord)
  | .mnot e d a m => some (e ++ 0x2b#6 ++ 0x0#2 ++ d ++ 0x0#2 ++ a ++ 0x0#5 ++ m ++ 0xb#4 : IWord)
  | .vrotr e d a b m => some (e ++ 0x2c#6 ++ d ++ a ++ b ++ m ++ 0x0#4 : IWord)
  | .vbcr e d a b m => some (e ++ 0x2c#6 ++ d ++ a ++ b ++ m ++ 0x1#4 : IWord)
  | .vredrAdd e d a m => some (e ++ 0x2c#6 ++ d ++ a ++ 0x0#5 ++ m ++ 0x2#4 : IWord)
  | .vredrMax e d a m => some (e ++ 0x2c#6 ++ d ++ a ++ 0x0#5 ++ m ++ 0x3#4 : IWord)
  | .vredrMin e d a m => some (e ++ 0x2c#6 ++ d ++ a ++ 0x0#5 ++ m ++ 0x4#4 : IWord)
  | .vrotc e d a b m => some (e ++ 0x2d#6 ++ d ++ a ++ b ++ m ++ 0x0#4 : IWord)
  | .vbcc e d a b m => some (e ++ 0x2d#6 ++ d ++ a ++ b ++ m ++ 0x1#4 : IWord)
  | .vredcAdd e d a m => some (e ++ 0x2d#6 ++ d ++ a ++ 0x0#5 ++ m ++ 0x2#4 : IWord)
  | .vredcMax e d a m => some (e ++ 0x2d#6 ++ d ++ a ++ 0x0#5 ++ m ++ 0x3#4 : IWord)
  | .vredcMin e d a m => some (e ++ 0x2d#6 ++ d ++ a ++ 0x0#5 ++ m ++ 0x4#4 : IWord)
  | .vxchC e d a b m => some (e ++ 0x2e#6 ++ d ++ a ++ b ++ m ++ 0x0#4 : IWord)
  | .vxchR e d a b m => some (e ++ 0x2e#6 ++ d ++ a ++ b ++ m ++ 0x1#4 : IWord)
  | .vslice e d a b j => some (e ++ 0x2e#6 ++ d ++ a ++ b ++ j ++ 0x2#4 : IWord)
  | .vins e d a b j => some (e ++ 0x2e#6 ++ d ++ a ++ b ++ j ++ 0x3#4 : IWord)
  | .vext e d a b j => some (e ++ 0x2e#6 ++ d ++ a ++ b ++ j ++ 0x4#4 : IWord)
  | .vsfExp2 e d a m => some (e ++ 0x2f#6 ++ d ++ a ++ 0x0#5 ++ m ++ 0x0#4 : IWord)
  | .vsfExp e d a m => some (e ++ 0x2f#6 ++ d ++ a ++ 0x0#5 ++ m ++ 0x1#4 : IWord)
  | .vsfLog2 e d a m => some (e ++ 0x2f#6 ++ d ++ a ++ 0x0#5 ++ m ++ 0x2#4 : IWord)
  | .vsfLn e d a m => some (e ++ 0x2f#6 ++ d ++ a ++ 0x0#5 ++ m ++ 0x3#4 : IWord)
  | .vsfSigmoid e d a m => some (e ++ 0x2f#6 ++ d ++ a ++ 0x0#5 ++ m ++ 0x4#4 : IWord)
  | .vsfTanh e d a m => some (e ++ 0x2f#6 ++ d ++ a ++ 0x0#5 ++ m ++ 0x5#4 : IWord)
  | .vsfSilu e d a m => some (e ++ 0x2f#6 ++ d ++ a ++ 0x0#5 ++ m ++ 0x6#4 : IWord)
  | .vsfSoftplus e d a m => some (e ++ 0x2f#6 ++ d ++ a ++ 0x0#5 ++ m ++ 0x7#4 : IWord)
  | .vsfSinpi e d a m => some (e ++ 0x2f#6 ++ d ++ a ++ 0x0#5 ++ m ++ 0x8#4 : IWord)
  | .vsfCospi e d a m => some (e ++ 0x2f#6 ++ d ++ a ++ 0x0#5 ++ m ++ 0x9#4 : IWord)
  | .vrcp e d a m => some (e ++ 0x30#6 ++ d ++ a ++ 0x0#5 ++ m ++ 0x0#4 : IWord)
  | .vrsq e d a m => some (e ++ 0x30#6 ++ d ++ a ++ 0x0#5 ++ m ++ 0x1#4 : IWord)
  | .vrmsPart e d a => some (e ++ 0x30#6 ++ d ++ a ++ 0x2#12 : IWord)
  | .vrms e d a b => some (e ++ 0x30#6 ++ d ++ a ++ b ++ 0x3#7 : IWord)
  | .vcvt e d a k m s r => some (e ++ 0x31#6 ++ d ++ a ++ k ++ m ++ 0x0#1 ++ s ++ r : IWord)
  | .vqmx e d a q => some (e ++ 0x31#6 ++ d ++ a ++ 0x0#3 ++ q ++ 0x8#7 : IWord)
  | .vbkt e d a b m => some (e ++ 0x32#6 ++ 0x0#1 ++ d ++ a ++ b ++ m ++ 0x0#4 : IWord)
  | .vmsk e d a b m => some (e ++ 0x32#6 ++ d ++ a ++ b ++ m ++ 0x1#4 : IWord)
  | .vrand e d a b m => some (e ++ 0x32#6 ++ d ++ a ++ b ++ m ++ 0x2#4 : IWord)
  | .vpark e k a => some (e ++ 0x33#6 ++ k ++ a ++ 0x0#12 : IWord)
  | .vunpark e d k => some (e ++ 0x33#6 ++ d ++ k ++ 0x1#12 : IWord)
  | .cout e a b c r => some (e ++ 0x34#6 ++ a ++ b ++ c ++ 0x0#6 ++ r : IWord)
  | .credAddf e a b c r => some (e ++ 0x35#6 ++ a ++ b ++ c ++ 0x0#6 ++ r : IWord)
  | .credAddbf e a b c r => some (e ++ 0x35#6 ++ a ++ b ++ c ++ 0x1#6 ++ r : IWord)
  | .credAddi e a b c r => some (e ++ 0x35#6 ++ a ++ b ++ c ++ 0x2#6 ++ r : IWord)
  | .credMaxf e a b c r => some (e ++ 0x35#6 ++ a ++ b ++ c ++ 0x3#6 ++ r : IWord)
  | .credMinf e a b c r => some (e ++ 0x35#6 ++ a ++ b ++ c ++ 0x4#6 ++ r : IWord)
  | .cstrm e a b c => some (e ++ 0x36#6 ++ a ++ b ++ c ++ 0x0#7 : IWord)
  | .cnestoL e a b c l => some (e ++ 0x37#6 ++ a ++ b ++ c ++ 0x0#4 ++ l : IWord)
  | .cnestoGo e a b c r => some (e ++ 0x37#6 ++ a ++ b ++ c ++ 0x4#6 ++ r : IWord)
  | .ox e d a b m n => some (e ++ 0x38#6 ++ d ++ a ++ b ++ m ++ n : IWord)
  | .oload e n a b => some (e ++ 0x39#6 ++ 0x0#1 ++ n ++ a ++ b ++ 0x0#7 : IWord)
  | .ounld e n => some (e ++ 0x39#6 ++ 0x0#1 ++ n ++ 0x1#17 : IWord)
  | .ostat e d => some (e ++ 0x39#6 ++ d ++ 0x2#17 : IWord)
  | .qrd d a b => some (0x0#4 ++ 0x3c#6 ++ d ++ a ++ b ++ 0x0#7 : IWord)
  | .qwr d a b => some (0x0#4 ++ 0x3c#6 ++ d ++ a ++ b ++ 0x1#7 : IWord)
  | .qslot d a => some (0x0#4 ++ 0x3c#6 ++ d ++ a ++ 0x2#12 : IWord)
  | .qstop d a b => some (0x0#4 ++ 0x3c#6 ++ d ++ a ++ b ++ 0x3#7 : IWord)
  | .qret a b => some (0x0#4 ++ 0x3c#6 ++ 0x0#5 ++ a ++ b ++ 0x4#7 : IWord)
  | .qfault a b => some (0x0#4 ++ 0x3c#6 ++ 0x0#5 ++ a ++ b ++ 0x5#7 : IWord)
  | .sret => some (0x0#4 ++ 0x3d#6 ++ 0x0#22 : IWord)
  | .escal a => some (0x0#4 ++ 0x3d#6 ++ 0x0#5 ++ a ++ 0x1#12 : IWord)
  | .tlbinvVa a s => some (0x0#4 ++ 0x3d#6 ++ 0x0#5 ++ a ++ 0x0#2 ++ s ++ 0x2#7 : IWord)
  | .tlbinvTen s => some (0x0#4 ++ 0x3d#6 ++ 0x0#12 ++ s ++ 0x3#7 : IWord)
  | .tlbinvAll => some (0x0#4 ++ 0x3d#6 ++ 0x4#22 : IWord)
  | .qdrop b => some (0x0#4 ++ 0x3d#6 ++ 0x0#10 ++ b ++ 0x5#7 : IWord)
  | .tokset a f => some (0x0#4 ++ 0x3d#6 ++ 0x0#5 ++ a ++ 0x0#1 ++ f ++ 0x6#7 : IWord)
  | .parkdrop o i => some (0x0#4 ++ 0x3d#6 ++ 0x0#10 ++ o ++ 0x0#3 ++ i ++ 0x7#7 : IWord)
  | .wfi => some (0x0#4 ++ 0x3d#6 ++ 0x8#22 : IWord)
  | .ochinv => some (0x0#4 ++ 0x3d#6 ++ 0x9#22 : IWord)
  | .poisclr d => some (0x0#4 ++ 0x3d#6 ++ d ++ 0xa#17 : IWord)
  | .snaptrig => some (0x0#4 ++ 0x3d#6 ++ 0xb#22 : IWord)
  | .limm i => some (0x0#4 ++ 0x3f#6 ++ i : IWord)
  | _ => none

/-- The four bytes of a word as memory holds them: bits [7:0] at the lowest address (R4, R144). -/
def wordBytes (w : IWord) : List Byte := [fld w 0 8, fld w 8 8, fld w 16 8, fld w 24 8]

/-- Little-endian bytes put together (R4). -/
def leNat : List Byte → Nat
  | [] => 0
  | b :: bs => b.toNat + 256 * leNat bs

/-- The decoder on memory's bytes: the instruction and the bytes after its word. -/
def decodeBytes : List Byte → Except Reject (Instr × List Byte)
  | b0 :: b1 :: b2 :: b3 :: rest =>
    (decode (BitVec.ofNat 32 (leNat [b0, b1, b2, b3]))).map (fun i => (i, rest))
  | _ => .error .short

/-- The instruction the decoder reads from the word `w`, numbered as the opcode table numbers it; an instruction of this
machine is one word of 32 bits (R144). -/
def decodeTableWord (nbits w : Nat) : Option Instr :=
  match decodeBytes (wordBytes (BitVec.ofNat 32 (w % 2 ^ nbits))) with
  | .ok (i, _) => some i
  | .error _ => none

/-- The major opcode of a word (R144). -/
def majOf (w : IWord) : Nat := (fld w 22 6).toNat

end Sys2Proof
end

