-- ==== Sys2Proof/Machine/State.lean ====
section
/-!
DEFINITION. The machine's state as plain data: everything the spec gives the MSN-EG960, and the few fields of the model's own
(agenda, cur, arg, fresh). State.reset is the state in which firmware first runs (R467).
-/
namespace Sys2Proof.Machine

/-! ## What comes in from outside, and small enumerations -/

/-- The five engine queues of a context (R26, R28). -/
inductive EngineQ where
  | ci | mx | sq | vx | co
  deriving DecidableEq, Repr

/-- The reductions of a reducing copy (R225). -/
inductive CredOp where
  | addf | addbf | addi | maxf | minf
  deriving DecidableEq, Repr

/-- How a host-window access completes (R444). -/
inductive HostAnswer where
  /-- The access is done; `bytes` are those of a read, low address first. -/
  | data (bytes : List Byte)
  /-- The completion carries the EP bit: the bytes arrive poisoned. -/
  | poisoned (bytes : List Byte)
  /-- An error completion refuses the access. -/
  | error
  deriving DecidableEq, Repr

/-- A producer that publishes a stream-ring slot (R140). -/
inductive Producer where
  /-- The `cstrm` at the head of the CO queue of a context. -/
  | stream (k : CtxId)
  /-- The oldest unpublished delivery of the fronthaul steering unit into the ring of a context at a scratchpad-window offset. -/
  | steering (k : CtxId) (ring : Nat)
  deriving DecidableEq, Repr

/-- A section of an O-RAN U-plane message (R449, R452): its id, and its bytes from the sectionId field to the end of its PRB
data. -/
structure Section where
  sectionId : BitVec 12
  bytes : List Byte
  deriving DecidableEq, Repr

/-- A received Ethernet frame as the classifier reads it (R449). -/
structure FhFrame where
  port : Fin 4
  /-- The frame check sequence is right. -/
  fcsOk : Bool
  /-- eCPRI 2.0 directly over Ethernet (Ethertype 0xAEFE). -/
  ecpri : Bool
  msgType : BitVec 8
  pcId : BitVec 16
  seqId : BitVec 16
  /-- dataDirection. -/
  dir : Bool
  frameId : BitVec 8
  subframeId : BitVec 4
  slotId : BitVec 6
  symbolId : BitVec 6
  sections : List Section
  /-- The whole eCPRI payload. -/
  payload : List Byte
  deriving DecidableEq, Repr

/-- A Blumus flit with a payload (R445, R447). -/
structure Flit where
  seq : BitVec 12
  /-- Physical device-memory address (R446). -/
  addr : Nat
  bytes : List Byte
  /-- One poison bit for each 8 bytes (R447). -/
  poison : BitVec 8
  /-- A reducing copy's operation, or none for plain writes. -/
  cred : Option CredOp
  deriving DecidableEq, Repr

/-- One steering entry (R450). -/
structure SteerEntry where
  pcid : BitVec 16
  pcidm : BitVec 16
  seclo : BitVec 16
  sechi : BitVec 16
  ports : BitVec 4
  dirm : Bool
  dir : Bool
  valid : Bool
  raw : Bool
  part : BitVec 8
  core : BitVec 8
  ctx : BitVec 8
  ring : BitVec 32
  symm : BitVec 14
  deliv : BitVec 32
  drops : BitVec 32
  /-- The SEQ_ID of the entry's previous delivery, for GAP (R452); none before the first. -/
  lastSeq : Option (BitVec 16)
  deriving DecidableEq, Repr

/-- The budgets of R411. -/
inductive Budget where
  | cbud (k : CtxId)
  | dmem (part : Fin 16)
  | link (part : Fin 16)
  | fh (part : Fin 16)
  deriving DecidableEq, Repr

/-- The firmware registers that have no event of their own (R402, R418, R446, R457, R461). -/
inductive FwReg where
  | preempt
  | coalw (v : Fin 256)
  | bwin (port : Fin 4)
  | snapat
  /-- Firmware re-arms the latched snapshot set (R457). -/
  | snapRearm
  /-- Firmware sets READY of BOOTSTAT (R461). -/
  | ready (die : DieId)
  /-- Firmware brings a fronthaul port up at 25, 50 or 100 Gb/s, or takes it down (R449, R459). -/
  | fhPort (port : Fin 4)
  /-- The host writes a vector's address, data or mask in the MSI-X table (R441). -/
  | msixAddr (v : Fin 256)
  | msixData (v : Fin 256)
  | msixMask (v : Fin 256)
  /-- The host clears bits of the Advanced Error Reporting status registers (R441). -/
  | aerUncorr
  | aerCorr
  deriving DecidableEq, Repr

/-- The latched snapshot registers (R457). -/
inductive SnapReg where
  /-- The trigger's timestamp. -/
  | ts
  | issues (k : CtxId)
  /-- Entries in a context's queue. -/
  | occupancy (k : CtxId) (q : EngineQ)
  /-- Tokens in a context's FIFO. -/
  | tokens (k : CtxId) (f : Fin 10)
  /-- NSLOTS and STEPN of the gang of a task. -/
  | nslots (task : Nat)
  | stepn (task : Nat)
  | firkin (d : DieId)
  | frames (p : Fin 4)
  | unsteered (p : Fin 4)
  | drops (p : Fin 4)
  deriving DecidableEq, Repr

/-- A register as software outside the contexts reads it (R5). -/
inductive HwReg where
  /-- A register that REGISTER_WRITE writes. -/
  | fw (r : FwReg)
  /-- `size` bytes at an offset of a doorbell page (R442). -/
  | doorbell (q : Fin 32) (r : Fin 8) (off size : Nat)
  /-- BOOTSTAT of a die (R461). -/
  | bootstat (d : DieId)
  /-- FHBIND (R451). -/
  | fhbind
  | tsctl
  | tspps
  | period
  | budget (b : Budget)
  | lend
  | rcfg
  | accsplit (c : CoreId)
  | dscarve (d : DieId)
  | ptroot (p : Fin 16)
  | pcores (p : Fin 16)
  | prights (p : Fin 16)
  /-- 64 bits of the MSI-X pending-bit array (R441). -/
  | pending (i : Fin 4)
  /-- 8 bytes of a steering entry (R450). -/
  | steer (i : Fin 4096) (word : Fin 4)
  /-- A register of the latched snapshot set (R457). -/
  | snapshot (r : SnapReg)
  deriving DecidableEq, Repr

/-- What an event acts on and what it brings in from outside: the model's place for the operands the table gives no event.
Each event reads the fields its docstring names. -/
structure Arg where
  ctx : CtxId
  q : EngineQ
  core : CoreId
  die : DieId
  part : Fin 16
  /-- A task's number in State.tasks. -/
  task : Nat
  n : Nat
  hq : Fin 32
  ring : Fin 8
  vec : Fin 256
  port : Fin 4
  reg : FwReg
  budget : Budget
  steer : Fin 4096
  entry : SteerEntry
  producer : Producer
  word : Word
  frame : FhFrame
  flit : Flit
  answer : HostAnswer
  bytes : List Byte
  /-- POOLB.BASE firmware gives the members of a placement, in rank order (R101). -/
  bases : List Nat
  flag : Bool
  nonce : BitVec 256
  deriving DecidableEq, Repr

/-! ## Memory -/

/-- A byte memory in canonical form: `cells` lists, at rising addresses, the bytes that are not 0, and `poison`, rising, the
addresses of the poisoned bytes (R126). -/
structure Mem where
  cells : List Host.Cell
  poison : List Nat
  deriving DecidableEq, Repr

/-- The memories of the device (R107, R97, R444, R446). -/
inductive Space where
  | pool (c : CoreId)
  | acc (c : CoreId)
  | dsh (d : DieId)
  | dmem
  | host
  | peer (p : Fin 4)
  deriving DecidableEq, Repr

/-- A scalar register with its poison (R86, R384). -/
structure SReg where
  val : Word
  poison : Bool
  deriving DecidableEq, Repr

/-- A tile lane with its poison (R87, R271). -/
structure Lane where
  bits : BitVec 32
  poison : Bool
  deriving DecidableEq, Repr

/-- A byte with its poison. -/
structure PByte where
  val : Byte
  poison : Bool
  deriving DecidableEq, Repr

/-- 16 rows of 64 lanes; lane (r, c) is element 64 r + c (R87). -/
abbrev Tile := Vector Lane 1024

/-- One bit per lane; lane (r, c) is bit 64 r + c (R87). -/
abbrev LMask := BitVec 1024

/-- A shape record (R92). -/
abbrev ShapeRec := BitVec 128

/-! ## Traps -/

/-- The trap catalogue (R372). -/
inductive TrapCode where
  | illegalInstruction | illegalRegister | illegalOperand | privileged | softwareTrap
  | addressInvalid | misaligned | windowBounds | foreignScratch | accessUnsupported | pageFault | pageDenied
  | shapeInvalid | shapeBounds | shapeMismatch
  | unloadedOpcode | graphInvalid
  | poisonConsumed
  | arrivalOverrun | arrivalIdle | ringInvalid | ringUnderflow
  | queueStall | barrierMismatch | versionInvalid
  | arithInvalid | arithDivzero | arithOverflow | arithUnderflow | arithSaturate
  | opidMismatch
  deriving DecidableEq, Repr

/-- A trap on its way to a handler: its code, value (R372), and the queue code and sequence number of R47. -/
structure Trap where
  code : TrapCode
  value : Word
  queue : BitVec 3
  seq : BitVec 32
  deriving DecidableEq, Repr

/-! ## Engine entries -/

/-- One level of a nest configuration (R217): count, source stride, destination stride. -/
structure Level where
  n : Nat
  ss : Int
  ds : Int
  deriving DecidableEq, Repr

/-- The copy forms (R216 to R227). -/
inductive CopyKind where
  | cin | cout | cfill | nest | nesto | cgath | cpack | cunpk | cmcast | cred (op : CredOp) | cstrm
  deriving DecidableEq, Repr

/-- A copy with everything captured at dispatch (R229): registers a, b, c, the implied registers, the shape record and the
nest levels. -/
structure CopyOp where
  kind : CopyKind
  ra : Word
  rb : Word
  rc : Word
  /-- The barrier pointer of a .bar form (R213). -/
  bar : Option Word
  /-- The core mask of a cmcast (R224). -/
  mask : BitVec 64
  shape : ShapeRec
  levels : List Level
  /-- Bytes of the whole copy. -/
  total : Nat
  deriving DecidableEq, Repr

/-- The lane operations of MAJ 0x29 and 0x2A (R276 to R278). -/
inductive LaneOp where
  | addF | subF | mulF | fmaF | fnmaF | minF | maxF | absF | negF | cadd | cmul
  | addI | subI | mulI | andI | orI | xorI | sllI | srlI | sraI | minI | maxI | addsI | subsI
  deriving DecidableEq, Repr

/-- The compares of MAJ 0x2B (R279). -/
inductive CmpOp where
  | eqF | ltF | leF | unF | eqI | ltI | ltuI
  deriving DecidableEq, Repr

/-- The mask operations (R280). -/
inductive MaskOp where
  | and | or | xor | not
  deriving DecidableEq, Repr

/-- The reductions (R282). -/
inductive RedOp where
  | add | max | min
  deriving DecidableEq, Repr

/-- The functions of VSF (R79). -/
inductive SfOp where
  | exp2 | exp | log2 | ln | sigmoid | tanh | silu | softplus | sinpi | cospi
  deriving DecidableEq, Repr

/-- The lane moves along rows and columns, their scalar resolved (R281, R283). -/
inductive MoveOp where
  | rotr (k : Nat) | bcr (k : Nat) | rotc (k : Nat) | bcc (k : Nat) | xchC (x : Nat) | xchR (x : Nat)
  deriving DecidableEq, Repr

/-- Frame formats of spair (R264, R70). -/
inductive PairFmt where
  | bf16 | fp32 | pair
  deriving DecidableEq, Repr

/-- What an engine entry does, with everything it captured at dispatch: scalar values (R86), physical tile and mask numbers
(R91), shape records (R96), Ochre planes (R325). -/
inductive EngineOp where
  /-- An entry of zero extent (R32). -/
  | relay
  | copy (c : CopyOp)
  | mcfg (v : Word)
  | mwld (a : ShapeRec) (tr tc : Nat)
  | mwswap
  | mscl (ptr : Word) (e : Nat)
  | mma (mode : BitVec 2) (a b : ShapeRec) (n : Nat)
  | mzero (a : ShapeRec)
  | mdrain (mode : BitVec 2) (sat : Bool) (epi : Option (Fin 16 × Fin 2)) (a b : ShapeRec)
  | scfg (v : Word)
  | sdecay (a b : ShapeRec) (al : BitVec 32)
  | schunk (a b c : ShapeRec)
  | sstep (a b c : ShapeRec)
  | sout (a b c : ShapeRec)
  | ssnap (a b : ShapeRec) (k : Nat)
  | sfork (a b : ShapeRec) (k : Nat)
  | sroll (a b : ShapeRec) (k : Nat)
  | scommit (a : ShapeRec)
  | spair (f : PairFmt) (a b : ShapeRec)
  | vld (d : Nat) (a : ShapeRec) (row col : Nat) (m : Nat)
  | vst (d : Nat) (a : ShapeRec) (row col : Nat) (m : Nat) (sat : Bool) (mode : BitVec 2)
  | lane (op : LaneOp) (d a b m : Nat)
  | vcmp (op : CmpOp) (d a b m : Nat)
  | vsel (d a b m : Nat)
  | mask (op : MaskOp) (d a b m : Nat)
  | move (op : MoveOp) (d a m : Nat)
  | redr (op : RedOp) (d a m : Nat)
  | redc (op : RedOp) (d a m : Nat)
  | vslice (d a a1 i : Nat)
  | vins (d a i : Nat)
  | vext (d a i : Nat)
  | vsf (f : SfOp) (d a m : Nat)
  | vrcp (d a m : Nat)
  | vrsq (d a m : Nat)
  | vrmsPart (d a : Nat)
  | vrms (d a : Nat) (n : Nat) (eps : BitVec 32)
  | vcvt (kind : Nat) (sat : Bool) (mode : BitVec 2) (d a m : Nat)
  | vqmx (q : BitVec 2) (d d1 a : Nat)
  | vbkt (a : ShapeRec) (t : Nat) (lgb ibase : Nat) (m : Nat)
  | vmsk (d a : Nat) (ptr : Word) (m : Nat)
  | vrand (d : Nat) (key b : Word) (m : Nat)
  | vpark (pos : Nat) (a : Nat)
  | vunpark (d : Nat) (pos : Nat)
  | ox (slot : Fin 16) (plane : Fin 2) (nin nout : Nat) (d d1 a b a1 b1 m : Nat)
  | oload (slot : Fin 16) (plane : Fin 2) (ptr : Word) (lat nin nout : Nat)
  | ounld (slot : Fin 16)
  | ostat (d : Nat)
  deriving DecidableEq, Repr

/-- An element of the pool or the accumulator memory that a started entry has still to write (R238). -/
structure EngineWrite where
  acc : Bool
  addr : Nat
  bytes : List PByte
  deriving DecidableEq, Repr

/-- One entry of an engine queue (R26, R27, R229, R379). -/
structure Entry where
  op : EngineOp
  dep : Dep
  seq : BitVec 32
  /-- The context's dispatch count, which orders entries of different queues (R325, R328). -/
  ord : Nat
  /-- The NCTL enables captured at dispatch (R201). -/
  nctl : BitVec 5
  /-- The VX sequence number of the oload that still has to fill the captured plane (R326). -/
  waitVx : Option (BitVec 32)
  started : Bool
  /-- Every effect is complete; only pushes may be pending (R31). -/
  done : Bool
  /-- SP and SN pushes still to make (R31). -/
  pushP : Bool
  pushN : Bool
  /-- Flags to OR into NFLAG at retirement (R67). -/
  flags : BitVec 7
  /-- A trap to raise after retirement (R45). -/
  report : Option Trap
  parked : Bool
  /-- The return that resumes a parked record: 0 a resumption, 1 utret, 2 sret (R379). -/
  held : BitVec 2
  /-- Marked by parkdrop (R370). -/
  drop : Bool
  /-- Granules completed (R229). -/
  goff : Nat
  /-- MCAST, POISON, REFUSED, LINK so far (R379). -/
  fail : BitVec 4
  /-- cmcast failure mask so far (R224). -/
  failMask : BitVec 64
  /-- Bytes delivered so far. -/
  delivered : Nat
  /-- No further byte is written: the delivery was refused or its link died (R130). -/
  dead : Bool
  /-- A gather with SLOTV met its fault: from this byte on it writes zeros (R221). -/
  zeroFrom : Option Nat
  /-- The slot count RESV a cstrm claimed (R140). -/
  claim : Option (BitVec 32)
  /-- The pointer to the slot it claimed, until the slot is published. -/
  slot : Option Word
  /-- It occupies its engine: started, its effects not complete, not parked (R13, R40). -/
  onEngine : Bool
  /-- Elements of its result still to be written (R238). -/
  todo : List EngineWrite
  /-- 4-byte words beyond the granules completed, by their numbers in copy order, that were written with the other half of their
  aligned 8-byte word (R118). -/
  ahead : List Nat
  /-- The destinations on other cores that have accepted bytes, with the task each held (R113, R376). -/
  into : List (CoreId × Nat)
  deriving DecidableEq, Repr

/-- A queue: its entries, oldest first, and the next sequence number (R26, R27). -/
structure EQueue where
  entries : List Entry
  next : BitVec 32
  deriving DecidableEq, Repr

/-! ## Ochre -/

/-- A node of a graph (R321). -/
structure ONode where
  op : Nat
  src0 : Nat
  src1 : Nat
  src2 : Nat
  luti : Nat
  k0 : BitVec 32
  k1 : BitVec 32
  deriving DecidableEq, Repr

/-- A graph image (R320). -/
structure OGraph where
  nodes : List ONode
  luts : List (List (BitVec 32))
  out0 : Nat
  out1 : Nat
  deriving DecidableEq, Repr

/-- The state of a configuration plane (R324). -/
inductive OState where
  | empty | loaded | bad
  deriving DecidableEq, Repr

/-- A configuration plane (R324). -/
structure OPlane where
  st : OState
  graph : OGraph
  lat : Nat
  nin : Nat
  nout : Nat
  /-- The OPID stamp (R334). -/
  stamp : BitVec 6
  deriving DecidableEq, Repr

/-- An opcode slot (R324). Its use counts are the entries that captured a plane and have not retired. -/
structure OSlot where
  cur : Fin 2
  bad : Bool
  planes : Vector OPlane 2
  deriving DecidableEq, Repr

/-- The dispatch view of a slot (R325). -/
structure OView where
  loaded : Bool
  cur : Fin 2
  nin : Nat
  nout : Nat
  deriving DecidableEq, Repr

/-! ## Matrix and scan -/

/-- A weight plane (R242): format, 64 x 64 element codes (element (k, j) at 64 k + j), two column-scale groups (group g,
column j at 64 g + j). -/
structure WPlane where
  loaded : Bool
  fmt : Nat
  elems : Vector (BitVec 16 × Bool) 4096
  scales : Vector PByte 128
  deriving DecidableEq, Repr

/-- The dispatch view of the matrix and scan configuration (R235): format of the active and of the shadow plane (none when
empty), scale-queue occupancy, MXCFG, SQCFG. -/
structure MView where
  active : Option Nat
  shadow : Option Nat
  scales : Nat
  mxcfg : Word
  sqcfg : Word
  deriving DecidableEq, Repr

/-! ## Madder -/

/-- An automaton configuration (R310); the stack's top comes first. -/
structure GConf where
  state : Nat
  stack : List Nat
  fin : Bool
  deriving DecidableEq, Repr

/-- The header of a compiled grammar (R308). -/
structure GHeader where
  nsym : Nat
  nstate : Nat
  ntok : Nat
  start : Nat
  eos : Nat
  stoff : Nat
  troff : Nat
  trieoff : Nat
  size : Nat
  ntrans : Nat
  nnode : Nat
  deriving DecidableEq, Repr

/-- An automaton context (R310, R314). -/
structure Automaton where
  /-- The partition it is allocated to (R312). -/
  part : Option (Fin 16)
  bound : Bool
  grammar : Word
  header : GHeader
  conf : GConf
  snaps : Vector (Option GConf) 8
  ref : Bool
  snapinv : Bool
  badg : Bool
  rej : Bool
  /-- Firkin's restore from a grammar segment has not ended (R436). -/
  restoring : Bool
  /-- Firkin has still to store its configuration in a grammar segment, after which it is freed (R437). -/
  saving : Bool
  deriving DecidableEq, Repr

/-- A G-instruction on its way to the unit (R312, R315). -/
inductive GOp where
  | bind (aut : Nat) (ptr : Word)
  | adv (aut : Nat) (tok : Nat)
  | mask (aut : Nat) (ptr : Word) (bar : Option Word)
  | snap (aut : Nat) (k : Nat)
  | fork (dst : Nat) (k : Nat) (src : Nat)
  | roll (aut : Nat) (k : Nat)
  deriving DecidableEq, Repr

/-! ## A context -/

/-- What the FE waits for (R38, R176). -/
inductive Wait where
  | qwait (mask : BitVec 5)
  | gbar
  | gbarStep (d : Reg5)
  | abwait (ptr : Word) (p : BitVec 1)
  | slwait (d : Reg5) (ptr : Word) (n : Word)
  | slpop (d : Reg5) (ptr : Word)
  | fence (d : Reg5) (scope : BitVec 3)
  | wfi
  deriving DecidableEq, Repr

/-- A load from a host window that has issued and is not yet completed (R444): instructions that name its destination wait for it
(R175), and an acquire holds every later access (R120). -/
structure HostLoad where
  acq : Bool
  d : Reg5
  addr : Nat
  size : Nat
  signed : Bool
  deriving DecidableEq, Repr

/-- Another load that has issued and is performed behind later accesses (R120): instructions that name its destination wait for it
(R175). -/
structure LateLoad where
  d : Reg5
  space : Space
  addr : Nat
  size : Nat
  signed : Bool
  /-- The moment it issued, on State.clock. -/
  stamp : Nat
  deriving DecidableEq, Repr

/-- What a drain leads to (R374). -/
inductive DrainFor where
  | trap (t : Trap)
  /-- escal with its request word (R368). -/
  | escal (w : Word)
  /-- A checkpoint pre-emption (R403). -/
  | preempt
  deriving DecidableEq, Repr

/-- The state of a context's front end. -/
inductive Run where
  /-- No task is placed. -/
  | idle
  /-- Restored and not released (R22, R400). -/
  | restored
  | running
  | waiting (w : Wait)
  /-- The FE has stopped and the queues drain (R374). -/
  | draining (why : DrainFor)
  /-- drain_and_park has ended; what follows it is still to come (R46, R361, R363, R403). -/
  | drained (why : DrainFor)
  /-- Escalated, waiting for firmware (R363); the trap code is none for escal. -/
  | escalated (code : Option TrapCode)
  /-- yield.exit has been executed (R191). -/
  | finished
  deriving DecidableEq, Repr

/-- The CSR state of a context (R47, R65, R66, R105, R231, R232, R365). -/
structure Csr where
  stepn : Word
  nslots : BitVec 9
  ragbase : BitVec 22
  remt : Word
  vrb : BitVec 4
  nflag : BitVec 7
  nctl : BitVec 5
  utvecBase : BitVec 62
  utvecAct : Bool
  utvecEn : Bool
  uepc : BitVec 62
  ucauseSeq : BitVec 32
  ucauseQueue : BitVec 3
  ucauseCode : BitVec 8
  utval : Word
  sact : Bool
  note : Bool
  hold : Bool
  dlc : Bool
  stvecBase : BitVec 62
  sepc : BitVec 62
  scauseSeq : BitVec 32
  scauseQueue : BitVec 3
  scauseCode : BitVec 8
  stval : Word
  sscratch : Word
  qwdog : BitVec 32
  partn : Fin 16
  ctximg : Word
  cpSeq : BitVec 32
  cpQueue : BitVec 3
  cpCount : BitVec 8
  /-- MCAST, POISON, REFUSED, LINK of CPSTAT. -/
  cpFail : BitVec 4
  cpmask : BitVec 64
  gsize : BitVec 7
  rank : BitVec 6
  /-- T, the declared tile count (R88). -/
  tiles : Nat
  /-- D, the declared accumulator slots (R98). -/
  dslots : Nat
  parkocc : BitVec 32
  /-- POOLB, in 4 KiB units (R102). -/
  poolBase : Nat
  poolReg : Nat
  poolScr : Nat
  poolL1 : Nat
  poolPriv : Nat
  deriving DecidableEq, Repr

/-- A plain store that has issued and is not yet performed (R120, R33). -/
structure Pending where
  space : Space
  addr : Nat
  bytes : List Byte
  poison : Bool
  /-- The moment it issued, on State.clock. -/
  stamp : Nat
  /-- The scope of a release store (R185). -/
  rel : Option Nat
  deriving DecidableEq, Repr

/-- Failures not yet reported by a FENCE (R129): MCAST, POISON, REFUSED, LINK, and how many. -/
structure FenceFail where
  bits : BitVec 4
  count : Nat
  deriving DecidableEq, Repr

/-- A hardware context (R13, R20). -/
structure Ctx where
  run : Run
  pc : Word
  s : Vector SReg 32
  p : BitVec 8
  /-- Physical tiles (R90). -/
  tiles : Vector Tile 32
  /-- Physical masks (R90); element 0 is never read. -/
  masks : Vector LMask 8
  shapes : Vector ShapeRec 16
  csr : Csr
  queues : Vector EQueue 5
  /-- Entries dispatched since placement. -/
  dispatched : Nat
  /-- FIFOs 0 to 9 in the order of R368. -/
  tokens : Vector Nat 10
  nestCi : Vector Level 6
  nestCo : Vector Level 6
  mxcfg : Word
  sqcfg : Word
  planes : Vector WPlane 2
  activePlane : Fin 2
  scaleq : List (List PByte)
  mview : MView
  oslots : Vector OSlot 16
  oview : Vector OView 16
  /-- G-instructions sent, oldest first, with the timestamps of their arrival at the unit (R315). -/
  gops : List (GOp × Word)
  sbuf : List Pending
  posted : List Pending
  /-- Host-window loads on their way, oldest first. -/
  hostLoads : List HostLoad
  /-- Loads issued and not yet performed, oldest first. -/
  lateLoads : List LateLoad
  /-- Its loads may be performed behind later accesses (R120). -/
  defers : Bool
  /-- Its copies' writes beyond the core may be performed after the copy has retired (R127, R131). -/
  lags : Bool
  fails : FenceFail
  /-- Failures of copies that retired while a FENCE waited, which it does not cover (R127). -/
  lateFails : FenceFail
  /-- ARR and STEP of the gang barrier (R378). -/
  arr : Bool
  arrStep : Bool
  /-- The generation it arrived at was released while a handler ran: its gbar continues when it is executed again (R176). -/
  arrDone : Bool
  /-- The last gbar.step of this member returned 1 (R191). -/
  ended : Bool
  /-- Engine reports still to be raised, oldest first: those that arose while the context took another trap, or before its
  release, and the one held over a pre-emption (R45, R373, R468). -/
  heldReports : List Trap
  /-- Those raised in S mode, which escalate once the context is resumed (R360, R363). -/
  heldEscs : List Trap
  /-- A report has been held in this pre-emption's drain (R468). -/
  preHeld : Bool
  /-- The trap of the last entry that retired with an enabled flag, and when, on State.clock (R67). -/
  lastArith : Option (Nat × Trap)
  /-- The watchdog's counter (R43). -/
  watchdog : Nat
  /-- QUEUE_STALL has been raised since the counter was last 0. -/
  stallRaised : Bool
  /-- Cycles of the present drain since its start or the last retirement (R375). -/
  drainIdle : Nat
  /-- A drain under pre-emption was abandoned: firmware can only end the task (R375, R403). -/
  doomed : Bool
  /-- When the present head of each queue became its head (R40). -/
  headSince : Vector Nat 5
  cbud : BitVec 32
  issueLeft : BitVec 32
  lastIssue : Nat
  issues : Nat
  /-- Its accumulator slots were spilled (R415, R416). -/
  spilled : Bool
  /-- State.tasks' number of the task placed here. -/
  task : Option Nat
  deriving DecidableEq, Repr

/-! ## Cores, dies, partitions -/

/-- A cached leaf translation (R423, R424). -/
structure TlbEntry where
  part : Fin 16
  /-- log2 of the page size: 16, 21 or 30 (R420). -/
  lg : Nat
  /-- Virtual page number: address bits [47:lg]. -/
  vpn : Nat
  leaf : Word
  deriving DecidableEq, Repr

/-- A cached pointer entry (R424): the level it was read at and the address bits that index it. -/
structure WalkEntry where
  part : Fin 16
  level : Nat
  tag : Nat
  ptr : Word
  deriving DecidableEq, Repr

/-- A core (R13). -/
structure Core where
  pool : Mem
  acc : Mem
  accsplit : BitVec 12
  tlb : List TlbEntry
  /-- The spill store in the die's L2 (R415). -/
  spill : Mem
  /-- ACCSPLIT before a radio task's split took its place (R416). -/
  savedSplit : Option (BitVec 12)
  deriving DecidableEq, Repr

/-- A request record (R293). -/
structure Record where
  reqid : BitVec 32
  gen : BitVec 32
  state : BitVec 8
  prio : BitVec 8
  ffmt : BitVec 8
  flags : BitVec 8
  draft : BitVec 8
  stopr : BitVec 8
  gctx : BitVec 16
  deadline : Word
  pos : Word
  frame : Word
  kvpl : Word
  kvpn : BitVec 32
  maxlen : BitVec 32
  stopset : Word
  seed : Word
  temp : BitVec 32
  topp : BitVec 32
  topk : BitVec 16
  lgb : BitVec 8
  fcode : BitVec 8
  scnt : BitVec 32
  fpos : Word
  grammar : Word
  tokbuf : Word
  mgen : BitVec 32
  plen : BitVec 32
  mhash : Word
  deriving DecidableEq, Repr

/-- One slice of a frame (R433). -/
structure Slice where
  addr : Word
  rank : Nat
  elems : Nat
  offset : Nat
  deriving DecidableEq, Repr

/-- A frame map (R432). -/
structure FrameMap where
  ffmt : Nat
  sreg : Nat
  bufsz : Nat
  gseg : Word
  slices : List Slice
  deriving DecidableEq, Repr

/-- A resident request (R294, R405). -/
structure ReqEntry where
  record : Record
  /-- Address of the record in device memory (R406). -/
  addr : Word
  task : Nat
  map : FrameMap
  slot : Option Nat
  /-- Rows of the slot in this step and its first ragged row (R297, R299). -/
  ntok : Nat
  roff : Nat
  /-- POS has been written in this step (R301). -/
  posDone : Bool
  /-- POS as it was before the step (R304). -/
  posStart : Word
  stopMark : Bool
  faultMark : Bool
  cancelled : Bool
  /-- The moment it became ready (R407). -/
  readyAt : Nat
  /-- The step its residency began (R407). -/
  since : Nat
  /-- Buffer of the slot that holds its frame (R435). -/
  buf : Nat
  stops : List (BitVec 32)
  /-- Write-backs of its frame still to end, the record's own last (R437). -/
  pendingWb : Nat
  /-- The record as it is to be written back once they have ended (R294). -/
  wb : Option Record
  /-- Then it leaves the table (R406, R469). -/
  leave : Bool
  deriving DecidableEq, Repr

/-- A move of Firkin (R436, R437): the slices of one request on one member, or its grammar segment. -/
structure Move where
  load : Bool
  reqid : BitVec 32
  task : Nat
  slot : Nat
  /-- Pool offset of the buffer in the member's pool. -/
  base : Nat
  map : FrameMap
  part : Fin 16
  /-- The rank and the member whose slices move; none for the grammar segment. -/
  member : Option (Nat × CtxId)
  /-- What a write-back writes, as it stood at the boundary (R437): the pairs of the rank's slices in their order, or the segment;
  on a segment's load, what has been read so far. -/
  seg : List PByte
  /-- The automaton context a segment is restored to, on this die. -/
  aut : Fin 512
  /-- Stored bytes moved so far. -/
  pos : Nat
  /-- The moment it was ordered, on State.clock. -/
  ord : Nat
  /-- Its request was discarded for a newer record: its failure marks nothing (R317). -/
  discarded : Bool
  deriving DecidableEq, Repr

/-- An escalation record (R404). -/
structure EscRec where
  ctx : CtxId
  code : BitVec 8
  smode : Bool
  value : Word
  pc : Word
  ts : Word
  deriving DecidableEq, Repr

/-- A line of the occupancy log (R397): when a context came to hold a task, or to hold none. -/
structure Occupied where
  ctx : CtxId
  task : Option Nat
  at_ : Word
  deriving DecidableEq, Repr

/-- A die (R14). -/
structure Die where
  dscarve : BitVec 7
  dsh : Mem
  table : List ReqEntry
  /-- GEN of the records that have left the table, by REQID (R293). -/
  gens : List (BitVec 32 × BitVec 32)
  automata : Vector Automaton 512
  l2tlb : List TlbEntry
  walkCache : List WalkEntry
  moves : List Move
  firkinBytes : Nat
  escRing : List EscRec
  /-- The occupancy log, newest first (R397). -/
  occLog : List Occupied
  /-- The 8 MiB of L2 that hold the boot-flash copy read last (R460). -/
  bootImage : Mem
  /-- Where firmware was entered in M mode: ENTRY of the running copy (R460). -/
  entry : Option (BitVec 32)
  /-- BOOTSTAT (R461). -/
  bootStage : Nat
  failcode : BitVec 8
  copyB : Bool
  ready : Bool
  /-- SHA-384 digest of the copy that passed, for step 6 of R460. -/
  bootDigest : Option (List Byte)
  /-- SVN of the image that passed (R466). -/
  bootSvn : BitVec 16
  deriving DecidableEq, Repr

/-- A partition's register set and what is left of its byte budgets (R411, R428, R429). -/
structure Part where
  root : BitVec 36
  ten : Bool
  cores : BitVec 64
  reclaim : Bool
  blumus : Bool
  hostw : Bool
  fh : Bool
  en : Bool
  dmem : BitVec 32
  link : BitVec 32
  fhb : BitVec 32
  /-- Bytes left in the period (R413). -/
  dmemLeft : Nat
  linkLeft : Nat
  fhLeft : Nat
  deriving DecidableEq, Repr

/-! ## Front end -/

/-- The mapping entry of a queue (R385). -/
structure QMap where
  part : Fin 16
  rings : Nat
  /-- The base of each ring. -/
  bases : Vector Word 8
  sizeLog : Nat
  status : Word
  vec : Fin 256
  deriving DecidableEq, Repr


/-- A span of packets (R386). -/
structure Span where
  stamp : Word
  ring : Fin 8
  stop : BitVec 32
  /-- A thread has taken a packet of it. -/
  begun : Bool
  deriving DecidableEq, Repr

/-- A buffer on the packet stack (R393): its address, length and position in words. -/
structure PBuf where
  base : Word
  words : Nat
  pos : Nat
  /-- Ring and stamp of the span that holds the INDIRECT. -/
  ring : Fin 8
  stamp : Word
  deriving DecidableEq, Repr

/-- What a queue's thread waits for (R388). -/
inductive QBlock where
  | none
  /-- A LAUNCH that is not placed or refused. -/
  | launch (task : Nat)
  /-- A WAIT whose condition does not hold yet: address, COND, value. -/
  | wait (addr : Word) (cond : BitVec 2) (value : Word)
  /-- A FENCE. -/
  | fence
  deriving DecidableEq, Repr

/-- The hardware thread that serves a queue on one die (R385): its read position of each ring in words modulo 2^32, the buffers it
is inside, and how many packets it has taken. -/
structure QThread where
  consumed : Vector (BitVec 32) 8
  stack : List PBuf
  taken : Nat
  deriving DecidableEq, Repr

/-- A front-end queue (R385 to R395). The thread that reads a packet first acts on it; the other reads it after. -/
structure HQueue where
  map : Option QMap
  /-- The write position of each ring (R386). -/
  published : Vector (BitVec 32) 8
  /-- Spans that a thread has still to consume, in the order of R387. -/
  spans : List Span
  /-- The threads of dies 0 and 1. -/
  threads : Vector QThread 2
  /-- Packets that have acted. -/
  acted : Nat
  block : QBlock
  deriving DecidableEq, Repr

/-- The place of a task in its life (R388 to R403). -/
inductive TaskState where
  /-- Read, and not yet decided (R397). -/
  | deciding
  | pending
  /-- A segment is chosen; images are still to be restored. -/
  | chosen
  /-- Restored on its segment. -/
  | placed
  /-- Placed and released. -/
  | released
  /-- Chosen as a victim; members are draining (R403). -/
  | preempting
  | checkpointed
  /-- Every record of Bushel's table is still to be disposed of (R469). -/
  | ending
  | completed | killed | refused
  deriving DecidableEq, Repr

/-- What of a checkpointed member has no place in its image (R377 to R379): failures for its next FENCE (R176), reports that wait
behind the one the image holds, and, record by record of CI and CO, the tasks that have accepted its copies (R376) and the words written
ahead of their granules (R118). -/
structure Kept where
  fails : FenceFail
  reports : List Trap
  escs : List Trap
  into : List (List (CoreId × Nat))
  ahead : List (List Nat)
  deriving DecidableEq, Repr

/-- A task (R391). -/
structure Task where
  q : Fin 32
  taskid : BitVec 32
  part : Fin 16
  ctx : Fin 4
  gsize : Nat
  /-- START, or none to let the front end choose. -/
  start : Option CoreId
  imgtab : Word
  savetab : Word
  at_ : Word
  deadline : Word
  compl : Word
  complval : Word
  vec : Fin 256
  irq : Bool
  ptok : Nat
  dlc : Bool
  stepp : Bool
  preload : Bool
  /-- It is a WARM launch (R400). -/
  warm : Bool
  /-- The WARM launch that names it has been decided. -/
  warmed : Bool
  obase : Word
  orow : Nat
  chunk : Nat
  rowlim : Nat
  maxslots : Nat
  srank : Nat
  /-- Stamp of the span of its LAUNCH; its decision time is 1,500 ns later (R397). -/
  stamp : Word
  st : TaskState
  /-- First core of its segment, once chosen. -/
  first : CoreId
  /-- Timestamp of its release (R400). -/
  release : Word
  /-- Barrier generations completed (R378). -/
  gen : BitVec 32
  /-- GEN of the images restored so far in this placement, by rank (R378). -/
  gens : List (Nat × BitVec 32)
  /-- Members that have still to trap BARRIER_MISMATCH for a mixed generation (R37). -/
  mixed : List CtxId
  /-- END was read (R406). -/
  endReq : Bool
  /-- The boundary that ends it has passed (R51, R469). -/
  ended : Bool
  /-- Steps passed. -/
  steps : Nat
  /-- Per slot, the buffer that last held a request (R435). -/
  slotBuf : List (Option Nat)
  /-- The segment a pending launch has reserved: it is placed there when its victims have left (R403). -/
  want : Option CoreId
  /-- A kill is ordered (R394, R402, R404). -/
  killReq : Bool
  /-- Its images lie in its save areas: it has been checkpointed (R403). -/
  saved : Bool
  /-- What its images have no place for, in rank order. -/
  kept : List Kept
  /-- A field of its packet is outside its range, or not 0 for WARM (R396, reason 4). -/
  badField : Bool
  /-- GSIZE or START is among them: no segment is named. -/
  badSegment : Bool
  /-- Its queue has stopped since. -/
  orphan : Bool
  /-- Buffer level, ring and address of its LAUNCH, for the status record (R395). -/
  level : Nat
  ring : Fin 8
  whereAt : Word
  /-- STATUS and REASON to report (R396). -/
  reason : BitVec 8
  /-- A radio task whose release has reclaimed its cores (R415). -/
  reclaimed : Bool
  deriving DecidableEq, Repr

/-- An MSI-X vector's coalescing (R418): the window's end when one is open, and the events in it. -/
structure Msi where
  win : BitVec 10
  evcnt : BitVec 32
  openUntil : Option Word
  count : Nat
  deriving DecidableEq, Repr

/-! ## What an observer may still see of the past (R116, R120, R123, R124) -/

/-- Who writes memory, and who comes to know of a write (R122). -/
inductive Agent where
  /-- The FE of a context. -/
  | fe (k : CtxId)
  /-- An engine queue of a context. -/
  | eng (k : CtxId) (q : EngineQ)
  /-- Madder, for a context. -/
  | gram (k : CtxId)
  /-- Another unit of the device. -/
  | unit
  /-- The host or a Blumus peer. -/
  | outside
  deriving DecidableEq, Repr

/-- An agent at a moment: on State.clock, for an engine queue the number of an entry in its context's dispatch order. -/
structure Knower where
  who : Agent
  since : Nat
  deriving DecidableEq, Repr

/-- What has overwritten a word that an observer still holds. -/
structure Past where
  /-- The narrowest scope that names one of the writers among the observer's observers (R117). -/
  scope : Nat
  /-- A write of the one order that every observer of the die sees (R124). -/
  common : Bool
  /-- The agents before whose accesses, from a moment on, one of the writes happens (R122). -/
  known : List Knower
  deriving DecidableEq, Repr

/-- An aligned 8-byte word that a context's FE has read ahead of its program order (R120): later loads of the context may take
their value from it. -/
structure Early where
  ctx : CtxId
  space : Space
  addr : Nat
  bytes : List PByte
  gone : Option Past
  deriving DecidableEq, Repr

/-- What a release is made on (R121, R122). -/
inductive RelAt where
  /-- Bytes of memory. -/
  | word (sp : Space) (a n : Nat)
  /-- An arrival barrier of a core's pool (R136). -/
  | barrier (c : CoreId) (off : Nat)
  /-- A stream ring of a core's pool (R140, R141). -/
  | ring (c : CoreId) (off : Nat)
  /-- The barrier of a gang, by its task (R35). -/
  | gang (task : Nat)
  deriving DecidableEq, Repr

/-- A release (R121): who made it and when, at which scope, and whether an acquire meets it now: its value or a later
read-modify-write's stands in memory, its barrier phase is complete. -/
structure Rel where
  at_ : RelAt
  by_ : Knower
  scope : Nat
  live : Bool
  deriving DecidableEq, Repr

/-- An aligned 8-byte word of device memory as it lies in a die's remote-data cache, or as the host last saw it (R116, R133). -/
structure Stale where
  /-- The die whose cache it is; none for the host. -/
  seer : Option DieId
  addr : Nat
  bytes : List PByte
  gone : Option Past
  /-- The releases that an acquire of the word as it was taken in meets. -/
  heard : List Rel
  deriving DecidableEq, Repr

/-- Writes of a copy to one word, or one 32-byte granule of ECC memory, that are still to be performed (R118, R127, R131): the context,
the queue and the entry's number in dispatch order; and who knows of them (R34, R35, R122). -/
structure Post where
  ctx : CtxId
  q : EngineQ
  ord : Nat
  writes : List (Space × Nat × PByte)
  known : List Knower
  deriving DecidableEq, Repr

/-! ## Interfaces -/

/-- Whose flit it is (R445): a copy's, or a write-back's of a die's Firkin (R437), by its task, its request and the rank it moves. -/
inductive FlitOf where
  | copy (k : CtxId) (q : EngineQ) (entry : BitVec 32)
  | move (d : DieId) (task : Nat) (reqid : BitVec 32) (rank : Option Nat)
  deriving DecidableEq, Repr

/-- A flit in a port's replay buffer (R445). -/
structure Unacked where
  seq : BitVec 12
  owner : FlitOf
  deriving DecidableEq, Repr

/-- A Blumus port (R445, R446). -/
structure BPort where
  up : Bool
  txSeq : BitVec 12
  rxSeq : BitVec 12
  /-- A replay was requested from this number (R445). -/
  replayFrom : Option (BitVec 12)
  /-- Flits sent and not yet acknowledged, oldest first. -/
  unacked : List Unacked
  /-- Consecutive replays of the oldest of them. -/
  replays : Nat
  /-- When the oldest of them became the oldest. -/
  since : Word
  bwinBase : BitVec 21
  bwinSize : BitVec 24
  deriving DecidableEq, Repr

/-- A delivery of the steering unit that is claimed and not published (R140, R453). -/
structure SteerClaim where
  ctx : CtxId
  ring : Nat
  claim : BitVec 32
  deriving DecidableEq, Repr

/-- An entry of the MSI-X table (R441). -/
structure MsixEntry where
  addr : Word
  data : BitVec 32
  mask : Bool
  deriving DecidableEq, Repr

/-- What several sources may act on at one timestamp, in the order of their numbers (R456). -/
inductive Contended where
  /-- An arrival barrier of a core's pool. -/
  | barrier (c : CoreId) (off : Nat)
  /-- A stream ring's descriptor. -/
  | ring (c : CoreId) (off : Nat)
  /-- Bushel's table of a die. -/
  | table (d : DieId)
  /-- The walkers of a die. -/
  | walkers (d : DieId)
  /-- An automaton of a die. -/
  | automaton (d : DieId) (n : Nat)
  /-- The steering unit, by port number (R451, R453). -/
  | steering
  deriving DecidableEq, Repr

/-- The source that acted on something last, and when. -/
structure Mark where
  obj : Contended
  at_ : Word
  src : Nat
  deriving DecidableEq, Repr

/-- The latched snapshot registers (R457). -/
structure Snapshot where
  ts : Word
  issues : List Nat
  occupancy : List (List Nat)
  tokens : List (List Nat)
  gangs : List (Nat × Nat × Nat)
  firkin : List Nat
  frames : List Nat
  unsteered : List Nat
  drops : List Nat
  deriving DecidableEq, Repr

/-- A message the device returns over its endpoint (R443, R465). -/
inductive Reply where
  | bar2 (bytes : List Byte) (ep : Bool)
  | unsupported
  | version (major minor : Nat)
  | capabilities
  | algorithms (agreed : Bool)
  | digests (d : List (List Byte))
  | certificate (chain : List Byte)
  | challengeAuth (sig : List Byte)
  | measurement (index : BitVec 8) (value : List Byte)
  | spdmError
  /-- A register's value (R5). -/
  | reg (v : Word)
  deriving DecidableEq, Repr

/-- The safety limits, locked at boot (R412, R464). -/
structure Limits where
  radiomin : Nat
  tenmax : Nat
  issfloor : Nat
  /-- log2 of the watchdog floor. -/
  wdfloor : Nat
  deriving DecidableEq, Repr

/-- Who moves next: the model's own way to take every order of agents the manual allows (R20, R120, R423, R454). -/
inductive Turn where
  /-- The issue arbiter of a core grants its next slot (R38). -/
  | issue (c : CoreId)
  /-- An event of the table happens. -/
  | event (i : Instr) (a : Arg)
  /-- Time passes: `ns` nanoseconds and `cycles` core cycles. -/
  | tick (ns cycles : Nat)
  /-- The `i`-th buffered store of a context is performed. -/
  | drain (k : CtxId) (i : Nat)
  /-- The FE of a context reads an aligned word ahead of its program order (R120). -/
  | readAhead (k : CtxId) (sp : Space) (a : Nat)
  /-- The loads and the copies of a context are, or are no longer, performed late (R120, R131). -/
  | relax (k : CtxId) (defers lags : Bool)
  /-- The `i`-th load that a context has still to perform is performed (R120). -/
  | loadNow (k : CtxId) (i : Nat)
  /-- The `i`-th of the copies' writes still to be performed is performed (R131). -/
  | land (i : Nat)
  /-- The `i`-th word read ahead is given up. -/
  | dropAhead (i : Nat)
  /-- The remote-data cache of a die takes in a word homed on the other die (R116). -/
  | remoteFill (d : DieId) (a : Nat)
  /-- The host keeps what it sees of a word of device memory (R133). -/
  | hostFill (a : Nat)
  /-- The `i`-th word so kept is invalidated. -/
  | dropStale (i : Nat)
  /-- The `i`-th element that the head entry of a queue has still to write is written (R238). -/
  | engineWrite (k : CtxId) (q : EngineQ) (i : Nat)
  /-- The `i`-th entry of a core's TLB is evicted. -/
  | tlbEvict (c : CoreId) (i : Nat)
  /-- The `i`-th entry of a die's second-level TLB is evicted. -/
  | l2Evict (d : DieId) (i : Nat)
  /-- The walker cache of a die loses its `i`-th entry. -/
  | walkEvict (d : DieId) (i : Nat)
  /-- Firmware maps a queue. -/
  | mapQueue (q : Fin 32) (m : QMap)
  /-- Firmware or the host driver unmaps a queue; with the flag, while a packet of it is half read (R394). -/
  | unmapQueue (q : Fin 32) (torn : Bool)
  /-- Firmware or the host reads a register. -/
  | regRead (r : HwReg)
  /-- A peer acknowledges the oldest flit of a port (R445). -/
  | blumusAck (port : Fin 4)
  /-- A replay of the oldest flit of a port fails (R445). -/
  | blumusReplay (port : Fin 4)
  /-- A single-bit error of device memory is corrected (R458). -/
  | eccCorrected (addr : Nat)
  /-- The host writes its own memory. -/
  | hostWrite (addr : Nat) (bytes : List PByte)
  /-- The host begins or ceases to answer an address of its memory with errors. -/
  | hostRefuse (addr : Nat) (on : Bool)
  /-- A peer's device memory changes under its own hand. -/
  | peerWrite (port : Fin 4) (addr : Nat) (bytes : List PByte)
  /-- A peer sets the range it accepts (base, size). -/
  | peerWindow (port : Fin 4) (base size : Nat)
  /-- A boot-flash copy is programmed from outside the machine. -/
  | flashWrite (copy : Fin 2) (addr : Nat) (bytes : List Byte)
  deriving DecidableEq, Repr

/-- The machine. -/
structure State where
  ctxs : Vector Ctx 256
  cores : Vector Core 64
  dies : Vector Die 2
  dmem : Mem
  /-- Words read ahead, of every context. -/
  early : List Early
  /-- Words of device memory in the remote-data caches and in the host's sight. -/
  stale : List Stale
  /-- Copies' writes still to be performed. -/
  posts : List Post
  /-- Releases that acquires may meet. -/
  rels : List Rel
  /-- Addresses of uncorrectable errors reported to firmware (R458). -/
  memErrors : List Nat
  /-- Single-bit errors corrected, and their addresses as reported to firmware (R458). -/
  eccCount : Nat
  eccReports : List Nat
  tsc : Word
  /-- The fraction of a nanosecond, in units of 2^-40, carried by the rate correction (R454). -/
  tscFrac : Nat
  adj : BitVec 32
  tspps : Word
  parts : Vector Part 16
  lend : BitVec 64
  rsplit : BitVec 12
  rctx : Fin 4
  phase : BitVec 32
  len : BitVec 32
  /-- Number of the budget period begun last (R410). -/
  period : Nat
  killgap : BitVec 8
  drainmax : BitVec 32
  limits : Limits
  hqueues : Vector HQueue 32
  tasks : List Task
  /-- Numbers of the pending tasks, in the order of R399. -/
  pendingList : List Nat
  msi : Vector Msi 256
  msix : Vector MsixEntry 256
  /-- The pending-bit array (R441). -/
  msixPending : BitVec 256
  /-- Status registers of Advanced Error Reporting (R441). -/
  aerUncorr : BitVec 32
  aerCorr : BitVec 32
  /-- Interrupt messages sent, newest first: vector and EVCNT. -/
  sent : List (Fin 256 × Nat)
  /-- Steering entries that firmware has written, by index, rising (R450). -/
  steering : List (Fin 4096 × SteerEntry)
  steerClaims : List SteerClaim
  unsteered : Vector (BitVec 32) 4
  /-- Gb/s of each fronthaul port; 0 while it is down (R449, R459). -/
  fhSpeed : Vector Nat 4
  fhFrames : Vector Nat 4
  /-- Deliveries dropped at each port (R453, R457). -/
  fhDrops : Vector Nat 4
  /-- Frames given to the host, newest first, with their arrival timestamps (R449, R454). -/
  toHost : List (Word × FhFrame)
  /-- Timestamps of transmitted event messages, newest first (R454). -/
  txStamps : List (Fin 4 × Word)
  bports : Vector BPort 4
  /-- Blumus answers sent, newest first: an error answer for a flit (R446). -/
  flitErrors : List (Fin 4 × BitVec 12)
  snapat : Word
  snapshot : Snapshot
  snapArmed : Bool
  snapLast : Option Word
  replies : List Reply
  fuses : List Byte
  flash : Vector Mem 2
  measured : Bool
  /-- Host memory and the peers' device memories as the device sees them (R444, R446): the outside world. -/
  hostMem : Mem
  hostRefused : List Nat
  peerMem : Vector Mem 4
  /-- Ranges (base, size) the peers accept (their BWIN, R446). -/
  peerWin : Vector (Nat × Nat) 4
  /-- Issues and passages of time so far: the time base of R38's waiting order and of R407's moments. -/
  clock : Nat
  /-- Who acted last on what several sources contend for (R456). -/
  marks : List Mark
  /-- The source number of the present turn (R456). -/
  src : Nat
  /-- Who writes memory in the present turn. -/
  writer : Knower
  /-- The present turn comes too late: a higher source number has acted at its timestamp (R456). -/
  late : Bool
  agenda : List Turn
  cur : CtxId
  arg : Arg
  /-- How many free values have been drawn. -/
  fresh : Nat
  deriving DecidableEq, Repr

/-! ## Outcomes -/

/-- Why the machine stops. -/
inductive Fault where
  /-- Raised by step when both dies have halted in the boot ROM (R460) and nothing is left on the agenda: no unit can act
  until a reset. Safe: the spec gives the halted module no further step. -/
  | halted
  deriving DecidableEq, Repr

/-- Why an instruction has no meaning here. -/
inductive Refusal where
  /-- Raised by exec's arm of an instruction that is not modelled yet. Safe: nothing is claimed of it. -/
  | notModelled (mnemonic : String)
  deriving DecidableEq, Repr

/-- The outcome of a step of this machine. -/
abbrev Out := Host.Outcome State Fault Refusal

/-! ## Reset -/

/-- Memory with nothing listed. -/
def Mem.empty : Mem := { cells := [], poison := [] }

/-- A cleared lane. -/
def Lane.zero : Lane := { bits := 0, poison := false }

/-- A cleared tile. -/
def Tile.zero : Tile := Vector.replicate 1024 Lane.zero

/-- A nest level of a clean image (R217). -/
def Level.clean : Level := { n := 1, ss := 0, ds := 0 }

/-- An empty weight plane (R242). -/
def WPlane.empty : WPlane :=
  { loaded := false, fmt := 0, elems := Vector.replicate 4096 (0, false),
    scales := Vector.replicate 128 { val := 0, poison := false } }

/-- An empty configuration plane (R324). -/
def OPlane.empty : OPlane :=
  { st := .empty, graph := { nodes := [], luts := [], out0 := 0, out1 := 0 }, lat := 0, nin := 0, nout := 0, stamp := 0 }

/-- An unloaded slot (R324). -/
def OSlot.empty : OSlot := { cur := 0, bad := false, planes := Vector.replicate 2 OPlane.empty }

/-- The view of an unloaded slot (R325). -/
def OView.empty : OView := { loaded := false, cur := 0, nin := 0, nout := 0 }

/-- The CSRs of a clean image on a context with nothing placed (R106, R365). -/
def Csr.clean (wdfloor : Nat) : Csr :=
  { stepn := 0, nslots := 0, ragbase := 0, remt := 0, vrb := 0, nflag := 0, nctl := 0,
    utvecBase := 0, utvecAct := false, utvecEn := false, uepc := 0,
    ucauseSeq := 0, ucauseQueue := 0, ucauseCode := 0, utval := 0,
    sact := false, note := false, hold := false, dlc := false,
    stvecBase := 0, sepc := 0, scauseSeq := 0, scauseQueue := 0, scauseCode := 0, stval := 0, sscratch := 0,
    qwdog := BitVec.ofNat 32 (max 0x100000 (2 ^ wdfloor)), partn := 0, ctximg := 0,
    cpSeq := 0, cpQueue := 0, cpCount := 0, cpFail := 0, cpmask := 0,
    gsize := 0, rank := 0, tiles := 0, dslots := 0, parkocc := 0,
    poolBase := 0, poolReg := 0, poolScr := 0, poolL1 := 0, poolPriv := 0 }

/-- A context with nothing placed (R106, R467). -/
def Ctx.clean (wdfloor : Nat) : Ctx :=
  { run := .idle, pc := 0, s := Vector.replicate 32 { val := 0, poison := false }, p := 1,
    tiles := Vector.replicate 32 Tile.zero, masks := Vector.replicate 8 0, shapes := Vector.replicate 16 0,
    csr := Csr.clean wdfloor, queues := Vector.replicate 5 { entries := [], next := 0 }, dispatched := 0,
    tokens := Vector.replicate 10 0, nestCi := Vector.replicate 6 Level.clean, nestCo := Vector.replicate 6 Level.clean,
    mxcfg := 0, sqcfg := 0, planes := Vector.replicate 2 WPlane.empty, activePlane := 0, scaleq := [],
    mview := { active := none, shadow := none, scales := 0, mxcfg := 0, sqcfg := 0 },
    oslots := Vector.replicate 16 OSlot.empty, oview := Vector.replicate 16 OView.empty,
    gops := [], sbuf := [], posted := [], hostLoads := [], lateLoads := [], defers := false, lags := false, fails := { bits := 0, count := 0 }, lateFails := { bits := 0, count := 0 },
    arr := false, arrStep := false, arrDone := false, ended := false, heldReports := [], heldEscs := [], preHeld := false, lastArith := none, watchdog := 0,
    stallRaised := false, drainIdle := 0, doomed := false, headSince := Vector.replicate 5 0,
    cbud := 0xFFFFFFFF, issueLeft := 0xFFFFFFFF, lastIssue := 0, issues := 0, spilled := false,
    task := none }

/-- A core after reset (R366, R467). -/
def Core.reset : Core :=
  { pool := Mem.empty, acc := Mem.empty, accsplit := 0x492, tlb := [], spill := Mem.empty, savedSplit := none }

/-- An automaton context with nothing bound (R467). -/
def Automaton.unbound : Automaton :=
  { part := none, bound := false, grammar := 0,
    header := { nsym := 0, nstate := 0, ntok := 0, start := 0, eos := 0, stoff := 0, troff := 0, trieoff := 0, size := 0,
                ntrans := 0, nnode := 0 },
    conf := { state := 0, stack := [], fin := false }, snaps := Vector.replicate 8 none,
    ref := false, snapinv := false, badg := false, rej := false, restoring := false, saving := false }

/-- A die when firmware first runs (R460, R467). -/
def Die.reset : Die :=
  { dscarve := 0, dsh := Mem.empty, table := [], gens := [], automata := Vector.replicate 512 Automaton.unbound,
    l2tlb := [], walkCache := [], moves := [], firkinBytes := 0, escRing := [], occLog := [], bootImage := Mem.empty, entry := none,
    bootStage := 8, failcode := 0, copyB := false, ready := false, bootDigest := none, bootSvn := 0 }

/-- A partition after reset (R411, R428, R429): its budgets are unlimited, but PBUD.DMEM of partitions 1 to 15 is 0. -/
def Part.reset (p : Fin 16) : Part :=
  { root := 0, ten := false, cores := 0, reclaim := p = 0, blumus := false, hostw := false, fh := false, en := false,
    dmem := if p = 0 then 0xFFFFFFFF else 0, link := 0xFFFFFFFF, fhb := 0xFFFFFFFF,
    dmemLeft := 0, linkLeft := 0, fhLeft := 0 }

/-- A thread that has read nothing. -/
def QThread.fresh : QThread := { consumed := Vector.replicate 8 0, stack := [], taken := 0 }

/-- A queue that is not mapped (R467). -/
def HQueue.unmapped : HQueue :=
  { map := none, published := Vector.replicate 8 0, spans := [], threads := Vector.replicate 2 QThread.fresh, acted := 0,
    block := .none }

/-- The snapshot registers before the first trigger. -/
def Snapshot.zero : Snapshot :=
  { ts := 0, issues := List.replicate 256 0, occupancy := List.replicate 256 (List.replicate 5 0),
    tokens := List.replicate 256 (List.replicate 10 0), gangs := [], firkin := [0, 0], frames := [0, 0, 0, 0],
    unsteered := [0, 0, 0, 0], drops := [0, 0, 0, 0] }

/-- A Blumus port after reset (R467). -/
def BPort.reset : BPort :=
  { up := false, txSeq := 0, rxSeq := 0, replayFrom := none, unacked := [], replays := 0, since := 0, bwinBase := 0, bwinSize := 0 }

/-- A steering entry with V 0 (R467). -/
def SteerEntry.zero : SteerEntry :=
  { pcid := 0, pcidm := 0, seclo := 0, sechi := 0, ports := 0, dirm := false, dir := false, valid := false, raw := false,
    part := 0, core := 0, ctx := 0, ring := 0, symm := 0, deliv := 0, drops := 0, lastSeq := none }

/-- An argument with every field at its first value. -/
def Arg.zero : Arg :=
  { ctx := 0, q := .ci, core := 0, die := 0, part := 0, task := 0, n := 0, hq := 0, ring := 0, vec := 0, port := 0,
    reg := .preempt, budget := .cbud 0, steer := 0, entry := SteerEntry.zero, producer := .stream 0, word := 0,
    frame := { port := 0, fcsOk := false, ecpri := false, msgType := 0, pcId := 0, seqId := 0, dir := false, frameId := 0,
               subframeId := 0, slotId := 0, symbolId := 0, sections := [], payload := [] },
    flit := { seq := 0, addr := 0, bytes := [], poison := 0, cred := none },
    answer := .error, bytes := [], bases := [], flag := false, nonce := 0 }

/-- The machine when firmware first runs after a reset (R467): every register at the value of its map, device memory zeros. -/
def State.reset : State :=
  { ctxs := Vector.replicate 256 (Ctx.clean 16), cores := Vector.replicate 64 Core.reset, dies := Vector.replicate 2 Die.reset,
    dmem := Mem.empty, early := [], stale := [], posts := [], rels := [], memErrors := [], eccCount := 0, eccReports := [], tsc := 0, tscFrac := 0, adj := 0, tspps := 0,
    parts := Vector.ofFn Part.reset, lend := 0, rsplit := 0x492, rctx := 3, phase := 0, len := 500000, period := 0,
    killgap := 128, drainmax := 30000,
    limits := { radiomin := 1, tenmax := 255, issfloor := 1, wdfloor := 16 },
    hqueues := Vector.replicate 32 HQueue.unmapped, tasks := [], pendingList := [],
    msi := Vector.replicate 256 { win := 1, evcnt := 0, openUntil := none, count := 0 },
    msix := Vector.replicate 256 { addr := 0, data := 0, mask := true }, msixPending := 0, aerUncorr := 0, aerCorr := 0, sent := [],
    steering := [], steerClaims := [], unsteered := Vector.replicate 4 0, fhSpeed := Vector.replicate 4 0,
    fhFrames := Vector.replicate 4 0, fhDrops := Vector.replicate 4 0, toHost := [],
    txStamps := [],
    bports := Vector.replicate 4 BPort.reset,
    flitErrors := [], snapat := 0, snapshot := Snapshot.zero, snapArmed := true, snapLast := none, replies := [],
    fuses := [], flash := Vector.replicate 2 Mem.empty, measured := true,
    hostMem := Mem.empty, hostRefused := [], peerMem := Vector.replicate 4 Mem.empty, peerWin := Vector.replicate 4 (0, 0),
    clock := 0, marks := [], src := 0, writer := { who := .unit, since := 0 }, late := false, agenda := [], cur := 0, arg := Arg.zero, fresh := 0 }

end Sys2Proof.Machine
end

