-- ==== Sys2Proof/Machine/Mem.lean ====
section
/-!
DEFINITION. Byte memory with poison (R4, R126), the memories of the device (R107), the numbering of cores, dies and contexts (R11,
R23), and the accessors of State.
-/
namespace Sys2Proof.Machine

/-! ## Bytes and memory -/

/-- The `n` low bytes of a number, lowest first (R4). -/
def leBytes : Nat → Nat → List Byte
  | 0, _ => []
  | n + 1, v => BitVec.ofNat 8 v :: leBytes n (v / 256)

/-- The byte a canonical cell list holds at an address; an unlisted address reads 0. -/
def cellGet : List Host.Cell → Nat → Byte
  | [], _ => 0
  | (x, b) :: r, a => if x = a then b else if a < x then 0 else cellGet r a

/-- The cell list with one byte changed, in canonical form again. -/
def cellSet : List Host.Cell → Nat → Byte → List Host.Cell
  | [], a, v => if v = 0 then [] else [(a, v)]
  | (x, b) :: r, a, v =>
    if x = a then (if v = 0 then r else (a, v) :: r)
    else if a < x then (if v = 0 then (x, b) :: r else (a, v) :: (x, b) :: r)
    else (x, b) :: cellSet r a v

/-- An address is in a rising list. -/
def addrMem : List Nat → Nat → Bool
  | [], _ => false
  | x :: r, a => if x = a then true else if a < x then false else addrMem r a

/-- A rising list with an address put in or taken out. -/
def addrSet : List Nat → Nat → Bool → List Nat
  | [], a, v => if v then [a] else []
  | x :: r, a, v =>
    if x = a then (if v then x :: r else r)
    else if a < x then (if v then a :: x :: r else x :: r)
    else x :: addrSet r a v

/-- Cells at strictly rising addresses above `lo`, none holding 0. -/
def cellsWf : Nat → List Host.Cell → Bool
  | _, [] => true
  | lo, (x, b) :: r => decide (lo ≤ x) && (b != 0) && cellsWf (x + 1) r

/-- Strictly rising addresses from `lo` on. -/
def addrsWf : Nat → List Nat → Bool
  | _, [] => true
  | lo, x :: r => decide (lo ≤ x) && addrsWf (x + 1) r

/-- The canonical form of a memory. -/
def Mem.wf (m : Mem) : Bool := cellsWf 0 m.cells && addrsWf 0 m.poison

/-- One byte with its poison. -/
def Mem.get (m : Mem) (a : Nat) : PByte := { val := cellGet m.cells a, poison := addrMem m.poison a }

/-- One byte written with its poison (R126). -/
def Mem.set (m : Mem) (a : Nat) (b : PByte) : Mem :=
  { cells := cellSet m.cells a b.val, poison := addrSet m.poison a b.poison }

/-- `n` bytes from `a` on. -/
def Mem.read (m : Mem) (a : Nat) : Nat → List PByte
  | 0 => []
  | n + 1 => m.get a :: m.read (a + 1) n

/-- Bytes written from `a` on. -/
def Mem.write (m : Mem) (a : Nat) : List PByte → Mem
  | [] => m
  | b :: r => (m.set a b).write (a + 1) r

/-- The number little-endian bytes stand for (R4). -/
def bytesNat : List PByte → Nat
  | [] => 0
  | b :: r => b.val.toNat + 256 * bytesNat r

/-- One of the bytes is poisoned. -/
def anyPoison (l : List PByte) : Bool := l.any (·.poison)

/-- Bytes all poisoned or all clean. -/
def pbytes (p : Bool) (l : List Byte) : List PByte := l.map (fun b => { val := b, poison := p })

/-- The `n` low bytes of a number as memory holds them. -/
def natBytes (n v : Nat) : List PByte := pbytes false (leBytes n v)

/-- The memory of a space. -/
def State.memOf (s : State) : Space → Mem
  | .pool c => (s.cores[c.val]).pool
  | .acc c => (s.cores[c.val]).acc
  | .dsh d => (s.dies[d.val]).dsh
  | .dmem => s.dmem
  | .host => s.hostMem
  | .peer p => s.peerMem[p.val]

/-- The state with the memory of a space replaced. -/
def State.setMem (s : State) (sp : Space) (m : Mem) : State :=
  match sp with
  | .pool c => { s with cores := s.cores.set c.val { s.cores[c.val] with pool := m } }
  | .acc c => { s with cores := s.cores.set c.val { s.cores[c.val] with acc := m } }
  | .dsh d => { s with dies := s.dies.set d.val { s.dies[d.val] with dsh := m } }
  | .dmem => { s with dmem := m }
  | .host => { s with hostMem := m }
  | .peer p => { s with peerMem := s.peerMem.set p.val m }

/-- Bytes of a write `lo` to `hi` into ECC memory, from address `a` on: a 32-byte granule the write does not cover keeps its
poison (R458). -/
def eccBytes (m : Mem) (lo hi : Nat) (a : Nat) : List PByte → List PByte
  | [] => []
  | b :: r =>
    let g := a / 32 * 32
    let covered := decide (lo ≤ g) && decide (g + 32 ≤ hi)
    { b with poison := b.poison || (!covered && addrMem m.poison a) } :: eccBytes m lo hi (a + 1) r

/-- A space is device memory, of this part or of a peer. -/
def Space.ecc : Space → Bool
  | .dmem | .peer _ => true
  | _ => false

/-! ## Numbering (R11, R23) -/

/-- The core of a context. -/
def coreOf (k : CtxId) : CoreId := ⟨k.val / 4, by omega⟩
/-- The context number on its core. -/
def numOf (k : CtxId) : Fin 4 := ⟨k.val % 4, by omega⟩
/-- The die of a core. -/
def dieOf (c : CoreId) : DieId := ⟨c.val / 32, by omega⟩
/-- The context of a core with a number. -/
def ctxAt (c : CoreId) (n : Fin 4) : CtxId := ⟨c.val * 4 + n.val, by omega⟩
/-- The core `n` further along the ring (R11). -/
def ringAt (c : CoreId) (n : Nat) : CoreId := ⟨(c.val + n) % 64, by omega⟩

/-! ## Accessors -/

/-- A context. -/
def State.ctx (s : State) (k : CtxId) : Ctx := s.ctxs[k.val]
/-- A context replaced. -/
def State.setCtx (s : State) (k : CtxId) (c : Ctx) : State := { s with ctxs := s.ctxs.set k.val c }
/-- A context changed by a function. -/
def State.modCtx (s : State) (k : CtxId) (f : Ctx → Ctx) : State := s.setCtx k (f (s.ctx k))
/-- A core. -/
def State.core (s : State) (c : CoreId) : Core := s.cores[c.val]
/-- A core replaced. -/
def State.setCore (s : State) (c : CoreId) (x : Core) : State := { s with cores := s.cores.set c.val x }
/-- A die. -/
def State.die (s : State) (d : DieId) : Die := s.dies[d.val]
/-- A die replaced. -/
def State.setDie (s : State) (d : DieId) (x : Die) : State := { s with dies := s.dies.set d.val x }
/-- A die changed by a function. -/
def State.modDie (s : State) (d : DieId) (f : Die → Die) : State := s.setDie d (f (s.die d))
/-- A partition's registers. -/
def State.part (s : State) (p : Fin 16) : Part := s.parts[p.val]
/-- A partition's registers replaced. -/
def State.setPart (s : State) (p : Fin 16) (x : Part) : State := { s with parts := s.parts.set p.val x }
/-- A task by its number. -/
def State.taskAt (s : State) (t : Nat) : Option Task := s.tasks[t]?
/-- A task replaced. -/
def State.setTask (s : State) (t : Nat) (x : Task) : State := { s with tasks := s.tasks.set t x }

end Sys2Proof.Machine
end

