-- ==== Sys2Proof/Machine/Views.lean ====
section
/-!
DEFINITION. What an observer may still see of the past, and what takes it away (R116 to R125, R127, R131, R133): words a context's FE
has read ahead of its program order, words of device memory in a die's remote-data cache, words as the host last saw them; what each
agent comes to know of the writes that have overwritten them; releases and the acquires that meet them; and the writing of memory,
which takes note of its writer.
-/
namespace Sys2Proof.Machine

/-! ## Observers and writers (R117, R122) -/

/-- The narrowest scope of context `k` that names context `j` among its observers. -/
def scopeTo (k j : CtxId) : Nat :=
  if k = j then 0 else if coreOf k = coreOf j then 1 else if dieOf (coreOf k) = dieOf (coreOf j) then 2 else 3

/-- The narrowest scope of a context that names an agent among its observers. -/
def apart (k : CtxId) : Agent → Nat
  | .fe j => scopeTo k j
  | .eng j _ => scopeTo k j
  | .gram j => max 2 (scopeTo k j)
  | .unit => 3
  | .outside => 4

/-- The die whose units an agent belongs to, where it is a context's. -/
def Agent.die? : Agent → Option DieId
  | .fe j => some (dieOf (coreOf j))
  | .eng j _ => some (dieOf (coreOf j))
  | .gram j => some (dieOf (coreOf j))
  | .unit => none
  | .outside => none

/-- An agent as it stands now. -/
def State.latest (s : State) (a : Agent) : Knower :=
  { who := a, since := match a with | .eng k _ => (s.ctx k).dispatched | _ => s.clock }

/-- The die a byte of device memory is homed on (R17, R116): every write to it is performed there. -/
def homeDie (a : Nat) : DieId := Fin.ofNat 2 (a / 2 ^ 36)

/-- The aligned 8-byte word of a space at an address. -/
def State.word8 (s : State) (sp : Space) (a : Nat) : List PByte := (s.memOf sp).read a 8

/-- Two byte ranges of one space meet. -/
def rangesMeet (sp1 : Space) (a1 n1 : Nat) (sp2 : Space) (a2 n2 : Nat) : Bool :=
  decide (sp1 = sp2) && decide (a1 < a2 + n2) && decide (a2 < a1 + n1)

/-! ## Taking note of a write -/

/-- The overwriting of a held word with one writer more. -/
def overwrite (o : Option Past) (scope : Nat) (common : Bool) (w : Knower) : Past :=
  match o with
  | none => { scope := scope, common := common, known := [w] }
  | some p =>
    { scope := min p.scope scope, common := p.common || common
      known := if p.known.any (fun x => x.who == w.who && decide (x.since ≤ w.since)) then p.known else w :: p.known }

/-- Every observer of a context's die sees the writes to a word in one order (R124): the word is homed on the die, or in the
die-shared store or a scratchpad. -/
def commonWord (k : CtxId) (sp : Space) (a : Nat) : Bool := decide (sp ≠ .dmem) || decide (homeDie a = dieOf (coreOf k))

/-- A word read ahead after a write to it; the own FE's store ends it (R119). -/
def Early.written (w : Knower) (e : Early) : Option Early :=
  if w.who = .fe e.ctx then none
  else some { e with gone := some (overwrite e.gone (apart e.ctx w.who) (commonWord e.ctx e.space e.addr) w) }

/-- A cached word after a write to it: one of the caching die's own contexts, of a unit or of the host goes through the cache; one of
the other die's contexts leaves it as it is until its invalidation crosses (R116). What the host has seen stands until the host's own
write. -/
def Stale.written (w : Knower) (x : Stale) : Option Stale :=
  let keep := some { x with gone := some (overwrite x.gone 0 false w) }
  match x.seer with
  | none => if w.who = .outside then none else keep
  | some d =>
    match w.who.die? with
    | some c => if c = d then none else keep
    | none => none

/-- The release is on bytes of a range. -/
def Rel.meets (r : Rel) (sp : Space) (a n : Nat) : Bool :=
  match r.at_ with | .word p b m => rangesMeet p b m sp a n | _ => false

/-- A release after a write to bytes of its range: what stands there is no longer its value. -/
def Rel.overwritten (hit : Space → Nat → Nat → Bool) (r : Rel) : Rel :=
  match r.at_ with
  | .word sp a n => if hit sp a n then { r with live := false } else r
  | _ => r

/-- A write by an agent to the ranges of a predicate is noted by every observer that holds a word of them. -/
def State.note (s : State) (w : Knower) (hit : Space → Nat → Nat → Bool) : State :=
  { s with
    early := s.early.filterMap (fun e => if hit e.space e.addr 8 then e.written w else some e)
    stale := s.stale.filterMap (fun x => if hit .dmem x.addr 8 then x.written w else some x)
    rels := s.rels.map (Rel.overwritten hit) }

/-- Bytes performed in a space. -/
def State.read (s : State) (sp : Space) (a n : Nat) : List PByte := (s.memOf sp).read a n

/-- The memory of a space with bytes written, in the bounds of its ECC granules (R458). -/
def State.put (s : State) (sp : Space) (a : Nat) (l : List PByte) : State :=
  let m := s.memOf sp
  s.setMem sp (m.write a (if sp.ecc then eccBytes m a (a + l.length) a l else l))

/-- Bytes written in a space by an agent. -/
def State.writeBy (s : State) (w : Knower) (sp : Space) (a : Nat) (l : List PByte) : State :=
  (s.put sp a l).note w (rangesMeet sp a l.length)

/-- Bytes written in a space by the agent of the present turn. -/
def State.write (s : State) (sp : Space) (a : Nat) (l : List PByte) : State := s.writeBy s.writer sp a l

/-- Writes in the order they are made. -/
abbrev Writes := List (Space × Nat × PByte)

/-- Poison of ECC memory and of Blumus under a set of writes (R447, R458): a byte keeps the poison of a granule the set does not
cover, and a peer stores the 8-byte unit of a poisoned byte poisoned. -/
def eccWrites (s : State) (ws : Writes) : Writes :=
  ws.map (fun w =>
    if !w.1.ecc then w
    else
      let same := ws.filter (fun v => v.1 == w.1 && v.2.1 / 32 == w.2.1 / 32)
      let touched := (same.foldl (fun l v => addrSet l v.2.1 true) []).length
      let old := addrMem (s.memOf w.1).poison w.2.1 && decide (touched < 32)
      let unit := match w.1 with
        | .peer _ => same.any (fun v => v.2.1 / 8 == w.2.1 / 8 && v.2.2.poison)
        | _ => false
      (w.1, w.2.1, { w.2.2 with poison := w.2.2.poison || old || unit }))

/-- One of the writes reaches a byte of a range. -/
def writesMeet (ws : Writes) (sp : Space) (a n : Nat) : Bool := ws.any (fun w => rangesMeet w.1 w.2.1 1 sp a n)

/-- An agent makes writes together. -/
def putWritesBy (s : State) (w : Knower) (ws : Writes) : State :=
  ((eccWrites s ws).foldl (fun t w => t.setMem w.1 ((t.memOf w.1).set w.2.1 w.2.2)) s).note w (writesMeet ws)

/-- The agent of the present turn makes writes together. -/
def putWrites (s : State) (ws : Writes) : State := putWritesBy s s.writer ws

/-- A little-endian number of `n` bytes in a space. -/
def State.readNat (s : State) (sp : Space) (a n : Nat) : Nat := bytesNat (s.read sp a n)

/-- The bytes an atomic has written hold the value of every release made on them: a read-modify-write follows them (R121). One at
DEV scope or wider is seen at one point by every observer (R124). -/
def afterAtomic (s : State) (sp : Space) (a n scope : Nat) : State :=
  let hit := rangesMeet sp a n
  { s with
    rels := s.rels.map (fun r => if r.meets sp a n then { r with live := true } else r)
    early := if 3 ≤ scope then
        s.early.map (fun e => if hit e.space e.addr 8 then { e with gone := e.gone.map (fun p => { p with common := true }) } else e)
      else s.early
    stale := if 3 ≤ scope then s.stale.filter (fun x => !(x.seer.isSome && hit .dmem x.addr 8)) else s.stale }

/-! ## Reading ahead, the remote-data caches and the host's sight (R116, R120, R123, R133) -/

/-- A space that FE loads may be served from early or late: the own pool, the die-shared stores, device memory. -/
def aheadSpace (k : CtxId) (sp : Space) : Bool :=
  match sp with
  | .pool c => c == coreOf k
  | .dsh _ | .dmem => true
  | _ => false

/-- A word of device memory as an observer holds it: a die's units in the die's remote-data cache (R116), the host in its sight. -/
def heldWord (seer : Option DieId) (w : Nat) : List Stale → Option Stale
  | [] => none
  | x :: r => if x.seer = seer ∧ x.addr = w then some x else heldWord seer w r

/-- A byte as the units of a die, or the host, see it. -/
def seenByte (s : State) (seer : Option DieId) (sp : Space) (a : Nat) : PByte :=
  let now := (s.memOf sp).get a
  if sp = .dmem then
    match heldWord seer (a / 8 * 8) s.stale with
    | some x => x.bytes.getD (a % 8) now
    | none => now
  else now

/-- A byte as the units of a die see it. -/
def dieByte (s : State) (d : DieId) (sp : Space) (a : Nat) : PByte := seenByte s (some d) sp a

/-- A byte that the FE of a context has read ahead. -/
def earlyByte (k : CtxId) (sp : Space) (a : Nat) : List Early → Option PByte
  | [] => none
  | e :: r => if e.ctx = k ∧ e.space = sp ∧ e.addr = a / 8 * 8 then e.bytes[a % 8]? else earlyByte k sp a r

/-- The word of an address is held early by a context. -/
def Early.holds (e : Early) (k : CtxId) (sp : Space) (a : Nat) : Bool :=
  e.ctx == k && e.space == sp && e.addr == a / 8 * 8

/-- A store of a context to a range, as it issues, ends what was read ahead there (R119). -/
def ownStore (s : State) (k : CtxId) (sp : Space) (a n : Nat) : State :=
  { s with early := s.early.filter (fun e => !(e.ctx == k && rangesMeet e.space e.addr 8 sp a n)) }

/-- Words of 8 bytes that a remote-data cache of 2 MiB holds (R14). -/
def cacheWords : Nat := 262144

/-- The words a holder keeps as it takes in one more: a full remote-data cache gives up its oldest (R14). -/
def roomFor (seer : Option DieId) (l : List Stale) : List Stale :=
  if seer.isSome && decide (cacheWords ≤ (l.filter (fun x => x.seer == seer)).length) then l.eraseP (fun x => x.seer == seer) else l

/-- The releases that an acquire of bytes, as they stand, meets. -/
def State.relsAt (s : State) (sp : Space) (a n : Nat) : List Rel := s.rels.filter (fun r => r.live && r.meets sp a n)

/-- A word is taken in as it stands. -/
def fillStale (s : State) (seer : Option DieId) (a : Nat) : State :=
  let w := a / 8 * 8
  if s.stale.any (fun x => x.seer == seer && x.addr == w) then s
  else { s with stale := roomFor seer s.stale ++
    [{ seer := seer, addr := w, bytes := s.word8 .dmem w, gone := none, heard := s.relsAt .dmem w 8 }] }

/-- Turn REMOTE FILL: only bytes homed on the other die lie in a die's remote-data cache. -/
def remoteFill (s : State) (d : DieId) (a : Nat) : State := if homeDie a = d then s else fillStale s (some d) a

/-! ## Knowledge of writes (R121, R122) -/

/-- One of some agents, up to the moments given, knows that the word was overwritten. -/
def Past.knownTo (p : Past) (src : List Knower) : Bool :=
  p.known.any (fun x => src.any (fun y => x.who == y.who && decide (x.since ≤ y.since)))

/-- What an observer holds is overwritten, and one of some agents knows it. -/
def goneFor (o : Option Past) (src : List Knower) : Bool := match o with | some p => p.knownTo src | none => false

/-- The agent knows from now on too. -/
def nowKnown (o : Option Past) (me : Knower) : Option Past := o.map (fun p => { p with known := me :: p.known })

/-- The words an agent's loads are served from: what a context's FE has read ahead, the cache of its die; the host's sight. -/
def Early.of (a : Agent) (e : Early) : Bool := match a with | .fe k => e.ctx == k | _ => false
def Stale.of (a : Agent) (x : Stale) : Bool :=
  match a with
  | .outside => x.seer.isNone
  | _ => match a.die? with | some d => x.seer == some d | none => false

/-- One of some agents, up to the moments given, knows of a copy's write. -/
def Post.knownTo (p : Post) (src : List Knower) : Bool :=
  p.known.any (fun x => src.any (fun y => x.who == y.who && decide (x.since ≤ y.since)))

/-- An agent learns at a moment what some others know up to given ones (R122): what it holds itself of the words they know overwritten
goes; what others hold, or is still to be performed, is known to it too. -/
def learnAt (s : State) (me : Knower) (src : List Knower) : State :=
  { s with
    posts := s.posts.map (fun p => if p.knownTo src then { p with known := me :: p.known } else p)
    early := s.early.filterMap (fun e =>
      if !goneFor e.gone src then some e else if e.of me.who then none else some { e with gone := nowKnown e.gone me })
    stale := s.stale.filterMap (fun x =>
      if !goneFor x.gone src then some x else if x.of me.who then none else some { x with gone := nowKnown x.gone me }) }

/-- An agent learns now. -/
def learn (s : State) (me : Agent) (src : List Knower) : State := learnAt s (s.latest me) src

/-! ## Acquires and releases (R120, R121, R124) -/

/-- An acquire at a scope ends a word read ahead that stands unchanged, or was overwritten in the one order of the die's observers
by an agent that the scope names. -/
def Early.endsAt (e : Early) (scope : Nat) : Bool :=
  match e.gone with
  | none => true
  | some p => p.common && decide (p.scope ≤ scope)

/-- An acquire of a context at a scope, from the agents whose releases it meets (R120, R121). -/
def acquire (s : State) (k : CtxId) (scope : Nat) (src : List Knower) : State :=
  let s1 := learn s (.fe k) src
  { s1 with early := s1.early.filter (fun e => !(e.ctx == k && e.endsAt scope)) }

/-- A release and an acquire of a context reach each other (R121). -/
def Rel.binds (r : Rel) (k : CtxId) (scope : Nat) : Bool :=
  decide (apart k r.by_.who ≤ r.scope) && decide (apart k r.by_.who ≤ scope)

/-- The releases that a read by a die's units, or the host, of a range of bytes meets: of a word held, those its value carries. -/
def State.heardAt (s : State) (seer : Option DieId) (sp : Space) (a n : Nat) : List Rel :=
  if sp = .dmem then
    match heldWord seer (a / 8 * 8) s.stale with
    | some x => x.heard.filter (·.meets sp a n)
    | none => s.relsAt sp a n
  else s.relsAt sp a n

/-- The releases of an object that stand complete. -/
def State.relsOn (s : State) (o : RelAt) : List Rel := s.rels.filter (fun r => r.live && decide (r.at_ = o))

/-- A release is made: it takes the place of an earlier one of its agent on the same object. -/
def State.addRel (s : State) (r : Rel) : State :=
  { s with rels := r :: s.rels.filter (fun x => !(x.at_ == r.at_ && x.by_.who == r.by_.who && x.scope == r.scope && x.live == r.live)) }

/-- The releases of an object are complete: an acquire meets them from now on (R136). -/
def State.completeRels (s : State) (o : RelAt) : State :=
  { s with rels := s.rels.map (fun r => if r.at_ = o then { r with live := true } else r) }

/-- The releases of an object are over. -/
def State.dropRels (s : State) (o : RelAt) : State := { s with rels := s.rels.filter (fun r => decide (r.at_ ≠ o)) }

/-- Those that are not complete come to nothing. -/
def State.dropWaiting (s : State) (o : RelAt) : State := { s with rels := s.rels.filter (fun r => decide (r.at_ ≠ o) || r.live) }

/-! ## FENCEs, boundaries and reports (R127, R131, R133) -/

/-- What a context's FE knows of is performed for every observer within a scope (R127). -/
def performedFor (s : State) (k : CtxId) (scope : Nat) : State :=
  let me := [s.latest (.fe k)]
  { s with stale := s.stale.filter (fun x => !(goneFor x.gone me &&
      ((x.seer.isSome && decide (3 ≤ scope)) || (x.seer.isNone && decide (4 ≤ scope))))) }

/-- A FENCE of a context at a scope, its stores and the writes of the entries in `src` being performed (R120, R127, R128): they reach
every observer of the scope, later loads of the context come after it, and entries dispatched later observe what it covers. -/
def fenceViews (s : State) (k : CtxId) (scope : Nat) (src : List Knower) : State :=
  let s1 := performedFor (learn s (.fe k) src) k scope
  let s2 := { s1 with early := s1.early.filter (fun e => !(e.ctx == k && (match e.gone with | some p => decide (p.scope ≤ scope) | none => true))) }
  learn (learn s2 (.eng k .ci) [s2.latest (.fe k)]) (.eng k .co) [s2.latest (.fe k)]

/-- Every agent that acts for a context. -/
def agentsOf (k : CtxId) : List Agent := [.fe k, .gram k] ++ [EngineQ.ci, .mx, .sq, .vx, .co].map (Agent.eng k)

/-- A context begins to run for a task: its FE knows what the units and the host have done (R386, R400). -/
def beginsAfter (s : State) (k : CtxId) : State := acquire s k 4 [s.latest .unit, s.latest .outside]

/-- A unit makes a release at SYS scope on bytes it has written (R392, R395, R396): the host sees them, and what the unit knows. -/
def unitRelease (s : State) (sp : Space) (a n : Nat) : State :=
  let s1 := learn s .outside [s.latest .unit]
  { s1 with stale := s1.stale.filter (fun x => !(x.seer.isNone && rangesMeet .dmem x.addr 8 sp a n)) }.addRel
    { at_ := .word sp a n, by_ := s.latest .unit, scope := 4, live := true }

end Sys2Proof.Machine
end

