-- ==== Sys2Proof/Machine/Ops.lean ====
section
/-!
DEFINITION. The named operations over registers, queues and traps: events of one timestamp (R456), scalar registers and predicates
(R86), tokens (R28 to R31), issue accounting (R38, R411), failures kept for FENCE (R129), the FE's accesses still to be performed
(R120), and taking an exception: drain, park, delivery, escalation and return (R44 to R48, R229, R230, R360 to R363, R374).
-/
namespace Sys2Proof.Machine

/-! ## Events of one timestamp (R456) -/

/-- Something is acted on in the order of a number: of the timestamp's acts on it, one with a lower number than an earlier one comes
too late. -/
def State.contend (s : State) (o : Contended) (n : Nat) : State :=
  if s.marks.any (fun m => m.obj == o && m.at_ == s.tsc && decide (n < m.src)) then { s with late := true }
  else { s with marks := { obj := o, at_ := s.tsc, src := n } :: s.marks.filter (fun m => m.obj != o && m.at_ == s.tsc) }

/-- The source of the present turn acts on something. -/
def State.contended (s : State) (o : Contended) : State := s.contend o s.src

/-! ## Scalar registers and predicates (R86, R384) -/

/-- A scalar register's value: s0 reads as 0. -/
def Ctx.reg (c : Ctx) (r : Reg5) : Word := if r = 0 then 0 else (c.s[r.toNat]'(by omega)).val
/-- A scalar register holds poison. -/
def Ctx.regPoison (c : Ctx) (r : Reg5) : Bool := if r = 0 then false else (c.s[r.toNat]'(by omega)).poison
/-- A result with its poison; a write to s0 is discarded. -/
def Ctx.setRegP (c : Ctx) (r : Reg5) (v : Word) (p : Bool) : Ctx :=
  if r = 0 then c else { c with s := c.s.set r.toNat { val := v, poison := p } (by omega) }
/-- A clean result; a write to s0 is discarded. -/
def Ctx.setReg (c : Ctx) (r : Reg5) (v : Word) : Ctx := c.setRegP r v false
/-- A predicate: p0 reads as true. -/
def Ctx.pred (c : Ctx) (p : Reg3) : Bool := if p = 0 then true else c.p.getLsbD p.toNat
/-- A predicate written; a write to p0 is discarded. -/
def Ctx.setPred (c : Ctx) (p : Reg3) (v : Bool) : Ctx :=
  if p = 0 then c else
    let bit : BitVec 8 := 1#8 <<< p.toNat
    { c with p := if v then c.p ||| bit else c.p &&& ~~~bit }

/-! ## Pool geometry (R101 to R103) and accumulator slots (R97) -/

/-- Pool offset of the scratchpad part. -/
def Ctx.scrStart (c : Ctx) : Nat := 4096 * (c.csr.poolBase + c.csr.poolReg)
/-- Bytes of the scratchpad part. -/
def Ctx.scrSize (c : Ctx) : Nat := 4096 * c.csr.poolScr
/-- Pool offset after the scratchpad part. -/
def Ctx.scrStop (c : Ctx) : Nat := c.scrStart + c.scrSize
/-- Bytes of the private span. -/
def Ctx.privSize (c : Ctx) : Nat := 4096 * c.csr.poolPriv
/-- Pool offset of the private span, at the top of the scratchpad part. -/
def Ctx.privStart (c : Ctx) : Nat := c.scrStop - c.privSize

/-- The slots an ACCSPLIT code gives (R366). -/
def slotsOf (code : Nat) : Nat :=
  match code with
  | 0 => 0 | 1 => 4 | 2 => 8 | 3 => 16 | 4 => 32 | _ => 0
/-- P: the slots of a context under a split. -/
def splitSlots (w : BitVec 12) (n : Fin 4) : Nat := slotsOf (fldN w (3 * n.val) 3)
/-- The first physical slot of a context: those of the lower-numbered contexts come first (R97). -/
def splitBase (w : BitVec 12) (n : Fin 4) : Nat :=
  ((List.range n.val).map (fun i => slotsOf (fldN w (3 * i) 3))).foldl (· + ·) 0
/-- P of a context. -/
def State.pslots (s : State) (k : CtxId) : Nat := splitSlots (s.core (coreOf k)).accsplit (numOf k)
/-- Byte address in the accumulator memory of a context's row 0; a row is 256 bytes. -/
def State.accBase (s : State) (k : CtxId) : Nat := 16384 * splitBase (s.core (coreOf k)).accsplit (numOf k)
/-- N: the park positions of a context (R99). -/
def State.npark (s : State) (k : CtxId) : Nat :=
  Nat.min 32 (4 * (s.pslots k - (s.ctx k).csr.dslots))

/-! ## Queues and tokens (R26 to R31) -/

/-- A queue's place among the five. -/
def EngineQ.idx : EngineQ → Fin 5
  | .ci => 0 | .mx => 1 | .sq => 2 | .vx => 3 | .co => 4
/-- QUEUE of UCAUSE (R47). -/
def EngineQ.code (q : EngineQ) : BitVec 3 := BitVec.ofNat 3 (q.idx.val + 1)
/-- All queues in ring order. -/
def allQueues : List EngineQ := [.ci, .mx, .sq, .vx, .co]
/-- A queue of a context. -/
def Ctx.queue (c : Ctx) (q : EngineQ) : EQueue := c.queues[q.idx.val]
/-- A queue replaced. -/
def Ctx.setQueue (c : Ctx) (q : EngineQ) (x : EQueue) : Ctx := { c with queues := c.queues.set q.idx.val x }
/-- The entries of a queue replaced. -/
def Ctx.setEntries (c : Ctx) (q : EngineQ) (l : List Entry) : Ctx := c.setQueue q { c.queue q with entries := l }
/-- No entry is in the queue. -/
def Ctx.qEmpty (c : Ctx) (q : EngineQ) : Bool := (c.queue q).entries.isEmpty
/-- The queue's 16 entries are all taken. -/
def Ctx.qFull (c : Ctx) (q : EngineQ) : Bool := decide (16 ≤ (c.queue q).entries.length)
/-- Every queue of a mask (bit 0 CI to bit 4 CO) is empty. -/
def Ctx.maskEmpty (c : Ctx) (m : BitVec 5) : Bool := allQueues.all (fun q => !m.getLsbD q.idx.val || c.qEmpty q)

/-- The FIFO an entry of `q` pops for WP: from its previous queue (R28, R30); numbers of R368. -/
def fifoWP (q : EngineQ) : Fin 10 := match q with | .mx => 0 | .sq => 1 | .vx => 2 | .co => 3 | .ci => 4
/-- The FIFO it pops for WN: from its next queue. -/
def fifoWN (q : EngineQ) : Fin 10 := match q with | .ci => 5 | .mx => 6 | .sq => 7 | .vx => 8 | .co => 9
/-- The FIFO it pushes for SP: to its previous queue. -/
def fifoSP (q : EngineQ) : Fin 10 := match q with | .mx => 5 | .sq => 6 | .vx => 7 | .co => 8 | .ci => 9
/-- The FIFO it pushes for SN: to its next queue. -/
def fifoSN (q : EngineQ) : Fin 10 := match q with | .ci => 0 | .mx => 1 | .sq => 2 | .vx => 3 | .co => 4

/-- Tokens a FIFO holds. -/
def Ctx.tok (c : Ctx) (f : Fin 10) : Nat := c.tokens[f.val]
/-- The count of a FIFO set. -/
def Ctx.setTok (c : Ctx) (f : Fin 10) (n : Nat) : Ctx := { c with tokens := c.tokens.set f.val n }

/-- WP, WN, SP, SN of a DEP field (R144). -/
def depWP (d : Dep) : Bool := d.getLsbD 3
def depWN (d : Dep) : Bool := d.getLsbD 2
def depSP (d : Dep) : Bool := d.getLsbD 1
def depSN (d : Dep) : Bool := d.getLsbD 0

/-- The queue a major opcode is dispatched to (R151). -/
def queueOfMaj (maj : Nat) : Option EngineQ :=
  if 0x10 ≤ maj ∧ maj ≤ 0x15 then some .ci
  else if 0x18 ≤ maj ∧ maj ≤ 0x1E then some .mx
  else if 0x20 ≤ maj ∧ maj ≤ 0x26 then some .sq
  else if (0x28 ≤ maj ∧ maj ≤ 0x33) ∨ maj = 0x38 ∨ maj = 0x39 then some .vx
  else if 0x34 ≤ maj ∧ maj ≤ 0x37 then some .co
  else none

/-! ## Trap codes (R372) -/

/-- The 8-bit code of a trap. -/
def TrapCode.code : TrapCode → BitVec 8
  | .illegalInstruction => 0x01 | .illegalRegister => 0x02 | .illegalOperand => 0x03 | .privileged => 0x04
  | .softwareTrap => 0x05 | .addressInvalid => 0x08 | .misaligned => 0x09 | .windowBounds => 0x0A
  | .foreignScratch => 0x0B | .accessUnsupported => 0x0C | .pageFault => 0x0D | .pageDenied => 0x0E
  | .shapeInvalid => 0x10 | .shapeBounds => 0x11 | .shapeMismatch => 0x12
  | .unloadedOpcode => 0x14 | .graphInvalid => 0x15 | .poisonConsumed => 0x18
  | .arrivalOverrun => 0x1C | .arrivalIdle => 0x1D | .ringInvalid => 0x1E | .ringUnderflow => 0x1F
  | .queueStall => 0x20 | .barrierMismatch => 0x21 | .versionInvalid => 0x22
  | .arithInvalid => 0x28 | .arithDivzero => 0x29 | .arithOverflow => 0x2A | .arithUnderflow => 0x2B
  | .arithSaturate => 0x2C | .opidMismatch => 0x30

/-- The designated traps (R44); an arithmetic trap is raised only when the kernel has enabled it. -/
def TrapCode.designated : TrapCode → Bool
  | .unloadedOpcode | .foreignScratch | .arrivalOverrun
  | .arithInvalid | .arithDivzero | .arithOverflow | .arithUnderflow | .arithSaturate => true
  | _ => false

/-- A trap the FE reports precisely: QUEUE 0, SEQ 0 (R159). -/
def feTrap (c : TrapCode) (v : Word) : Trap := { code := c, value := v, queue := 0, seq := 0 }

/-- The instruction's word as a trap value (R372). -/
def wordOf (i : Instr) : Word := zext64 ((encode i).getD 0)

/-- Results of FE work: a new state, or a trap together with the state at which it is raised. -/
abbrev Res (α : Type) := Except (Trap × State) α

/-- A trap at a state. -/
def trapAt {α : Type} (s : State) (c : TrapCode) (v : Word) : Res α := .error (feTrap c v, s)
/-- ILLEGAL_INSTRUCTION with the word (R159, R372). -/
def illegal {α : Type} (s : State) (i : Instr) : Res α := trapAt s .illegalInstruction (wordOf i)
/-- Go on when the condition holds, else trap. -/
def need (s : State) (b : Bool) (c : TrapCode) (v : Word) : Res Unit := if b then .ok () else trapAt s c v

/-- A source register of an FE instruction: a poisoned one traps POISON_CONSUMED (R175). -/
def src (s : State) (r : Reg5) : Res Word :=
  if (s.ctx s.cur).regPoison r then trapAt s .poisonConsumed 0 else .ok ((s.ctx s.cur).reg r)

/-! ## Failures kept for FENCE (R129) -/

/-- One more failed operation, with its bits of the status word. -/
def FenceFail.add (f : FenceFail) (b : BitVec 4) : FenceFail := { bits := f.bits ||| b, count := Nat.min 255 (f.count + 1) }
/-- More bits of an operation that is counted already. -/
def Ctx.failMore (c : Ctx) (b : BitVec 4) : Ctx := { c with fails := { c.fails with bits := c.fails.bits ||| b } }
/-- A failed operation of a context; no bits is no failure. -/
def Ctx.fail (c : Ctx) (b : BitVec 4) : Ctx := if b = 0 then c else { c with fails := c.fails.add b }
/-- The POISON, REFUSED, LINK and MCAST bits. -/
def failLINK : BitVec 4 := 1
def failREFUSED : BitVec 4 := 2
def failPOISON : BitVec 4 := 4
def failMCAST : BitVec 4 := 8

/-! ## Issue (R38, R411) -/

/-- One issue slot is spent. -/
def issued (k : CtxId) (s : State) : State :=
  { s.modCtx k (fun c => { c with
      issues := c.issues + 1, lastIssue := s.clock + 1,
      issueLeft := if c.cbud = 0xFFFFFFFF then c.issueLeft else c.issueLeft - 1 }) with clock := s.clock + 1 }

/-- The address of an instruction's own word and of the one after it: `off` is 4 behind a LIMM (R150). -/
def Ctx.advance (c : Ctx) (off : Nat) : Ctx := { c with pc := c.pc + BitVec.ofNat 64 (off + 4) }

/-! ## Copies' writes still to be performed (R127, R131) -/

/-- The post writes a byte of a range. -/
def Post.meets (p : Post) (sp : Space) (a n : Nat) : Bool := writesMeet p.writes sp a n

/-- The engine queue whose entry writes. -/
def Post.author (p : Post) : Knower := { who := .eng p.ctx p.q, since := p.ord }

/-- A copy's write is performed; whoever knew of it knows it now as what overwrote the words held elsewhere. -/
def landPost (s : State) (p : Post) : State :=
  p.known.foldl (fun s w => learnAt s w [p.author]) (putWritesBy s p.author p.writes)

/-- A write comes after another of the same queue that its entry, or an earlier one, makes (R131). -/
def Post.behind (p x : Post) : Bool := p.ctx == x.ctx && p.q == x.q && decide (x.ord ≤ p.ord)

/-- The copies' writes of a choice are performed, oldest first, each behind those of its queue (R131). -/
def landPosts (s : State) (pick : Post → Bool) : State :=
  let due := s.posts.filter pick
  let now := fun (p : Post) => pick p || due.any (·.behind p)
  (s.posts.filter now).foldl landPost { s with posts := s.posts.filter (fun p => !now p) }

/-- A context's own copies' writes to bytes of a range are performed before the context accesses them (R119). -/
def landMeeting (s : State) (k : CtxId) (sp : Space) (a n : Nat) : State := landPosts s (fun p => p.ctx == k && p.meets sp a n)

/-- Turn LAND: one of the copies' writes is performed, unless an earlier entry of its queue, or an earlier write of its context to one
of its bytes, is still to be (R119, R131). -/
def landOne (s : State) (i : Nat) : State :=
  match s.posts[i]? with
  | none => s
  | some p =>
    if (s.posts.take i).any (fun x => x.ctx == p.ctx && ((x.q == p.q && decide (x.ord < p.ord)) || p.writes.any (fun w => x.meets w.1 w.2.1 1)))
    then s else landPost { s with posts := s.posts.eraseIdx i } p

/-! ## The FE's accesses still to be performed (R119, R120, R33) -/

/-- The byte of the newest buffered store to an address, if any. -/
def bufByte (sp : Space) (a : Nat) : List Pending → Option PByte
  | [] => none
  | p :: r =>
    match bufByte sp a r with
    | some b => some b
    | none =>
      if p.space = sp ∧ p.addr ≤ a ∧ a < p.addr + p.bytes.length then
        some { val := p.bytes.getD (a - p.addr) 0, poison := p.poison }
      else none

/-- One byte as a context's FE loads see it. -/
def viewByte (s : State) (k : CtxId) (sp : Space) (a : Nat) : PByte :=
  match bufByte sp a (s.ctx k).sbuf with
  | some b => b
  | none => (earlyByte k sp a s.early).getD (dieByte s (dieOf (coreOf k)) sp a)

/-- `n` bytes as a context's FE loads see them. -/
def viewBytes (s : State) (k : CtxId) (sp : Space) (a : Nat) : Nat → List PByte
  | 0 => []
  | n + 1 => viewByte s k sp a :: viewBytes s k sp (a + 1) n

/-- A loaded value extended to 64 bits (R184). -/
def extend (signed : Bool) (size v : Nat) : Word :=
  match size with
  | 1 => if signed then sext64 (BitVec.ofNat 8 v) else BitVec.ofNat 64 v
  | 2 => if signed then sext64 (BitVec.ofNat 16 v) else BitVec.ofNat 64 v
  | 4 => if signed then sext64 (BitVec.ofNat 32 v) else BitVec.ofNat 64 v
  | _ => BitVec.ofNat 64 v

/-- What has overwritten a word of device memory as a die's units hold it. -/
def heldPast (s : State) (d : DieId) (sp : Space) (w : Nat) : Option Past :=
  if sp = .dmem then (heldWord (some d) w s.stale).bind (·.gone) else none

/-- An access of the context reaches a word and is still to be performed, or a write of its copies there is. -/
def unsettled (s : State) (k : CtxId) (sp : Space) (w : Nat) : Bool :=
  (s.ctx k).sbuf.any (fun p => rangesMeet p.space p.addr p.bytes.length sp w 8)
    || (s.ctx k).lateLoads.any (fun l => rangesMeet l.space l.addr l.size sp w 8) || s.posts.any (fun p => p.ctx == k && p.meets sp w 8)

/-- Turn READ AHEAD: the FE of a running context takes in an aligned word as its die sees it, behind which no access of its own is
still to be performed (R119, R120). -/
def readAhead (s : State) (k : CtxId) (sp : Space) (a : Nat) : State :=
  let w := a / 8 * 8
  let runs := match (s.ctx k).run with | .running | .waiting _ => true | _ => false
  if !runs || !aheadSpace k sp || unsettled s k sp w || s.early.any (·.holds k sp w) then s
  else
    let d := dieOf (coreOf k)
    { s with early := s.early ++
      [{ ctx := k, space := sp, addr := w, bytes := (List.range 8).map (fun i => dieByte s d sp (w + i)), gone := heldPast s d sp w }] }

/-- A load writes its register; poisoned bytes poison it and are kept for FENCE (R126). -/
def loadResult (c : Ctx) (d : Reg5) (signed : Bool) (size : Nat) (b : List PByte) : Ctx :=
  let p := anyPoison b
  (c.setRegP d (extend signed size (bytesNat b)) p).fail (if p then failPOISON else 0)

/-- A load that was still to be performed takes its value. -/
def performLoad (k : CtxId) (s : State) (l : LateLoad) : State :=
  let s1 := landMeeting s k l.space l.addr l.size
  s1.modCtx k (fun c => loadResult c l.d l.signed l.size (viewBytes s1 k l.space l.addr l.size))

/-- The loads of a choice that a context has still to perform are performed, oldest first. -/
def performLoads (s : State) (k : CtxId) (pick : LateLoad → Bool) : State :=
  ((s.ctx k).lateLoads.filter pick).foldl (performLoad k)
    (s.modCtx k (fun c => { c with lateLoads := c.lateLoads.filter (fun l => !pick l) }))

/-- A load still to be performed reads a byte of a range. -/
def LateLoad.meets (l : LateLoad) (sp : Space) (a n : Nat) : Bool := rangesMeet l.space l.addr l.size sp a n

/-- A buffered store is performed; a release store makes its release with it (R121). The host sees what precedes one it receives. -/
def performPending (k : CtxId) (s : State) (p : Pending) : State :=
  let n := p.bytes.length
  let me : Knower := { who := .fe k, since := p.stamp }
  let s1 := (landMeeting s k p.space p.addr n).writeBy me p.space p.addr (pbytes p.poison p.bytes)
  match p.rel with
  | none => s1
  | some c =>
    if p.space = .host then learn s1 .outside [me] else s1.addRel { at_ := .word p.space p.addr n, by_ := me, scope := c, live := true }

/-- All accesses that a context has issued to memory of the device are performed: its loads, then its stores, oldest first. -/
def flush (s : State) (k : CtxId) : State :=
  let s1 := performLoads s k (fun _ => true)
  ((s1.ctx k).sbuf.foldl (performPending k) s1).modCtx k (fun c => { c with sbuf := [] })

/-- The pending store reaches a byte of the range. -/
def Pending.meets (p : Pending) (sp : Space) (a n : Nat) : Bool := rangesMeet p.space p.addr p.bytes.length sp a n

/-- The buffered stores up to the last one that reaches a range, and the rest. -/
def splitMeeting (sp : Space) (a n : Nat) : List Pending → List Pending × List Pending
  | [] => ([], [])
  | p :: r =>
    let (x, y) := splitMeeting sp a n r
    if x.isEmpty && !p.meets sp a n then ([], p :: r) else (p :: x, y)

/-- The loads and stores that reach a range are performed, a store with every older one. -/
def flushRange (s : State) (k : CtxId) (sp : Space) (a n : Nat) : State :=
  let s1 := performLoads s k (fun l => l.meets sp a n)
  let (x, y) := splitMeeting sp a n (s1.ctx k).sbuf
  (x.foldl (performPending k) s1).modCtx k (fun c => { c with sbuf := y })

/-- What an FE has issued up to a moment is performed (R121): an acquire that meets its release comes after it. -/
def performUpTo (s : State) (x : Knower) : State :=
  match x.who with
  | .fe k =>
    let s1 := performLoads s k (fun l => decide (l.stamp ≤ x.since))
    let old := (s1.ctx k).sbuf.filter (fun p => decide (p.stamp ≤ x.since))
    (old.foldl (performPending k) s1).modCtx k (fun c => { c with sbuf := c.sbuf.filter (fun p => !decide (p.stamp ≤ x.since)) })
  | _ => s

/-- An acquire of a context at a scope from the releases it meets: what precedes each of them is performed (R120, R121). -/
def acquireFrom (s : State) (k : CtxId) (scope : Nat) (rs : List Rel) : State :=
  acquire (rs.foldl (fun s r => performUpTo s r.by_) s) k scope (rs.map (·.by_))

/-- An acquire of a context at a scope by an access to a range of bytes. -/
def acquireAt (s : State) (k : CtxId) (scope : Nat) (sp : Space) (a n : Nat) : State :=
  acquireFrom s k scope ((s.heardAt (some (dieOf (coreOf k))) sp a n).filter (·.binds k scope))

/-- A unit of the device, or the host, acquires from the releases it meets whose scope names it. -/
def hearAt (s : State) (who : Agent) (scope : Nat) (rs : List Rel) : State :=
  let l := rs.filter (fun r => decide (scope ≤ r.scope))
  learn (l.foldl (fun s r => performUpTo s r.by_) s) who (l.map (·.by_))

/-! ## Drain and park (R229, R374) -/

/-- An entry of CI or CO stops: a parked record keeps its HELD (R379). -/
def Entry.park (h : BitVec 2) (e : Entry) : Entry :=
  if e.parked then e else { e with parked := true, held := h, onEngine := false }

/-- The copy queues' entries are parked. -/
def Ctx.parkCopies (c : Ctx) (h : BitVec 2) : Ctx :=
  (c.setEntries .ci ((c.queue .ci).entries.map (Entry.park h))).setEntries .co ((c.queue .co).entries.map (Entry.park h))

/-- Nothing of a started copy of `total` bytes is left to move: its bytes are written, or the delivery has ended. A claimed cstrm
has published its slot (R140). -/
def Entry.over (e : Entry) (total : Nat) : Bool :=
  if e.claim.isSome then e.slot.isNone else e.dead || e.drop || decide (total ≤ 256 * e.goff)

/-- The head of a copy queue holds the drain up (R229): a claimed cstrm finishes its slot, and a copy whose bytes are all written,
or whose delivery has ended, completes. -/
def Ctx.copyHolds (c : Ctx) (q : EngineQ) : Bool :=
  match (c.queue q).entries.head? with
  | none => false
  | some e =>
    match e.op with
    | .copy op => e.started && !e.done && !e.parked && (e.claim.isSome || e.over op.total)
    | _ => false

/-- The drain has ended: issued loads and stores are complete, MX, SQ and VX are empty, the G-instructions sent are performed, and
CI and CO can stop (R176, R374). -/
def Ctx.drainedOut (c : Ctx) : Bool :=
  c.hostLoads.isEmpty && c.posted.isEmpty && c.qEmpty .mx && c.qEmpty .sq && c.qEmpty .vx && c.gops.isEmpty
    && !c.copyHolds .ci && !c.copyHolds .co && !c.csr.hold

/-- A trap goes to the kernel's own handler (R44, R360). -/
def Ctx.toUser (c : Ctx) (t : Trap) : Bool :=
  t.code.designated && !c.csr.sact && c.csr.utvecEn && !c.csr.utvecAct

/-- A trap escalates to firmware (R360, R363). -/
def Ctx.escalates (c : Ctx) (t : Trap) : Bool := c.csr.sact || decide (t.code = .opidMismatch)

/-- HELD of the records a drain parks (R379). -/
def Ctx.heldBy (c : Ctx) (w : DrainFor) : BitVec 2 :=
  match w with
  | .trap t => if c.escalates t then 0 else if c.toUser t then 1 else 2
  | .escal _ => 0
  | .preempt => 0

/-- drain_and_park() ends: the FE's issued loads and stores and the copies' granules are performed, CI and CO park (R229, R374). -/
def endDrain (s : State) (k : CtxId) (w : DrainFor) : State :=
  (landPosts (flush s k) (fun p => p.ctx == k)).modCtx k (fun c => { c.parkCopies (c.heldBy w) with run := .drained w })

/-- A handler's address: BASE x 4, sign-extended from bit 47 (R47, R365). -/
def handlerPc (base : BitVec 62) : Word := sext64 (fld (base ++ 0#2 : BitVec 64) 0 48)

/-- Delivery to the kernel's handler (R46). -/
def Ctx.deliverUser (c : Ctx) (t : Trap) : Ctx :=
  { c with
    run := .running, pc := handlerPc c.csr.utvecBase
    csr := { c.csr with
      uepc := fld c.pc 2 62, ucauseSeq := t.seq, ucauseQueue := t.queue, ucauseCode := t.code.code, utval := t.value,
      utvecAct := true } }

/-- Delivery to the supervisor handler (R361). -/
def Ctx.deliverSuper (c : Ctx) (t : Trap) : Ctx :=
  { c with
    run := .running, pc := handlerPc c.csr.stvecBase
    csr := { c.csr with
      sepc := fld c.pc 2 62, scauseSeq := t.seq, scauseQueue := t.queue, scauseCode := t.code.code, stval := t.value,
      sact := true } }

/-- An escalation: the context stops and its die's firmware receives the record of R404. -/
def escalate (s : State) (k : CtxId) (w : DrainFor) : State :=
  let c := s.ctx k
  let code : Option TrapCode := match w with | .trap t => some t.code | _ => none
  let value : Word := match w with | .trap t => t.value | .escal v => v | .preempt => 0
  let r : EscRec :=
    { ctx := k, code := (code.map TrapCode.code).getD 0, smode := c.csr.sact, value := value, pc := c.pc, ts := s.tsc }
  (s.setCtx k { c with run := .escalated code }).modDie (dieOf (coreOf k))
    (fun d => { d with escRing := d.escRing ++ [r] })

/-- What follows a drain that has ended (R46, R361, R363). A pre-emption's drain waits for its image (R403). -/
def afterDrain (s : State) (k : CtxId) (w : DrainFor) : State :=
  match w with
  | .trap t =>
    if (s.ctx k).escalates t then escalate s k w
    else if (s.ctx k).toUser t then s.modCtx k (·.deliverUser t)
    else s.modCtx k (·.deliverSuper t)
  | .escal _ => escalate s k w
  | .preempt => s

/-- The FE stops and the queues drain (R374). -/
def Ctx.drainFor (c : Ctx) (w : DrainFor) : Ctx := { c with run := .draining w, drainIdle := 0 }

/-- A drain that an instruction of the context itself begins: when nothing is left to drain, the delivery follows at once. -/
def beginDrain (s : State) (k : CtxId) (w : DrainFor) : State :=
  if (s.ctx k).drainedOut then afterDrain (endDrain s k w) k w else s.modCtx k (·.drainFor w)

/-- TAKING AN EXCEPTION: an instruction of a context raises a trap (R44, R374). -/
def raise (s : State) (k : CtxId) (t : Trap) : State := beginDrain s k (.trap t)

/-- TAKING AN EXCEPTION that arises while the context waits or runs on: its drain begins, and DRAIN_AND_PARK ends it once the
context is not held (R39, R374). -/
def raiseLater (s : State) (k : CtxId) (t : Trap) : State := s.modCtx k (·.drainFor (.trap t))

/-- What an FE instruction answers: its result, or its trap taken. It has issued either way. -/
def finish (s : State) (r : Res State) : Out :=
  match r with
  | .ok t => .next (issued s.cur t)
  | .error (t, u) => .next (raise (issued s.cur u) s.cur t)

/-- The records of a queue resume together when its head's HELD names the event (R379). -/
def Ctx.resumeQueue (c : Ctx) (h : BitVec 2) (q : EngineQ) : Ctx :=
  match (c.queue q).entries with
  | [] => c
  | e :: r =>
    if e.parked && e.held == h then c.setEntries q ((e :: r).map (fun x => { x with parked := false })) else c

/-- COPY_RESUME of both copy queues (R230). -/
def Ctx.resumeCopies (c : Ctx) (h : BitVec 2) : Ctx := (c.resumeQueue h .ci).resumeQueue h .co

/-- Return from the user handler (R48). UEPC is not looked at: an address that cannot be fetched from traps at the fetch that follows,
after the return has taken effect (R182; DESIGN CHOICE, log 108). -/
def Ctx.returnUser (c : Ctx) : Ctx :=
  { c.resumeCopies 1 with pc := c.csr.uepc ++ 0#2, csr := { c.csr with utvecAct := false } }

/-- Return from the supervisor handler (R362); SEPC likewise (DESIGN CHOICE, log 108). -/
def Ctx.returnSuper (c : Ctx) : Ctx :=
  { c.resumeCopies 2 with pc := c.csr.sepc ++ 0#2, csr := { c.csr with sact := false } }

/-! ## Engine reports (R45, R67, R373, R468) -/

/-- A report that cannot be raised yet waits behind those before it. -/
def Ctx.holdReport (c : Ctx) (t : Trap) : Ctx := { c with heldReports := c.heldReports ++ [t] }

/-- One raised in S mode waits to escalate (R360). -/
def Ctx.keepReport (c : Ctx) (t : Trap) : Ctx :=
  if c.csr.sact then { c with heldEscs := c.heldEscs ++ [t] } else c.holdReport t

/-- A report under a pre-emption: the first one is held (R468). -/
def Ctx.preemptReport (c : Ctx) (t : Trap) : Ctx := if c.preHeld then c else { c.holdReport t with preHeld := true }

/-- A report during the drain of trap `u` (R373): a precise FE trap gives way, for its instruction raises it afresh; an escalation
goes before a delivery, and what it displaces waits; any other report waits its turn. -/
def Ctx.reportOver (c : Ctx) (u t : Trap) : Ctx :=
  if u.queue = 0 ∧ u.code ≠ .queueStall then { c with run := .draining (.trap t) }
  else if c.escalates t && !c.escalates u then { c with run := .draining (.trap t), heldReports := u :: c.heldReports }
  else c.keepReport t

/-- A barrier mismatch that a report has displaced is owed again: the member traps as it executes the barrier (R37, R373). -/
def oweMismatch (s : State) (k : CtxId) : State :=
  match (s.ctx k).task with
  | none => s
  | some n =>
    match s.taskAt n with
    | none => s
    | some x => s.setTask n { x with mixed := x.mixed ++ [k] }

/-- An engine's report (R45, R228) in each state of the context's FE: a drain begins, which DRAIN_AND_PARK ends; a context that
already takes a trap, or is not released yet, raises it later. -/
def report (s : State) (k : CtxId) (t : Trap) : State :=
  match (s.ctx k).run with
  | .running | .waiting _ => raiseLater s k t
  | .draining (.trap u) =>
    (if u.code = .barrierMismatch then oweMismatch s k else s).modCtx k (·.reportOver u t)
  | .draining .preempt => s.modCtx k (·.preemptReport t)
  | .draining (.escal _) | .restored => s.modCtx k (·.keepReport t)
  | _ => s

/-- The oldest report that waits is raised as the context runs on: one that escalates in S mode, another outside the supervisor handler
(R360, R373, R383). -/
def raiseHeld (s : State) (k : CtxId) : State :=
  match (s.ctx k).run, (s.ctx k).csr.sact, (s.ctx k).heldEscs, (s.ctx k).heldReports with
  | .running, true, t :: r, _ => raiseLater (s.modCtx k (fun c => { c with heldEscs := r })) k t
  | .running, false, _, t :: r => raiseLater (s.modCtx k (fun c => { c with heldReports := r })) k t
  | _, _, _, _ => s

end Sys2Proof.Machine
end

