-- ==== Sys2Proof/Machine/Integer.lean ====
section
/-!
DEFINITION. The integer, multiply and divide, compare and predicate, address-arithmetic and shape-record instructions of the FE
(R177 to R180, R196 to R199, R204). `off` is 4 for an instruction behind a LIMM, else 0 (R150); `i` is the instruction whose word
an ILLEGAL_INSTRUCTION reports.
-/
namespace Sys2Proof.Machine

/-! ## Operations on values -/

/-- A shift amount: b[5:0] (R177). -/
def shAmt (b : Word) : Nat := fldN b 0 6
/-- sext of the low word (R177). -/
def sextW (x : Word) : Word := sext64 (fld x 0 32)
/-- andn. -/
def andnW (a b : Word) : Word := a &&& ~~~b
def sllW (a b : Word) : Word := a <<< shAmt b
def srlW (a b : Word) : Word := a >>> shAmt b
def sraW (a b : Word) : Word := a.sshiftRight (shAmt b)
def addwW (a b : Word) : Word := sextW (a + b)
def subwW (a b : Word) : Word := sextW (a - b)
def minW (a b : Word) : Word := if a.slt b then a else b
def maxW (a b : Word) : Word := if a.slt b then b else a
def minuW (a b : Word) : Word := if a.ult b then a else b
def maxuW (a b : Word) : Word := if a.ult b then b else a
/-- Leading zero bits, 0 to 64. -/
def clzW (a : Word) : Word := if a = 0 then 64 else BitVec.ofNat 64 (63 - Nat.log2 a.toNat)
/-- Trailing zero bits among the `n` bits from bit `b` on. -/
def ctzFrom (a : Word) : Nat → Nat → Nat
  | 0, b => b
  | n + 1, b => if a.getLsbD b then b else ctzFrom a n (b + 1)
def ctzW (a : Word) : Word := BitVec.ofNat 64 (ctzFrom a 64 0)
/-- One bits among the `n` low bits. -/
def popcLow (a : Word) : Nat → Nat
  | 0 => 0
  | n + 1 => (if a.getLsbD n then 1 else 0) + popcLow a n
def popcW (a : Word) : Word := BitVec.ofNat 64 (popcLow a 64)

/-- The upper half of a 128-bit product (R179). -/
def high128 (a b : BitVec 128) : Word := fld (a * b) 64 64
def mulW (a b : Word) : Word := a * b
def mulhW (a b : Word) : Word := high128 (a.signExtend 128) (b.signExtend 128)
def mulhuW (a b : Word) : Word := high128 (a.setWidth 128) (b.setWidth 128)
def mulhsuW (a b : Word) : Word := high128 (a.signExtend 128) (b.setWidth 128)
/-- Quotients and remainders with the edge cases of R179. -/
def divS {n : Nat} (a b : BitVec n) : BitVec n := if b = 0 then BitVec.allOnes n else a.sdiv b
def divU {n : Nat} (a b : BitVec n) : BitVec n := if b = 0 then BitVec.allOnes n else a.udiv b
def remS {n : Nat} (a b : BitVec n) : BitVec n := if b = 0 then a else a.srem b
def remU {n : Nat} (a b : BitVec n) : BitVec n := if b = 0 then a else a.umod b
def mulwW (a b : Word) : Word := sextW (a * b)
def divwW (a b : Word) : Word := sext64 (divS (fld a 0 32) (fld b 0 32))
def remwW (a b : Word) : Word := sext64 (remS (fld a 0 32) (fld b 0 32))

/-- The conditions of cond4 (R152); none for a reserved code. -/
def condHolds (c : BitVec 4) (a b : Word) : Option Bool :=
  match c.toNat with
  | 0 => some (a == b) | 1 => some (a != b)
  | 2 => some (a.slt b) | 3 => some !(a.slt b)
  | 4 => some (a.ult b) | 5 => some !(a.ult b)
  | 6 => some (b.slt a) | 7 => some !(b.slt a)
  | 8 => some (b.ult a) | 9 => some !(b.ult a)
  | _ => none

/-! ## Shared forms -/

/-- A result to a register, and on to the next instruction. -/
def putReg (s : State) (off : Nat) (d : Reg5) (v : Word) : State := s.modCtx s.cur (fun c => (c.setReg d v).advance off)
/-- A result to a predicate, and on to the next instruction. -/
def putPred (s : State) (off : Nat) (p : Reg3) (v : Bool) : State := s.modCtx s.cur (fun c => (c.setPred p v).advance off)

/-- d := op a b. -/
def aluRR (op : Word → Word → Word) (d a b : Reg5) (s : State) : Out :=
  finish s (do let x ← src s a; let y ← src s b; .ok (putReg s 0 d (op x y)))
/-- d := op a. -/
def aluR (op : Word → Word) (d a : Reg5) (s : State) : Out :=
  finish s (do let x ← src s a; .ok (putReg s 0 d (op x)))
/-- d := op a imm (R178). -/
def aluRI (op : Word → Word → Word) (off : Nat) (d a : Reg5) (imm : Word) (s : State) : Out :=
  finish s (do let x ← src s a; .ok (putReg s off d (op x imm)))
/-- A shift by an immediate, which lies in 0 to 63 (R152, R178). -/
def shiftRI (i : Instr) (op : Word → Word → Word) (off : Nat) (d a : Reg5) (imm : Word) (s : State) : Out :=
  if imm.toNat ≤ 63 then aluRI op off d a imm s else finish s (illegal s i)

/-- addi to addiw by fn3 with the immediate formed (R178). -/
def immOp (i : Instr) (fn3 : Nat) (off : Nat) (d a : Reg5) (imm : Word) (s : State) : Out :=
  match fn3 with
  | 0 => aluRI (· + ·) off d a imm s
  | 1 => aluRI (· &&& ·) off d a imm s
  | 2 => aluRI (· ||| ·) off d a imm s
  | 3 => aluRI (· ^^^ ·) off d a imm s
  | 4 => shiftRI i sllW off d a imm s
  | 5 => shiftRI i srlW off d a imm s
  | 6 => shiftRI i sraW off d a imm s
  | _ => aluRI addwW off d a imm s

/-- cmp and cmpi with their second value (R180). -/
def compare (i : Instr) (off : Nat) (p : Reg3) (c : BitVec 4) (a : Reg5) (y : Res Word) (s : State) : Out :=
  if c.toNat ≤ 9 then
    finish s (do let x ← src s a; let z ← y; .ok (putPred s off p ((condHolds c x z).getD false)))
  else finish s (illegal s i)

/-- cmpi with its immediate formed (R180). -/
def compareImm (i : Instr) (off : Nat) (p : Reg3) (c : BitVec 4) (a : Reg5) (imm : Word) (s : State) : Out :=
  compare i off p c a (.ok imm) s

/-- A predicate operation (R180). -/
def predOp (p : Reg3) (v : Ctx → Bool) (s : State) : Out := finish s (.ok (putPred s 0 p (v (s.ctx s.cur))))

/-! ## Integer, register (R177) -/

def execAdd (d a b : Reg5) (s : State) : Out := aluRR (· + ·) d a b s
def execSub (d a b : Reg5) (s : State) : Out := aluRR (· - ·) d a b s
def execAnd (d a b : Reg5) (s : State) : Out := aluRR (· &&& ·) d a b s
def execOr (d a b : Reg5) (s : State) : Out := aluRR (· ||| ·) d a b s
def execXor (d a b : Reg5) (s : State) : Out := aluRR (· ^^^ ·) d a b s
def execAndn (d a b : Reg5) (s : State) : Out := aluRR andnW d a b s
def execSll (d a b : Reg5) (s : State) : Out := aluRR sllW d a b s
def execSrl (d a b : Reg5) (s : State) : Out := aluRR srlW d a b s
def execSra (d a b : Reg5) (s : State) : Out := aluRR sraW d a b s
def execAddw (d a b : Reg5) (s : State) : Out := aluRR addwW d a b s
def execSubw (d a b : Reg5) (s : State) : Out := aluRR subwW d a b s
def execMin (d a b : Reg5) (s : State) : Out := aluRR minW d a b s
def execMax (d a b : Reg5) (s : State) : Out := aluRR maxW d a b s
def execMinu (d a b : Reg5) (s : State) : Out := aluRR minuW d a b s
def execMaxu (d a b : Reg5) (s : State) : Out := aluRR maxuW d a b s
def execClz (d a : Reg5) (s : State) : Out := aluR clzW d a s
def execCtz (d a : Reg5) (s : State) : Out := aluR ctzW d a s
def execPopc (d a : Reg5) (s : State) : Out := aluR popcW d a s

/-! ## Integer, immediate (R178) -/

def execAddi (d a : Reg5) (i : BitVec 9) (s : State) : Out := immOp (.addi d a i) 0 0 d a (sext64 i) s
def execAndi (d a : Reg5) (i : BitVec 9) (s : State) : Out := immOp (.andi d a i) 1 0 d a (sext64 i) s
def execOri (d a : Reg5) (i : BitVec 9) (s : State) : Out := immOp (.ori d a i) 2 0 d a (sext64 i) s
def execXori (d a : Reg5) (i : BitVec 9) (s : State) : Out := immOp (.xori d a i) 3 0 d a (sext64 i) s
def execSlli (d a : Reg5) (i : BitVec 9) (s : State) : Out := immOp (.slli d a i) 4 0 d a (sext64 i) s
def execSrli (d a : Reg5) (i : BitVec 9) (s : State) : Out := immOp (.srli d a i) 5 0 d a (sext64 i) s
def execSrai (d a : Reg5) (i : BitVec 9) (s : State) : Out := immOp (.srai d a i) 6 0 d a (sext64 i) s
def execAddiw (d a : Reg5) (i : BitVec 9) (s : State) : Out := immOp (.addiw d a i) 7 0 d a (sext64 i) s

/-! ## Multiply and divide (R179) -/

def execMul (d a b : Reg5) (s : State) : Out := aluRR mulW d a b s
def execMulh (d a b : Reg5) (s : State) : Out := aluRR mulhW d a b s
def execMulhu (d a b : Reg5) (s : State) : Out := aluRR mulhuW d a b s
def execMulhsu (d a b : Reg5) (s : State) : Out := aluRR mulhsuW d a b s
def execDiv (d a b : Reg5) (s : State) : Out := aluRR divS d a b s
def execDivu (d a b : Reg5) (s : State) : Out := aluRR divU d a b s
def execRem (d a b : Reg5) (s : State) : Out := aluRR remS d a b s
def execRemu (d a b : Reg5) (s : State) : Out := aluRR remU d a b s
def execMulw (d a b : Reg5) (s : State) : Out := aluRR mulwW d a b s
def execDivw (d a b : Reg5) (s : State) : Out := aluRR divwW d a b s
def execRemw (d a b : Reg5) (s : State) : Out := aluRR remwW d a b s

/-! ## Compare and predicate (R180) -/

def execCmp (p : Reg3) (a b : Reg5) (c : BitVec 4) (s : State) : Out := compare (.cmp p a b c) 0 p c a (src s b) s
def execCmpi (p : Reg3) (a : Reg5) (i : BitVec 5) (c : BitVec 4) (s : State) : Out :=
  compareImm (.cmpi p a i c) 0 p c a (sext64 i) s
def execPand (p a b : Reg3) (s : State) : Out := predOp p (fun c => c.pred a && c.pred b) s
def execPor (p a b : Reg3) (s : State) : Out := predOp p (fun c => c.pred a || c.pred b) s
def execPxor (p a b : Reg3) (s : State) : Out := predOp p (fun c => c.pred a != c.pred b) s
def execPnot (p a : Reg3) (s : State) : Out := predOp p (fun c => !c.pred a) s

/-! ## Shape records (R204) -/

/-- A shape record (R92). -/
def Ctx.shape (c : Ctx) (h : Reg4) : ShapeRec := c.shapes[h.toNat]'(by omega)
/-- shape: record h := b then a, unchecked. -/
def execShape (h : Reg4) (a b : Reg5) (s : State) : Out :=
  finish s (do
    let x ← src s a
    let y ← src s b
    .ok (s.modCtx s.cur (fun c => { c with shapes := c.shapes.set h.toNat (y ++ x) (by omega) }.advance 0)))
def execShrdLo (d : Reg5) (h : Reg4) (s : State) : Out :=
  finish s (.ok (putReg s 0 d (fld ((s.ctx s.cur).shape h) 0 64)))
def execShrdHi (d : Reg5) (h : Reg4) (s : State) : Out :=
  finish s (.ok (putReg s 0 d (fld ((s.ctx s.cur).shape h) 64 64)))

end Sys2Proof.Machine
end

