-- ==== Sys2Proof/Machine/Memory.lean ====
section
/-!
DEFINITION. Addresses and translation: windows (R107, R108), page tables, TLBs and walkers (R420 to R427), partition rights
(R429), and the FE's loads, stores and fetches through them (R110, R112, R118 to R126, R182, R184, R444).
-/
namespace Sys2Proof.Machine

/-! ## Windows (R107) -/

/-- Where a canonical pointer points. -/
inductive Window where
  | priv (off : Nat)
  | scr (core : CoreId) (off : Nat)
  | dsh (die : DieId) (off : Nat)
  | glob (va : Nat)
  deriving DecidableEq, Repr

/-- Bits [63:48] all equal bit 47 (R107). -/
def canonical (va : Word) : Bool := va == sext64 (fld va 0 48)

/-- The window code of bits [47:40]: 0 global, 1 private, 2 scratchpad, 3 die-shared (R107, R197). -/
def windowCode (va : Word) : Nat :=
  match fldN va 40 8 with
  | 0xF0 => 1 | 0xF1 => 2 | 0xF2 => 3 | _ => 0

/-- The zero bits of a window pointer are 0 (R107). -/
def windowZeros (va : Word) : Bool :=
  match windowCode va with
  | 1 => fldN va 24 16 == 0
  | 2 => fldN va 22 12 == 0
  | 3 => fldN va 22 17 == 0
  | _ => true

/-- A pointer is not canonical, or its window's zero bits are not 0. -/
def malformed (va : Word) : Bool := !canonical va || !windowZeros va

/-- The window of a pointer that is not malformed. -/
def windowOf (va : Word) : Window :=
  match windowCode va with
  | 1 => .priv (fldN va 0 24)
  | 2 => .scr (Fin.ofNat 64 (fldN va 34 6)) (fldN va 0 22)
  | 3 => .dsh (Fin.ofNat 2 (fldN va 39 1)) (fldN va 0 22)
  | _ => .glob (fldN va 0 48)

/-- The carved bytes of a die (R109). -/
def State.carved (s : State) (d : DieId) : Nat := 65536 * (s.die d).dscarve.toNat

/-! ## Page tables (R420 to R422) -/

/-- Bytes of device memory on a die (R17). -/
def dieBytes : Nat := 64000000000

/-- A valid device-memory physical address (R421). -/
def validDev (a : Nat) : Bool := decide (a < 2 ^ 37) && decide (a % 2 ^ 36 < dieBytes)

/-- What an access needs and which windows it may reach (R422, R110). -/
structure Access where
  rd : Bool
  wr : Bool
  x : Bool
  host : Bool
  blumus : Bool
  deriving DecidableEq, Repr

def accLoad : Access := { rd := true, wr := false, x := false, host := true, blumus := false }
def accStore : Access := { rd := false, wr := true, x := false, host := true, blumus := false }
def accAtomic : Access := { rd := true, wr := true, x := false, host := false, blumus := false }
def accFetch : Access := { rd := false, wr := false, x := true, host := false, blumus := false }
def accCopySrc : Access := { rd := true, wr := false, x := false, host := true, blumus := true }
def accCopyDst : Access := { rd := false, wr := true, x := false, host := true, blumus := true }
def accCredDst : Access := { rd := true, wr := true, x := false, host := false, blumus := true }
/-- A read or write of firmware, Bushel or Firkin in device memory. -/
def accDevRead : Access := { rd := true, wr := false, x := false, host := false, blumus := false }
def accDevWrite : Access := { rd := false, wr := true, x := false, host := false, blumus := false }

/-- Bits of an address that index each level, from bit `lo` (R420). -/
def levelLo (level : Nat) : Nat := match level with | 1 => 39 | 2 => 30 | 3 => 21 | _ => 16
/-- log2 of a leaf's size at a level; level 1 allows none. -/
def leafLg (level : Nat) : Nat := match level with | 2 => 30 | 3 => 21 | _ => 16
/-- The index of a virtual address at a level. -/
def levelIndex (level va : Nat) : Nat :=
  match level with
  | 4 => va / 2 ^ 16 % 32
  | _ => va / 2 ^ levelLo level % 512

/-- Fields of an entry (R421). -/
def pteV (e : Word) : Bool := e.getLsbD 0
def pteLEAF (e : Word) : Bool := e.getLsbD 1
def pteRD (e : Word) : Bool := e.getLsbD 2
def pteW (e : Word) : Bool := e.getLsbD 3
def pteX (e : Word) : Bool := e.getLsbD 4
def pteSO (e : Word) : Bool := e.getLsbD 5
def pteKIND (e : Word) : Nat := fldN e 6 2
/-- The page address of a leaf, bits [47:16] in place. -/
def ptePA (e : Word) : Nat := fldN e 16 32 * 2 ^ 16
/-- The table address of a pointer, bits [47:8] in place. -/
def pteTable (e : Word) : Nat := fldN e 8 40 * 2 ^ 8

/-- The port and peer address of a Blumus address, when its fixed bits are 0 and the peer address is valid (R446). -/
def blumusAddr (a : Nat) : Option (Fin 4 × Nat) :=
  if a / 2 ^ 37 % 2 ^ 9 = 0 ∧ validDev (a % 2 ^ 37) then some (Fin.ofNat 4 (a / 2 ^ 46), a % 2 ^ 37) else none

/-- A leaf keeps R421 and R446 (order 1 of R422). -/
def leafOk (e : Word) (lg : Nat) : Bool :=
  (fldN e 48 16 == 0) && (fldN e 8 8 == 0) && (ptePA e % 2 ^ lg == 0) &&
  (match pteKIND e with
   | 0 => validDev (ptePA e)
   | 1 => true
   | 2 => (blumusAddr (ptePA e)).isSome
   | _ => false)

/-- A pointer read at a level keeps R421. -/
def pointerOk (e : Word) (level : Nat) : Bool :=
  (fldN e 48 16 == 0) && (fldN e 2 6 == 0) && (level == 3 || fldN e 8 4 == 0) && validDev (pteTable e)

/-- How a walk ends: the leaf with the size of its page and the pointers read on the way, or a fault with the address of a
poisoned entry. -/
abbrev WalkResult := Except (Option Nat) (Nat × Word × List (Nat × Word))

/-- A walk from a level on: one entry read per level (R422). `n` counts the levels left. -/
def walk (m : Mem) (va : Nat) : Nat → Nat → Nat → List (Nat × Word) → WalkResult
  | 0, _, _, _ => .error none
  | n + 1, level, table, ptrs =>
    let a := table + 8 * levelIndex level va
    let b := m.read a 8
    let e : Word := BitVec.ofNat 64 (bytesNat b)
    if !pteV e then (if anyPoison b then .error (some a) else .error none)
    else if anyPoison b then .error (some a)
    else if pteLEAF e then
      if level = 1 || !leafOk e (leafLg level) then .error none else .ok (leafLg level, e, ptrs)
    else if level = 4 || !pointerOk e level then .error none
    else walk m va n (level + 1) (pteTable e) ((level, e) :: ptrs)

/-- A cached leaf serves an address of a partition. -/
def TlbEntry.hit (p : Fin 16) (va : Nat) (t : TlbEntry) : Bool := t.part == p && t.vpn == va / 2 ^ t.lg
/-- A cached pointer serves an address of a partition. -/
def WalkEntry.hit (p : Fin 16) (va : Nat) (w : WalkEntry) : Bool := w.part == p && w.tag == va / 2 ^ levelLo w.level

/-- The deepest cached pointer for an address. -/
def bestPointer (p : Fin 16) (va : Nat) : List WalkEntry → Option WalkEntry
  | [] => none
  | w :: r =>
    match bestPointer p va r with
    | some x => if w.hit p va && decide (x.level < w.level) then some w else some x
    | none => if w.hit p va then some w else none

/-- A cache's new entry goes first; the last of a full cache goes. -/
def cachePut {α : Type} (n : Nat) (x : α) (l : List α) : List α := (x :: l).take n

/-- A leaf put into a TLB in the place of those that serve the same address. -/
def tlbPut (n : Nat) (p : Fin 16) (va : Nat) (t : TlbEntry) (l : List TlbEntry) : List TlbEntry :=
  cachePut n t (l.filter (fun x => !x.hit p va))

/-- The walk of an address for a partition on a die: the leaf, with the die's structures filled (R424). -/
def walkFor (s : State) (d : DieId) (p : Fin 16) (va : Nat) : Except (Option Nat) (TlbEntry × Die) :=
  let die := s.die d
  let r := match bestPointer p va die.walkCache with
    | some w => walk s.dmem va (4 - w.level) (w.level + 1) (pteTable w.ptr) []
    | none =>
      let root := (s.part p).root.toNat * 4096
      if validDev root then walk s.dmem va 4 1 root [] else .error none
  match r with
  | .error e => .error e
  | .ok (lg, leaf, ptrs) =>
    let t : TlbEntry := { part := p, lg := lg, vpn := va / 2 ^ lg, leaf := leaf }
    let ws := ptrs.map (fun q => ({ part := p, level := q.1, tag := va / 2 ^ levelLo q.1, ptr := q.2 } : WalkEntry))
    .ok (t, { die with
      l2tlb := tlbPut 512 p va t die.l2tlb,
      walkCache := (ws ++ die.walkCache).take 64 })

/-- Orders 2 and 3 of R422 for a leaf. -/
def leafDenied (part : Part) (smode : Bool) (acc : Access) (e : Word) : Option TrapCode :=
  if (acc.rd && !pteRD e) || (acc.wr && !pteW e) || (acc.x && !pteX e) || (pteSO e && !smode)
      || (pteKIND e == 1 && !part.hostw) || (pteKIND e == 2 && !part.blumus) then some .pageDenied
  else if (pteKIND e == 1 && !acc.host) || (pteKIND e == 2 && !acc.blumus) then some .accessUnsupported
  else none

/-- The physical place of an address under a leaf: device memory, the PCIe address of R444, or a peer's memory (R446). -/
def leafPlace (e : Word) (lg va : Nat) : Option (Space × Nat) :=
  let a := ptePA e + va % 2 ^ lg
  match pteKIND e with
  | 0 => if validDev a then some (.dmem, a) else none
  | 1 => some (.host, a)
  | 2 => (blumusAddr a).map (fun x => (.peer x.1, x.2))
  | _ => none

/-- What a leaf gives an access: its place, or the trap code of orders 1 to 3 of R422. -/
def leafAnswer (part : Part) (smode : Bool) (acc : Access) (t : TlbEntry) (va : Nat) : Except TrapCode (Space × Nat) :=
  match leafDenied part smode acc t.leaf with
  | some c => .error c
  | none =>
    match leafPlace t.leaf t.lg va with
    | some x => .ok x
    | none => .error .pageFault

/-- A leaf goes into the TLB of the core that asked. -/
def fillCore (s : State) (core : Option CoreId) (p : Fin 16) (va : Nat) (t : TlbEntry) : State :=
  match core with
  | some c => s.setCore c { s.core c with tlb := tlbPut 64 p va t (s.core c).tlb }
  | none => s

/-- A walk serves an access: it fills the structures when it ends in a place, and leaves them alone when it fails, so that the access
walks again (R424). A poisoned entry is reported to firmware. Walkers are granted in the order of R456 (R425). -/
def walkAccess (s : State) (d : DieId) (core : Option CoreId) (p : Fin 16) (smode : Bool) (acc : Access) (va : Nat) :
    Except (TrapCode × State) (State × Space × Nat) :=
  match walkFor s d p va with
  | .error none => .error (.pageFault, s.contended (.walkers d))
  | .error (some a) => .error (.pageFault, { s with memErrors := s.memErrors ++ [a] }.contended (.walkers d))
  | .ok (t, die) =>
    match leafAnswer (s.part p) smode acc t va with
    | .error c => .error (c, s.contended (.walkers d))
    | .ok (sp, a) => .ok ((fillCore (s.setDie d die) core p va t).contended (.walkers d), sp, a)

/-- The leaf a core's TLB holds for an address. -/
def coreLeaf (s : State) (core : Option CoreId) (p : Fin 16) (va : Nat) : Option TlbEntry :=
  core.bind (fun c => (s.core c).tlb.find? (TlbEntry.hit p va))

/-- The leaf a die's second-level TLB holds for an address. -/
def dieLeaf (s : State) (d : DieId) (p : Fin 16) (va : Nat) : Option TlbEntry := (s.die d).l2tlb.find? (TlbEntry.hit p va)

/-- Translation of a global address (R114, R422, R424, R428): the place and the state with the translation structures filled, or the
trap code and the state with a poisoned entry reported to firmware. A cached leaf that does not admit the access is walked again,
for raised permissions need no invalidation (R426). `core` is none for Firkin, Bushel, Madder and the front end. -/
def translate (s : State) (d : DieId) (core : Option CoreId) (p : Fin 16) (smode : Bool) (acc : Access) (va : Nat) :
    Except (TrapCode × State) (State × Space × Nat) :=
  if !(s.part p).ten then .error (.pageFault, s)
  else
    match (coreLeaf s core p va).map (fun t => leafAnswer (s.part p) smode acc t va) with
    | some (.ok (sp, a)) => .ok (s, sp, a)
    | some (.error _) => walkAccess s d core p smode acc va
    | none =>
      match dieLeaf s d p va with
      | none => walkAccess s d core p smode acc va
      | some t =>
        match leafAnswer (s.part p) smode acc t va with
        | .ok (sp, a) => .ok (fillCore s core p va t, sp, a)
        | .error _ => walkAccess s d core p smode acc va

/-- The effect of a unit's access on the translation structures of its die and on the error reports (R422, R424). -/
def touch (s : State) (d : DieId) (p : Fin 16) (acc : Access) (va : Word) : State :=
  if !canonical va || windowCode va ≠ 0 then s
  else match translate s d none p false acc (fldN va 0 48) with
    | .ok (t, _, _) => t
    | .error (_, t) => t

/-- The effect of a unit's accesses to `n` bytes: one request for each 64 KiB region, up to the first that fails. -/
def touchRange (s : State) (d : DieId) (p : Fin 16) (acc : Access) (va : Word) (n : Nat) : State :=
  let first := va.toNat / 65536
  (List.range ((va.toNat + n - 1) / 65536 - first + (if n = 0 then 0 else 1))).foldl (fun t i =>
    touch t d p acc (if i = 0 then va else BitVec.ofNat 64 ((first + i) * 65536))) s

/-! ## Places an FE instruction reaches -/

/-- The untranslated part of a pointer's checks for `size` bytes, in the order of R184: the place in a window, or the
translated address. -/
inductive Reach where
  | place (sp : Space) (a : Nat)
  | global (va : Nat)
  deriving DecidableEq, Repr

/-- Checks 1 to 3 of R184: R107, FOREIGN_SCRATCH, bounds. -/
def reachOwn (s : State) (k : CtxId) (va : Word) (size : Nat) : Except TrapCode Reach :=
  let c := s.ctx k
  if malformed va then .error .addressInvalid
  else match windowOf va with
    | .priv o => if o + size ≤ c.privSize then .ok (.place (.pool (coreOf k)) (c.privStart + o)) else .error .windowBounds
    | .scr core o =>
      if core ≠ coreOf k then .error .foreignScratch
      else if c.scrStart ≤ o ∧ o + size ≤ c.scrStop then .ok (.place (.pool core) o) else .error .windowBounds
    | .dsh d o => if o + size ≤ s.carved d then .ok (.place (.dsh d) o) else .error .windowBounds
    | .glob a => .ok (.global a)

/-- The place of an FE access of `size` bytes, all its checks made (R184, R188). -/
def feReach (s : State) (va : Word) (size : Nat) (acc : Access) : Res (State × Space × Nat) :=
  match reachOwn s s.cur va size with
  | .error c => trapAt s c va
  | .ok r =>
    if va.toNat % size ≠ 0 then trapAt s .misaligned va
    else match r with
      | .place sp a => .ok (s, sp, a)
      | .global a =>
        match translate s (dieOf (coreOf s.cur)) (some (coreOf s.cur)) (s.ctx s.cur).csr.partn (s.ctx s.cur).csr.sact acc a with
        | .ok x => .ok x
        | .error (c, t) => trapAt t c va

/-! ## A context's accesses (R119, R120) -/

/-- One byte as a context's FE reads it now: an object, an instruction. -/
def freshByte (s : State) (k : CtxId) (sp : Space) (a : Nat) : PByte :=
  match bufByte sp a (s.ctx k).sbuf with
  | some b => b
  | none => dieByte s (dieOf (coreOf k)) sp a

/-- The FE of a context comes to read or write a range: the earlier loads of its bytes and the own copies' granules that write them
are performed (R119). -/
def settleRange (s : State) (k : CtxId) (sp : Space) (a n : Nat) : State :=
  landMeeting (performLoads s k (fun l => l.meets sp a n)) k sp a n

/-- The FE of a context comes to read a range at one moment with its acquire: nothing of the range is read ahead, and its own stores
there are performed (R120, R124). -/
def readNow (s : State) (k : CtxId) (sp : Space) (a n : Nat) : State := settleRange (ownStore (flushRange s k sp a n) k sp a n) k sp a n

/-- `n` bytes as a context's FE reads them now. -/
def freshBytes (s : State) (k : CtxId) (sp : Space) (a : Nat) : Nat → List PByte
  | 0 => []
  | n + 1 => freshByte s k sp a :: freshBytes s k sp (a + 1) n

/-- A store: into the store buffer, or posted to the host (R120, R444); `rel` is the scope of a release store. Earlier loads of its
bytes come first (R119). -/
def storeTo (s : State) (k : CtxId) (sp : Space) (a : Nat) (bytes : List Byte) (p : Bool) (rel : Option Nat) : State :=
  let e : Pending := { space := sp, addr := a, bytes := bytes, poison := p, stamp := s.clock, rel := rel }
  (ownStore (performLoads s k (fun l => l.meets sp a bytes.length)) k sp a bytes.length).modCtx k (fun c =>
    let c1 := c.fail (if p then failPOISON else 0)
    if sp = .host then { c1 with posted := c1.posted ++ [e] } else { c1 with sbuf := c1.sbuf ++ [e] })

/-! ## Fetch (R182) -/

/-- The word at an address, fetched by a context: the word, or the trap of R182 and R422. -/
def fetchWord (s : State) (k : CtxId) (va : Word) : Except (Trap × State) (State × IWord) :=
  if !canonical va || windowCode va ≠ 0 then .error (feTrap .addressInvalid va, s)
  else
    match translate s (dieOf (coreOf k)) (some (coreOf k)) (s.ctx k).csr.partn (s.ctx k).csr.sact accFetch (fldN va 0 48) with
    | .error (c, t) => .error (feTrap c va, t)
    | .ok (s1, sp, a) =>
      let b := freshBytes s1 k sp a 4
      if anyPoison b then .error (feTrap .poisonConsumed va, s1)
      else .ok (s1, BitVec.ofNat 32 (bytesNat b))

end Sys2Proof.Machine
end

