-- ==== Sys2Proof/Machine/Control.lean ====
section
/-!
DEFINITION. Control transfers and loops (R181 to R183). `off` is 4 behind a LIMM, else 0 (R150).
-/
namespace Sys2Proof.Machine

/-- The trap a target takes before the transfer has any effect (R182); `reg` for a target from a register. -/
def targetTrap (reg : Bool) (t : Word) : Option TrapCode :=
  if !canonical t then some .addressInvalid
  else if windowCode t ≠ 0 then some .addressInvalid
  else if reg && fldN t 0 2 ≠ 0 then some .misaligned
  else none

/-- A transfer to a target, with its other effects `f`, all or none (R182). -/
def transfer (s : State) (reg : Bool) (t : Word) (f : Ctx → Ctx) : Res State :=
  match targetTrap reg t with
  | some c => trapAt s c t
  | none => .ok (s.modCtx s.cur (fun c => { f c with pc := t }))

/-- The address of the word that holds the offset (R148). -/
def wordPc (s : State) (off : Nat) : Word := (s.ctx s.cur).pc + BitVec.ofNat 64 off
/-- pc + 4 * off for a sign-extended word offset. -/
def target (s : State) (off : Nat) (o : Word) : Word := wordPc s off + 4 * o
/-- ra: the address after the word (R181). -/
def retAddr (s : State) (off : Nat) : Word := wordPc s off + 4

/-- br and br.f with the word offset extended. -/
def branch (off : Nat) (taken : Bool) (o : Word) (s : State) : Out :=
  finish s (if taken then transfer s false (target s off o) id else .ok (s.modCtx s.cur (·.advance off)))

/-- jmp and call with the word offset extended; `link` writes s1. -/
def jump (off : Nat) (link : Bool) (o : Word) (s : State) : Out :=
  finish s (transfer s false (target s off o) (fun c => if link then c.setReg 1 (retAddr s off) else c))

/-- jr, callr and ret. -/
def jumpReg (link : Bool) (a : Reg5) (s : State) : Out :=
  finish s (do let t ← src s a; transfer s true t (fun c => if link then c.setReg 1 (retAddr s 0) else c))

/-- loopi (R183). -/
def loopInit (i : Instr) (off : Nat) (d : Reg5) (n : Word) (s : State) : Out :=
  finish s (if d = 0 then illegal s i else .ok (putReg s off d n))

/-- VRB := (VRB - 1) mod 16 (R90). -/
def Ctx.rotate (c : Ctx) : Ctx := { c with csr := { c.csr with vrb := c.csr.vrb - 1 } }

/-- loopb (R183). -/
def loopBack (i : Instr) (off : Nat) (a : Reg5) (o : Word) (s : State) : Out :=
  finish s (if a = 0 then illegal s i else do
    let x ← src s a
    let f := fun (c : Ctx) => (c.setReg a (x - 1)).rotate
    if x - 1 = 0 then .ok (s.modCtx s.cur (fun c => (f c).advance off))
    else transfer s false (target s off o) f)

def execBr (p : Reg3) (o : BitVec 18) (s : State) : Out := branch 0 ((s.ctx s.cur).pred p) (sext64 o) s
def execBrF (p : Reg3) (o : BitVec 18) (s : State) : Out := branch 0 (!(s.ctx s.cur).pred p) (sext64 o) s
def execJmp (o : BitVec 18) (s : State) : Out := jump 0 false (sext64 o) s
def execCall (o : BitVec 18) (s : State) : Out := jump 0 true (sext64 o) s
def execJr (a : Reg5) (s : State) : Out := jumpReg false a s
def execCallr (a : Reg5) (s : State) : Out := jumpReg true a s
def execRet (s : State) : Out := jumpReg false 1 s
def execLoopi (d : Reg5) (i : BitVec 14) (s : State) : Out := loopInit (.loopi d i) 0 d (zext64 i) s
def execLoopb (a : Reg5) (o : BitVec 14) (s : State) : Out := loopBack (.loopb a o) 0 a (sext64 o) s

/-! ## Address arithmetic and windows (R196 to R199) -/

def execLea1 (d a b : Reg5) (s : State) : Out := aluRR (fun x y => x + y) d a b s
def execLea2 (d a b : Reg5) (s : State) : Out := aluRR (fun x y => x + y * 2) d a b s
def execLea4 (d a b : Reg5) (s : State) : Out := aluRR (fun x y => x + y * 4) d a b s
def execLea8 (d a b : Reg5) (s : State) : Out := aluRR (fun x y => x + y * 8) d a b s

/-- The window report (R197). -/
def ispaceOf (k : CtxId) (a : Word) : Word :=
  let code := windowCode a
  let xcore := code == 2 && fldN a 34 6 != (coreOf k).val
  let xdie := code == 3 && fldN a 39 1 != (dieOf (coreOf k)).val
  BitVec.ofNat 64 (code + (if malformed a then 16 else 0) + (if xcore then 32 else 0) + (if xdie then 64 else 0))

def execIspace (d a : Reg5) (s : State) : Out := aluR (ispaceOf s.cur) d a s

/-- The window offset of a pointer (R198). -/
def windowOffset (a : Word) : Word :=
  match windowCode a with
  | 1 => zext64 (fld a 0 24)
  | 2 => zext64 (fld a 0 22)
  | 3 => zext64 (fld a 0 22)
  | _ => a

/-- The window pointers to an offset (R198). -/
def privPtr (a : Word) : Word := 0xFFFFF00000000000 + a
def scrPtr (c : CoreId) (a : Word) : Word := 0xFFFFF10000000000 + BitVec.ofNat 64 (c.val * 2 ^ 34) + a
def dshPtr (d : DieId) (a : Word) : Word := 0xFFFFF20000000000 + BitVec.ofNat 64 (d.val * 2 ^ 39) + a

/-- cvspace.prv, .scr and .dsh: the offset has its limit (R198). -/
def cvspaceTo (lim : Nat) (f : Word → Word) (d a : Reg5) (s : State) : Out :=
  finish s (do
    let x ← src s a
    need s (decide (x.toNat < lim)) .illegalOperand 0
    .ok (putReg s 0 d (f x)))

def execCvspaceOff (d a : Reg5) (s : State) : Out :=
  finish s (do
    let x ← src s a
    need s (!malformed x) .addressInvalid x
    .ok (putReg s 0 d (windowOffset x)))
def execCvspacePrv (d a : Reg5) (s : State) : Out := cvspaceTo (2 ^ 24) privPtr d a s
def execCvspaceScr (d a : Reg5) (s : State) : Out := cvspaceTo (2 ^ 22) (scrPtr (coreOf s.cur)) d a s
def execCvspaceDsh (d a : Reg5) (s : State) : Out := cvspaceTo (2 ^ 22) (dshPtr (dieOf (coreOf s.cur))) d a s

/-- The pointer wbase returns (R199); none for a reserved code. -/
def wbaseOf (s : State) (w : Nat) : Option Word :=
  let c := s.ctx s.cur
  match w with
  | 1 => some (scrPtr (coreOf s.cur) (BitVec.ofNat 64 c.privStart))
  | 2 => some (scrPtr (coreOf s.cur) (BitVec.ofNat 64 c.scrStart))
  | 3 => some (dshPtr (dieOf (coreOf s.cur)) 0)
  | _ => none

def execWbase (d : Reg5) (w : BitVec 2) (s : State) : Out :=
  finish s (match wbaseOf s w.toNat with
    | some v => .ok (putReg s 0 d v)
    | none => illegal s (.wbase d w))

end Sys2Proof.Machine
end

