-- ==== Sys2Proof/Config.lean ====
section
/-!
DEFINITION. What the spec leaves to the part or leaves open, as free values: opaque constants without a body, of which nothing
can be proved. Each is named in the assumption log.
-/
namespace Sys2Proof.Config

/-- A byte the manual calls unpredictable, for the n-th draw (R438, R304): log entry on free values. -/
opaque freeByte : Nat → Byte

/-- The FP32 result of special function `f` for argument bits `x` where the model's interval of the exact value does not settle
the rounding (R80). -/
opaque vsfValue (f : Nat) (x : BitVec 32) : BitVec 32

/-- The bits of a lane whose operand a cell discarded (R334), for the n-th entry run and the lane's number in it. -/
opaque discardedLane : Nat → Nat → BitVec 32

/-- SHA-384 of a byte string (R460, R465): 48 bytes. -/
opaque sha384 : List Byte → List Byte

/-- SHA-256 of a byte string (R462, R463): 32 bytes. -/
opaque sha256 : List Byte → List Byte

/-- ECDSA P-384 verification of a signature over a message under a public key (R463, R465). -/
opaque ecdsaOk (key msg sig : List Byte) : Bool

/-- LMS verification of a signature over a message under a public key (R463). -/
opaque lmsOk (key msg sig : List Byte) : Bool

/-- The signature over a transcript by the attestation key derived from UDS and the image's digest (R465). -/
opaque attest (uds digest transcript : List Byte) : List Byte

/-- The certificate chain with the leaf of that key (R465), and the root certificate in it. -/
opaque certChain (uds digest : List Byte) : List Byte
opaque rootCert : List Byte

/-- The digest of the image whose firmware runs in State.reset (R466). -/
opaque resetDigest : List Byte

/-- The revision of the boot ROM (R466). -/
opaque romRevision : List Byte

end Sys2Proof.Config
end

