-- ==== Sys2Proof/Machine/Flags.lean ====
section
/-!
DEFINITION. The numeric flags of NFLAG (R65), their traps (R66, R67) and how an entry's flags reach them.
-/
namespace Sys2Proof.Machine

/-- The flags of one operation, laid out as NFLAG (R65). -/
abbrev Flags := BitVec 7

/-- An invalid operation (R65). -/
def NV : Flags := 0x01
/-- An exact infinity from a zero operand. -/
def DZ : Flags := 0x02
/-- Overflow. -/
def OF : Flags := 0x04
/-- Tiny and inexact. -/
def UF : Flags := 0x08
/-- Inexact. -/
def NX : Flags := 0x10
/-- Clamped. -/
def SA : Flags := 0x20
/-- A faded factor. -/
def FD : Flags := 0x40

/-- A flag when a condition holds. -/
def flagIf (b : Bool) (f : Flags) : Flags := if b then f else 0

/-- The flags that enabled traps watch, by the priority NV, DZ, OF, UF, SA (R66, R67). -/
def arithTrap (fl : Flags) (nctl : BitVec 5) : Option TrapCode :=
  if fl.getLsbD 0 && nctl.getLsbD 0 then some .arithInvalid
  else if fl.getLsbD 1 && nctl.getLsbD 1 then some .arithDivzero
  else if fl.getLsbD 2 && nctl.getLsbD 2 then some .arithOverflow
  else if fl.getLsbD 3 && nctl.getLsbD 3 then some .arithUnderflow
  else if fl.getLsbD 5 && nctl.getLsbD 4 then some .arithSaturate
  else none

/-- Flags ORed into NFLAG (R67). -/
def Ctx.orFlags (c : Ctx) (f : Flags) : Ctx := { c with csr := { c.csr with nflag := c.csr.nflag ||| f } }

end Sys2Proof.Machine
end

