-- ==== Sys2Proof/Machine/Exact.lean ====
section
/-!
DEFINITION. Exact arithmetic and its one rounding: numbers as sign, magnitude and power of two, with infinities and one NaN
(R54), the formats of R53, rounding, overflow and saturation (R62, R63), sums and products (R64), pairs (R68 to R70), group sums
(R72), conversion to integers (R60), quotients and square roots to be rounded once.
-/
namespace Sys2Proof.Machine

/-- A value: NaN, an infinity (true: negative), or (-1)^s * m * 2^e. -/
inductive Num where
  | nan
  | inf (s : Bool)
  | fin (s : Bool) (m : Nat) (e : Int)
  deriving DecidableEq, Repr

/-- A rounding mode (R62). -/
inductive RMode where
  | rne | rtz | ru | rd
  deriving DecidableEq, Repr

/-- The mode of a 2-bit field (R62). -/
def rmode (b : BitVec 2) : RMode := if b = 0 then .rne else if b = 1 then .rtz else if b = 2 then .ru else .rd

/-- How a format encodes what is no finite number (R53, R63). -/
inductive Specials where
  | ieee | e4m3 | fp4
  deriving DecidableEq, Repr

/-- A floating-point format (R53): precision (with the leading bit), exponent of the smallest subnormal's unit, width, largest
finite magnitude as an encoding, canonical NaN and specials. -/
structure Fmt where
  prec : Nat
  qmin : Int
  width : Nat
  maxBits : Nat
  nanBits : Nat
  sp : Specials
  deriving DecidableEq, Repr

def fp32 : Fmt := { prec := 24, qmin := -149, width := 32, maxBits := 0x7F7FFFFF, nanBits := 0x7FC00000, sp := .ieee }
def bf16 : Fmt := { prec := 8, qmin := -133, width := 16, maxBits := 0x7F7F, nanBits := 0x7FC0, sp := .ieee }
def fp16 : Fmt := { prec := 11, qmin := -24, width := 16, maxBits := 0x7BFF, nanBits := 0x7E00, sp := .ieee }
def e4m3 : Fmt := { prec := 4, qmin := -9, width := 8, maxBits := 0x7E, nanBits := 0x7F, sp := .e4m3 }
def e5m2 : Fmt := { prec := 3, qmin := -16, width := 8, maxBits := 0x7B, nanBits := 0x7E, sp := .ieee }
def fp4 : Fmt := { prec := 2, qmin := -1, width := 4, maxBits := 0x7, nanBits := 0x0, sp := .fp4 }

/-- The magnitude bits of a finite encoding as a number (R53). -/
def magNum (f : Fmt) (s : Bool) (mag : Nat) : Num :=
  let h := 2 ^ (f.prec - 1)
  if mag < h then .fin s mag f.qmin
  else .fin s (mag % h + h) (f.qmin + (Int.ofNat (mag / h) - 1))

/-- The value of an encoding (R53 to R56). -/
def decodeFp (f : Fmt) (bits : Nat) : Num :=
  let h := 2 ^ (f.width - 1)
  let s := decide (h ≤ bits % (2 * h))
  let mag := bits % h
  if mag ≤ f.maxBits then magNum f s mag
  else match f.sp with
    | .ieee => if mag = f.maxBits + 1 then .inf s else .nan
    | _ => .nan

/-- The value of FP32 bits. -/
def num32 (b : BitVec 32) : Num := decodeFp fp32 b.toNat

/-- Bits of a magnitude: the position after its highest one. -/
def bitLen (m : Nat) : Nat := if m = 0 then 0 else Nat.log2 m + 1

/-- m * 2^e brought to a unit 2^q, rounded by the mode for the sign: the count of units and whether it is inexact. -/
def roundUnit (md : RMode) (s : Bool) (m : Nat) (e q : Int) : Nat × Bool :=
  if q ≤ e then (m * 2 ^ (e - q).toNat, false)
  else
    let d := 2 ^ (q - e).toNat
    let n := m / d
    let r := m % d
    let up := match md with
      | .rne => decide (d < 2 * r) || (decide (2 * r = d) && decide (n % 2 = 1))
      | .rtz => false
      | .ru => !s && decide (r ≠ 0)
      | .rd => s && decide (r ≠ 0)
    (if up then n + 1 else n, decide (r ≠ 0))

/-- m * 2^e is at least n * 2^q. -/
def geScaled (m : Nat) (e : Int) (n : Nat) (q : Int) : Bool :=
  if q ≤ e then decide (n ≤ m * 2 ^ (e - q).toNat) else decide (n * 2 ^ (q - e).toNat ≤ m)

/-- The sign bit of an encoding. -/
def signBit (f : Fmt) (s : Bool) : Nat := if s then 2 ^ (f.width - 1) else 0

/-- An infinity, or an overflow, by the table of R63; `fin` when the exact value was finite. -/
def overflowFp (f : Fmt) (md : RMode) (sat : Bool) (s : Bool) (finite : Bool) : Nat × Flags :=
  let toMax := f.sp = .fp4 || sat || (match md with | .rne => false | .rtz => true | .ru => s | .rd => !s)
  let clampFlag := if finite then flagIf (f.sp = .fp4 || sat) SA else flagIf toMax SA
  let base := if finite then OF ||| NX else 0
  if toMax then (signBit f s + f.maxBits, base ||| clampFlag)
  else match f.sp with
    | .ieee => (signBit f s + (f.maxBits + 1), base)
    | _ => (f.nanBits, base ||| NV)

/-- A value rounded to a format once, with its flags (R62, R63). -/
def roundFp (f : Fmt) (md : RMode) (sat : Bool) (x : Num) : Nat × Flags :=
  match x with
  | .nan => if f.sp = .fp4 then (0, NV) else (f.nanBits, 0)
  | .inf s => overflowFp f md sat s false
  | .fin s m e =>
    if m = 0 then (signBit f s, 0)
    else
      let qn := e + Int.ofNat (bitLen m) - Int.ofNat f.prec
      let q := max qn f.qmin
      let (n, inexact) := roundUnit md s m e q
      let (nu, _) := roundUnit md s m e qn
      let bits := (q - f.qmin).toNat * 2 ^ (f.prec - 1) + n
      if f.maxBits < bits then overflowFp f md sat s true
      else
        let tiny := !geScaled nu qn (2 ^ (f.prec - 1)) f.qmin
        (signBit f s + bits, flagIf inexact NX ||| flagIf (inexact && tiny) UF)

/-- A value rounded to FP32 to nearest even (R64). -/
def round32 (x : Num) : BitVec 32 × Flags :=
  let (b, f) := roundFp fp32 .rne false x
  (BitVec.ofNat 32 b, f)

/-- The FP32 canonical NaN (R54). -/
def nan32 : BitVec 32 := 0x7FC00000

/-- FP32 bits are a NaN, an infinity, finite. -/
def isNan32 (b : BitVec 32) : Bool := decide (num32 b = .nan)
def isInf32 (b : BitVec 32) : Bool := match num32 b with | .inf _ => true | _ => false
def isFin32 (b : BitVec 32) : Bool := match num32 b with | .fin _ _ _ => true | _ => false

/-! ## Sums and products (R64) -/

/-- A signed integer's sign and magnitude. -/
def signedInt (s : Bool) (m : Nat) : Int := if s then -(Int.ofNat m) else Int.ofNat m

/-- The exact negation. -/
def Num.neg : Num → Num
  | .nan => .nan
  | .inf s => .inf !s
  | .fin s m e => .fin (!s) m e

/-- An exact product and NV for 0 x infinity. -/
def Num.mul (a b : Num) : Num × Flags :=
  match a, b with
  | .inf s, .fin t m _ => if m = 0 then (.nan, NV) else (.inf (s != t), 0)
  | .fin t m _, .inf s => if m = 0 then (.nan, NV) else (.inf (s != t), 0)
  | .inf s, .inf t => (.inf (s != t), 0)
  | .fin s m e, .fin t n g => (.fin (s != t) (m * n) (e + g), 0)
  | .nan, _ => (.nan, 0)
  | _, .nan => (.nan, 0)

/-- An exact sum of finite values, zero sums signed by R64. -/
def addFin (rd : Bool) (s : Bool) (m : Nat) (e : Int) (t : Bool) (n : Nat) (g : Int) : Num :=
  if m = 0 && n = 0 then .fin (if s = t then s else rd) 0 0
  else
    let q := min e g
    let v := signedInt s (m * 2 ^ (e - q).toNat) + signedInt t (n * 2 ^ (g - q).toNat)
    if v = 0 then .fin rd 0 0 else .fin (decide (v < 0)) v.natAbs q

/-- An exact sum and NV for opposite infinities. -/
def Num.add (rd : Bool) (a b : Num) : Num × Flags :=
  match a, b with
  | .nan, _ => (.nan, 0)
  | _, .nan => (.nan, 0)
  | .inf s, .inf t => if s = t then (.inf s, 0) else (.nan, NV)
  | .inf s, .fin _ _ _ => (.inf s, 0)
  | .fin _ _ _, .inf s => (.inf s, 0)
  | .fin s m e, .fin t n g => (addFin rd s m e t n g, 0)

/-- a * b + c, exact (R64): 0 x infinity sets NV even beside a NaN addend. -/
def Num.fma (rd : Bool) (a b c : Num) : Num × Flags :=
  let (p, f) := a.mul b
  let (r, g) := p.add rd c
  (r, f ||| g)

/-- A sum of FP32 values rounded to nearest even. -/
def add32 (a b : BitVec 32) : BitVec 32 × Flags :=
  let (x, f) := (num32 a).add false (num32 b)
  let (r, g) := round32 x
  (r, f ||| g)

/-- A difference of FP32 values. -/
def sub32 (a b : BitVec 32) : BitVec 32 × Flags :=
  let (x, f) := (num32 a).add false (num32 b).neg
  let (r, g) := round32 x
  (r, f ||| g)

/-- A product of FP32 values. -/
def mul32 (a b : BitVec 32) : BitVec 32 × Flags :=
  let (x, f) := (num32 a).mul (num32 b)
  let (r, g) := round32 x
  (r, f ||| g)

/-- a * b + c with one rounding. -/
def fma32 (a b c : BitVec 32) : BitVec 32 × Flags :=
  let (x, f) := (num32 a).fma false (num32 b) (num32 c)
  let (r, g) := round32 x
  (r, f ||| g)

/-- c - a * b with one rounding. -/
def fnma32 (a b c : BitVec 32) : BitVec 32 × Flags :=
  let (x, f) := (num32 a).neg.fma false (num32 b) (num32 c)
  let (r, g) := round32 x
  (r, f ||| g)

/-- The order of R64's minimum and maximum: by value, -0 below +0; no NaN among them. -/
def Num.lt (a b : Num) : Bool :=
  match a, b with
  | .inf s, .inf t => s && !t
  | .inf s, .fin _ _ _ => s
  | .fin _ _ _, .inf t => !t
  | .fin s m e, .fin t n g =>
    let q := min e g
    decide (signedInt s (m * 2 ^ (e - q).toNat) < signedInt t (n * 2 ^ (g - q).toNat))
  | _, _ => false

/-- Equality of values: -0 equals +0, a NaN equals nothing. -/
def Num.eqv (a b : Num) : Bool :=
  match a, b with
  | .nan, _ => false
  | _, .nan => false
  | x, y => !x.lt y && !y.lt x

/-- The sign of a value. -/
def Num.sign : Num → Bool
  | .nan => false
  | .inf s => s
  | .fin s _ _ => s

/-- Minimum of FP32 values (R64). -/
def min32 (a b : BitVec 32) : BitVec 32 :=
  let x := num32 a
  let y := num32 b
  if x = .nan || y = .nan then nan32
  else if x.lt y then a else if y.lt x then b
  else if x.sign then a else b

/-- Maximum of FP32 values (R64). -/
def max32 (a b : BitVec 32) : BitVec 32 :=
  let x := num32 a
  let y := num32 b
  if x = .nan || y = .nan then nan32
  else if x.lt y then b else if y.lt x then a
  else if x.sign then b else a

/-! ## Pairs (R68 to R70) -/

/-- A value is finite. -/
def Num.isFin : Num → Bool
  | .fin _ _ _ => true
  | _ => false

/-- +0 in place of a zero of any sign (R69, R70). -/
def plusZero (x : Num) : Num := match x with | .fin _ 0 _ => .fin false 0 0 | y => y

/-- comp_fma (R69) with u an exact value: the pair and its flags. -/
def compFma (hi lo a : BitVec 32) (u : Num) : (BitVec 32 × BitVec 32) × Flags :=
  if isNan32 hi || isNan32 lo || isNan32 a || decide (u = .nan) then
    ((nan32, 0), ((num32 a).fma false (num32 hi) u).2)
  else
    let (v, f) := (num32 a).fma false (num32 hi) u
    let (nh, g) := round32 v
    if isFin32 nh then
      let d := plusZero (v.add false (num32 nh).neg).1
      let (x, h) := (num32 a).fma false (num32 lo) d
      let (nl, i) := round32 (plusZero x)
      ((nh, nl), f ||| g ||| h ||| i)
    else ((nh, 0), f ||| g)

/-- 1.0. -/
def one32 : BitVec 32 := 0x3F800000

/-- twosum_acc (R69). -/
def twosumAcc (hi lo : BitVec 32) (g : Num) : (BitVec 32 × BitVec 32) × Flags := compFma hi lo one32 g

/-- hi + lo, exact; a mode that rounds down gives a zero sum its sign (R64). -/
def pairSumIn (md : RMode) (hi lo : BitVec 32) : Num × Flags := (num32 hi).add (md == .rd) (num32 lo)

/-- hi + lo, exact, under RNE. -/
def pairSum (hi lo : BitVec 32) : Num × Flags := pairSumIn .rne hi lo

/-- pair_norm (R70): OF and NX only when a finite sum rounds to an infinity. -/
def pairNorm (hi lo : BitVec 32) : (BitVec 32 × BitVec 32) × Flags :=
  let (v, f) := pairSum hi lo
  let (nh, g) := round32 v
  if isFin32 nh then ((nh, (round32 (plusZero (v.add false (num32 nh).neg).1)).1), f)
  else ((nh, 0), f ||| (g &&& (OF ||| NX)))

/-! ## Exact sums of many terms (R72) -/

/-- A finite value in units of 2^q, for q at most its exponent. -/
def Num.units (q : Int) : Num → Int
  | .fin s m e => signedInt s (m * 2 ^ (e - q).toNat)
  | _ => 0

/-- The smallest exponent among finite terms. -/
def minExp (l : List Num) : Int :=
  l.foldl (fun q x => match x with | .fin _ _ e => min q e | _ => q) 0

/-- The exact sum of finite terms. -/
def sumFin (l : List Num) : Num :=
  let q := minExp l
  let v : Int := l.foldl (fun (acc : Int) (x : Num) => acc + x.units q) 0
  .fin (decide (v < 0)) v.natAbs q

/-- The value a group's terms sum to before rounding, with NV (R72). -/
def groupSum (l : List Num) : Num × Flags :=
  let pos := l.any (fun x => decide (x = .inf false))
  let negv := l.any (fun x => decide (x = .inf true))
  if l.any (fun x => decide (x = .nan)) || (pos && negv) then (.nan, NV)
  else if pos then (.inf false, 0)
  else if negv then (.inf true, 0)
  else
    match sumFin l with
    | .fin s m e =>
      if m = 0 then
        (.fin (l.all (fun x => match x with | .fin true 0 _ => true | _ => false) && !l.isEmpty) 0 0, 0)
      else (.fin s m e, 0)
    | x => (x, 0)

/-- group_round (R72): only NV and OF are recorded. -/
def groupRound (l : List Num) : BitVec 32 × Flags :=
  let (x, f) := groupSum l
  let (r, g) := round32 x
  (r, f ||| (g &&& OF))

/-! ## Integers (R60) -/

/-- Two's complement of `n` bits. -/
def toSigned (n : Nat) (v : Nat) : Int := (BitVec.ofNat n v).toInt

/-- An integer as an exact value. -/
def intNum (v : Int) : Num := .fin (decide (v < 0)) v.natAbs 0

/-- A value rounded to an integer by a mode, before clamping; whether it was inexact. -/
def roundInt (md : RMode) (s : Bool) (m : Nat) (e : Int) : Int × Bool :=
  let (n, i) := roundUnit md s m e 0
  (signedInt s n, i)

/-- Conversion to an integer range with clamping (R60). -/
def toIntClamp (md : RMode) (lo hi : Int) (x : Num) : Int × Flags :=
  match x with
  | .nan => (0, NV)
  | .inf s => (if s then lo else hi, SA)
  | .fin s m e =>
    let (v, i) := roundInt md s m e
    if v < lo then (lo, SA ||| NX) else if hi < v then (hi, SA ||| NX) else (v, flagIf i NX)

/-! ## Quotients and square roots to be rounded once -/

/-- n / d with at least `k` significant bits and a sticky last bit: the value rounds as the exact quotient does. -/
def quotSticky (s : Bool) (n d : Nat) (e : Int) (k : Nat) : Num :=
  if n = 0 then .fin s 0 0
  else
    let sh := k + bitLen d
    let q := n * 2 ^ sh / d
    let r := n * 2 ^ sh % d
    .fin s (2 * q + (if r = 0 then 0 else 1)) (e - Int.ofNat sh - 1)

/-- a / b for finite a and non-zero finite b. -/
def Num.divSticky (a b : Num) : Num :=
  match a, b with
  | .fin s m e, .fin t n g => quotSticky (s != t) m n (e - g) 128
  | _, _ => .nan

/-- The integer square root by bits: the largest r with r * r <= n; `b` bits of the root are tried. -/
def isqrtAux (n : Nat) : Nat → Nat → Nat
  | 0, r => r
  | b + 1, r =>
    let t := r + 2 ^ b
    isqrtAux n b (if t * t ≤ n then t else r)

/-- The integer square root. -/
def isqrt (n : Nat) : Nat := isqrtAux n (bitLen n / 2 + 1) 0

/-- x^(-1/2) of m * 2^e with m not 0, with a sticky last bit: the root of 2^k / m, floored, carries at least 100 bits. -/
def rsqrtSticky (m : Nat) (e : Int) : Num :=
  let (m1, e1) := if e % 2 = 0 then (m, e) else (2 * m, e - 1)
  let k := 128 + bitLen m1
  let n := 2 ^ (2 * k) / m1
  let exactDiv := decide (2 ^ (2 * k) % m1 = 0)
  let r := isqrt n
  let exact := exactDiv && decide (r * r = n)
  .fin false (2 * r + (if exact then 0 else 1)) (-(Int.ofNat k) - e1 / 2 - 1)

end Sys2Proof.Machine
end

