-- ==== Sys2Proof/Machine/Special.lean ====
section
/-!
DEFINITION. Special functions of numeric revision 1 (R79, R80), the fade factor (R77), reciprocal and reciprocal square root
(R81, R82). A transcendental value is enclosed between two dyadic numbers, computed in 640-bit fixed point; where both ends round
alike their rounding is the exact value's.
-/
namespace Sys2Proof.Machine

/-- Fraction bits of the fixed-point work. -/
def fxBits : Nat := 640
/-- 1.0 in fixed point. -/
def fxOne : Nat := 2 ^ fxBits
/-- A bound on the error of the series below, in units of 2^-640. -/
def fxErr : Int := 2 ^ 60

/-- The sum of z^(2 j + 1) / (2 j + 1) for fixed-point z below 1/2: `t` is z^(2 j + 1), `z2` its square. -/
def atanhLoop (z2 : Nat) : Nat → Nat → Nat → Nat → Nat
  | 0, _, _, acc => acc
  | n + 1, j, t, acc => atanhLoop z2 n (j + 2) (t * z2 / fxOne) (acc + t / j)

/-- atanh in fixed point. -/
def atanhFx (z : Nat) : Nat := atanhLoop (z * z / fxOne) 340 1 z 0

/-- ln 2. -/
def ln2Fx : Nat := 2 * atanhFx (fxOne / 3)

/-- The alternating sum for arctan of 1/d. -/
def atanLoop (d2 : Nat) : Nat → Nat → Nat → Int → Int
  | 0, _, _, acc => acc
  | n + 1, j, t, acc =>
    atanLoop d2 n (j + 2) (t / d2) (if j % 4 = 1 then acc + Int.ofNat (t / j) else acc - Int.ofNat (t / j))

/-- pi by Machin's formula. -/
def piFx : Int :=
  16 * atanLoop 25 300 1 (fxOne / 5) 0 - 4 * atanLoop (239 * 239) 100 1 (fxOne / 239) 0

/-- The exponential series for fixed-point y below 1. -/
def expLoop (y : Nat) : Nat → Nat → Nat → Nat → Nat
  | 0, _, _, acc => acc
  | n + 1, j, t, acc => expLoop y n (j + 1) (t * y / fxOne / j) (acc + t)

/-- The sine series for fixed-point y up to pi/2: t is y^(2j+1)/(2j+1)!. -/
def sinLoop (y2 : Nat) : Nat → Nat → Nat → Int → Int
  | 0, _, _, acc => acc
  | n + 1, j, t, acc =>
    sinLoop y2 n (j + 2) (t * y2 / fxOne / ((j + 1) * (j + 2)))
      (if j % 4 = 1 then acc + Int.ofNat t else acc - Int.ofNat t)

/-- A finite value in fixed point (exponents from -640 up are exact). -/
def fixOf (s : Bool) (m : Nat) (e : Int) : Int := signedInt s (m * 2 ^ (e + Int.ofNat fxBits).toNat)

/-- A dyadic interval. -/
abbrev Ival := Num × Num

/-- v * 2^(n - 640) with the error of fixed-point work on both sides. -/
def ivalOf (v : Int) (n : Int) : Ival :=
  let lo := v - fxErr
  let hi := v + fxErr
  (.fin (decide (lo < 0)) lo.natAbs (n - Int.ofNat fxBits), .fin (decide (hi < 0)) hi.natAbs (n - Int.ofNat fxBits))

/-- 2^x for fixed-point x. -/
def exp2Ival (x : Int) : Ival :=
  let n := x / Int.ofNat fxOne
  let f := (x % Int.ofNat fxOne).toNat
  ivalOf (Int.ofNat (expLoop (f * ln2Fx / fxOne) 200 1 fxOne 0)) n

/-- e^x for fixed-point x. -/
def expIval (x : Int) : Ival :=
  let n := x / Int.ofNat ln2Fx
  let r := (x % Int.ofNat ln2Fx).toNat
  ivalOf (Int.ofNat (expLoop r 200 1 fxOne 0)) n

/-- ln of m * 2^e in fixed point, m not 0. -/
def lnFx (m : Nat) (e : Int) : Int :=
  let l := bitLen m - 1
  let h := 2 ^ l
  let z := (m - h) * fxOne / (m + h)
  Int.ofNat (2 * atanhFx z) + (e + Int.ofNat l) * Int.ofNat ln2Fx

/-- log2 of m * 2^e in fixed point. -/
def log2Fx (m : Nat) (e : Int) : Int :=
  let l := bitLen m - 1
  let h := 2 ^ l
  let z := (m - h) * fxOne / (m + h)
  Int.ofNat (2 * atanhFx z * fxOne / ln2Fx) + (e + Int.ofNat l) * Int.ofNat fxOne

/-- sin(pi t) for 0 <= t <= 1/2 in fixed point. -/
def sinPiFx (t : Nat) : Int :=
  let y := (Int.ofNat t * piFx / Int.ofNat fxOne).toNat
  sinLoop (y * y / fxOne) 200 1 y 0

/-- A monotone function of an interval's ends. -/
def Ival.map (f : Num → Num) (i : Ival) : Ival := (f i.1, f i.2)

/-- 1 + x, x - 1: exact. -/
def numOne : Num := .fin false 1 0
def addOne (x : Num) : Num := (x.add false numOne).1
def subOne (x : Num) : Num := (x.add false numOne.neg).1

/-- The rounding of an enclosed value that is not representable: NX, UF when tiny, OF when it overflows; the free value where the
ends disagree (R80). -/
def settle (f : Nat) (x : BitVec 32) (i : Ival) : BitVec 32 × Flags :=
  let (a, fa) := round32 i.1
  let (b, fb) := round32 i.2
  if a = b then (a, NX ||| (fa &&& fb &&& (OF ||| UF))) else (Config.vsfValue f x, NX)

/-- Codes of the functions, those of VSF's fn4 (R158). -/
def SfOp.code : SfOp → Nat
  | .exp2 => 0 | .exp => 1 | .log2 => 2 | .ln => 3 | .sigmoid => 4 | .tanh => 5 | .silu => 6 | .softplus => 7
  | .sinpi => 8 | .cospi => 9

/-- x > n, x < n for an integer n. -/
def Num.gtInt (x : Num) (n : Int) : Bool := (intNum n).lt x
def Num.ltInt (x : Num) (n : Int) : Bool := x.lt (intNum n)

/-- FP32 infinities and zeros. -/
def inf32 (s : Bool) : BitVec 32 := if s then 0xFF800000 else 0x7F800000
def zero32 (s : Bool) : BitVec 32 := if s then 0x80000000 else 0

/-- m * 2^e is an integer. -/
def isInteger (m : Nat) (e : Int) : Bool := decide (0 ≤ e) || decide (m % 2 ^ (-e).toNat = 0)

/-- m * 2^e is a power of two: its logarithm is an integer. -/
def isPow2 (m : Nat) : Bool := decide (m = 2 ^ (bitLen m - 1))

/-- sin(pi x) of a finite non-integer x (R79). -/
def sinpiFin (b : BitVec 32) (f : Nat) (s : Bool) (m : Nat) (e : Int) : BitVec 32 × Flags :=
  -- e < 0: t counts units of 2^e modulo 2
  let u := 2 ^ (-e).toNat
  let t := m % (2 * u)
  let (flip, t1) := if u < t then (true, t - u) else (false, t)
  let t2 := if u < 2 * t1 then u - t1 else t1
  let neg := s != flip
  if 2 * t2 = u then (if neg then 0xBF800000 else 0x3F800000, 0)
  else
    let v := sinPiFx (t2 * fxOne / u)
    settle f b (ivalOf (if neg then -v else v) 0)

/-- VSF of FP32 bits (R79, R80). -/
def vsf (f : SfOp) (b : BitVec 32) : BitVec 32 × Flags :=
  match num32 b with
  | .nan => (nan32, 0)
  | .inf s =>
    match f with
    | .exp2 | .exp => (if s then 0 else inf32 false, 0)
    | .log2 | .ln => if s then (nan32, NV) else (inf32 false, 0)
    | .sigmoid => (if s then 0 else one32, 0)
    | .tanh => (if s then 0xBF800000 else one32, 0)
    | .silu => (if s then zero32 true else inf32 false, 0)
    | .softplus => (if s then 0 else inf32 false, 0)
    | .sinpi | .cospi => (nan32, NV)
  | .fin s m e =>
    let x : Num := .fin s m e
    match f with
    | .exp2 =>
      if !x.ltInt 128 then (inf32 false, OF ||| NX)
      else if x.ltInt (-149) then (0, UF ||| NX)
      else if isInteger m e then
        round32 (.fin false 1 (fixOf s m e / Int.ofNat fxOne))
      else settle f.code b (exp2Ival (fixOf s m e))
    | .exp =>
      if m = 0 then (one32, 0)
      else if x.ltInt (-104) then (0, UF ||| NX)
      else if x.gtInt 89 then (inf32 false, OF ||| NX)
      else settle f.code b (expIval (fixOf s m e))
    | .log2 =>
      if m = 0 then (inf32 true, DZ)
      else if s then (nan32, NV)
      else if isPow2 m then round32 (intNum (e + Int.ofNat (bitLen m - 1)))
      else settle f.code b (ivalOf (log2Fx m e) 0)
    | .ln =>
      if m = 0 then (inf32 true, DZ)
      else if s then (nan32, NV)
      else if b = one32 then (0, 0)
      else settle f.code b (ivalOf (lnFx m e) 0)
    | .sigmoid =>
      if m = 0 then (0x3F000000, 0)
      else if x.gtInt 88 then (one32, NX)
      else if x.ltInt (-104) then (0, UF ||| NX)
      else settle f.code b ((expIval (fixOf s m e)).map (fun t => t.divSticky (addOne t)))
    | .tanh =>
      if m = 0 then (b, 0)
      else if x.gtInt 10 then (one32, NX)
      else if x.ltInt (-10) then (0xBF800000, NX)
      else
        let i := (expIval (fixOf false (2 * m) e)).map (fun t => (subOne t).divSticky (addOne t))
        settle f.code b (if s then i.map Num.neg else i)
    | .silu =>
      if m = 0 then (b, 0)
      else if x.gtInt 88 then (b, NX)
      else if x.ltInt (-109) then (zero32 true, UF ||| NX)
      else settle f.code b ((expIval (fixOf s m e)).map (fun t => ((x.mul t).1).divSticky (addOne t)))
    | .softplus =>
      if x.gtInt 32 then (b, NX)
      else if x.ltInt (-104) then (0, UF ||| NX)
      else
        let ln1 := fun (t : Num) => match addOne t with | .fin _ n g => lnFx n g | _ => 0
        let i := expIval (fixOf s m e)
        settle f.code b ((ivalOf (ln1 i.1) 0).1, (ivalOf (ln1 i.2) 0).2)
    | .sinpi =>
      if m = 0 then (b, 0)
      else if isInteger m e then (zero32 s, 0)
      else sinpiFin b f.code s m e
    | .cospi =>
      if isInteger m e then
        let n := fixOf false m e / Int.ofNat fxOne
        (if n % 2 = 0 then one32 else 0xBF800000, 0)
      else
        let u := 2 ^ (-e - 1).toNat
        if m % u = 0 then (0, 0) else sinpiFin b f.code false (m + u) e

/-- The factor of a log-decay value (R77). -/
def fade (b : BitVec 32) : BitVec 32 × Flags :=
  match num32 b with
  | .nan => (nan32, NV)
  | .inf s => if s then (0, FD) else (nan32, NV)
  | .fin s m e =>
    let x : Num := .fin s m e
    if !x.ltInt 128 then (inf32 false, OF ||| NX)
    else if x.ltInt (-149) then (0, FD)
    else if m = 0 then (one32, 0)
    else if isInteger m e then round32 (.fin false 1 (fixOf s m e / Int.ofNat fxOne))
    else
      settle 0 b (exp2Ival (fixOf s m e))

/-- VRCP (R81): a saturated reciprocal of a finite value sets OF, and NX by R65; an inexact subnormal UF and NX. -/
def vrcp32 (b : BitVec 32) : BitVec 32 × Flags :=
  match num32 b with
  | .nan => (nan32, 0)
  | .inf s => (zero32 s, 0)
  | .fin s m e =>
    if m = 0 then (inf32 s, DZ)
    else
      let (r, f) := round32 (numOne.divSticky (.fin s m e))
      -- 1/|x| above MAX: the rounding without a bound on the exponent is at least 2^128, or the quotient exceeds MAX
      if (num32 0x7F7FFFFF).lt (numOne.divSticky (.fin false m e)) then
        (if s then 0xFF7FFFFF else 0x7F7FFFFF, OF ||| NX)
      else (r, f)

/-- VRSQ (R82). -/
def vrsq32 (b : BitVec 32) : BitVec 32 × Flags :=
  match num32 b with
  | .nan => (nan32, 0)
  | .inf s => if s then (nan32, NV) else (0, 0)
  | .fin s m e =>
    if m = 0 then (inf32 s, DZ)
    else if s then (nan32, NV)
    else round32 (rsqrtSticky m e)

end Sys2Proof.Machine
end

