-- ==== Sys2Proof/Machine/Operands.lean ====
section
/-!
DEFINITION. Operand forms of the engines: shape records and their checks (R92 to R95), element formats (R53 to R58, R93), linear,
plane-packed and accumulator placement of elements (R87, R93, R97, R241, R251) with poison (R126, R239), tile and mask names
(R87 to R91).
-/
namespace Sys2Proof.Machine

/-! ## Shape records (R92) -/

/-- The fields of a shape record. -/
structure Shape where
  reserved : Bool
  ilv : Nat
  fmt : Nat
  space : Nat
  stride : Nat
  cols : Nat
  rows : Nat
  base : Nat
  deriving DecidableEq, Repr

/-- A record taken apart (R92). -/
def shapeFields (r : ShapeRec) : Shape :=
  { reserved := fldN r 120 8 ≠ 0 || fldN r 86 24 ≠ 0 || fldN r 43 4 ≠ 0 || fldN r 22 10 ≠ 0
    ilv := fldN r 117 3, fmt := fldN r 112 5, space := fldN r 110 2, stride := fldN r 64 22, cols := fldN r 47 17,
    rows := fldN r 32 11, base := fldN r 0 22 }

/-- Bits of an element (R93). -/
def fmtBits (f : Nat) : Nat :=
  match f with
  | 0 => 32 | 1 => 16 | 2 => 16 | 3 => 8 | 4 => 8 | 5 => 4 | 6 => 8 | 7 => 32 | 8 => 64 | 9 => 8 | 10 => 8 | 11 => 4
  | 12 => 8 | 13 => 64 | _ => 32

/-- The row size in bytes (R93). -/
def Shape.rowBytes (h : Shape) : Nat := (h.cols * fmtBits h.fmt + 7) / 8

/-- Accumulator rows of a record in its layout: two to a row of pairs (R251). -/
def Shape.accRows (h : Shape) : Nat := if h.fmt = 13 then 2 * h.rows else h.rows

/-- Bytes from BASE to the end of the last row in scratchpad. -/
def Shape.extent (h : Shape) : Nat := (h.rows - 1) * h.stride + h.rowBytes

/-- Scratchpad space, accumulator space, linear scratchpad. -/
def Shape.inScr (h : Shape) : Bool := h.space == 0
def Shape.inAcc (h : Shape) : Bool := h.space == 1
def Shape.linear (h : Shape) : Bool := h.inScr && h.ilv == 0

/-- The formats a plane-packed record may have (R95). -/
def planeFmt (f : Nat) : Bool := f == 1 || (3 ≤ f && f ≤ 6) || (9 ≤ f && f ≤ 12)

/-- The checks of R95 in its order, for a context; agreement belongs to each form. -/
def shapeTrap (h : Shape) (dest : Bool) (c : Ctx) : Option TrapCode :=
  if h.reserved || 14 < h.fmt || 4 < h.ilv || 1 < h.space || h.rows == 0 || h.cols == 0 || 1024 < h.rows then
    some .shapeInvalid
  else if h.inScr && (h.base % (if h.ilv = 0 then 4 else 64) != 0 || h.stride % (if h.ilv = 0 then 4 else 64) != 0) then
    some .shapeInvalid
  else if h.ilv == 1 && (!planeFmt h.fmt || h.rows % 64 != 0 || h.cols % 64 != 0) then some .shapeInvalid
  else if h.inAcc && (h.stride != 0 || h.ilv != 0 || 64 < h.cols || !(h.fmt == 0 || h.fmt == 7 || h.fmt == 13)) then
    some .shapeInvalid
  else if dest && h.inScr && 1 < h.rows && h.stride < h.rowBytes then some .shapeInvalid
  else if h.inScr && c.scrSize < h.base + h.extent then some .shapeBounds
  else if h.inAcc && 64 * c.csr.dslots < h.base + h.accRows then some .shapeBounds
  else none

/-- The shape-record number as a trap value (R372). -/
def hVal (h : Reg4) : Word := zext64 h

/-- A named record of the executing context, checked by R95. -/
def recordOf (s : State) (h : Reg4) (dest : Bool) (c : Ctx) (r : ShapeRec) : Res Shape :=
  match shapeTrap (shapeFields r) dest c with
  | some t => trapAt s t (hVal h)
  | none => .ok (shapeFields r)

/-- The rows of a record as bytes of its space: the first row's address, the step to the next, their count, bytes of each. -/
def Shape.spans (h : Shape) : Nat × Nat × Nat × Nat :=
  if h.inAcc then (256 * h.base, 256, h.accRows, 4 * h.cols) else (h.base, h.stride, h.rows, h.rowBytes)

/-- A row of a record has a byte in `lo` to `hi - 1`: the first row that ends after `lo` begins before `hi`. -/
def Shape.hits (h : Shape) (lo hi : Nat) : Bool :=
  let (start, step, count, bytes) := h.spans
  let i := if lo < start + bytes then 0 else if step = 0 then count else (lo - start - bytes) / step + 1
  decide (i < count) && decide (start + i * step < hi) && decide (lo < hi)

/-- The bytes of two records' rows meet (R236, R270). -/
def Shape.overlaps (a b : Shape) : Bool :=
  a.space == b.space &&
  (let (start, step, count, bytes) := b.spans
   (List.range count).any (fun i => a.hits (start + i * step) (start + i * step + bytes)))

/-! ## Element values (R53 to R58) -/

/-- The floating-point format of an FMT code, MX elements included. -/
def fpOf (f : Nat) : Option Fmt :=
  match f with
  | 0 => some fp32 | 1 => some bf16 | 2 => some fp16 | 3 => some e4m3 | 4 => some e5m2 | 5 => some fp4
  | 9 => some e4m3 | 10 => some e5m2 | 11 => some fp4 | 14 => some fp32 | _ => none

/-- An MX format (R58). -/
def isMX (f : Nat) : Bool := 9 ≤ f && f ≤ 12

/-- The exact value of an element's bits, without block scale. -/
def elemNum (f : Nat) (bits : Nat) : Num :=
  match fpOf f with
  | some g => decodeFp g bits
  | none =>
    match f with
    | 6 => intNum (toSigned 8 bits)
    | 7 => intNum (toSigned 32 bits)
    | 8 => intNum (toSigned 64 bits)
    | 12 => match intNum (toSigned 8 bits) with | .fin s m _ => .fin s m (-6) | x => x
    | _ => .nan

/-- A value times 2^x. -/
def Num.scale (x : Num) (n : Int) : Num := match x with | .fin s m e => .fin s m (e + n) | y => y

/-- A value times an E8M0 scale (R57, R58). -/
def applyScale (x : Num) (e : Nat) : Num := if e = 255 then .nan else x.scale (Int.ofNat e - 127)

/-! ## Engine memory: the pool and the accumulator of a core, seen from a context -/

/-- The memories an engine entry reads and writes: the core's pool and accumulator, where the context's scratchpad part and row 0
begin. -/
structure EMem where
  pool : Mem
  acc : Mem
  scr : Nat
  row0 : Nat
  deriving DecidableEq, Repr

/-- The engine memory of a context. -/
def State.emem (s : State) (k : CtxId) : EMem :=
  { pool := (s.core (coreOf k)).pool, acc := (s.core (coreOf k)).acc, scr := (s.ctx k).scrStart, row0 := s.accBase k }

/-- The engine memory put back by the agent of the present turn; what it changes in the pool is noted. -/
def State.putEmem (s : State) (k : CtxId) (m : EMem) : State :=
  let old := (s.core (coreOf k)).pool
  (s.setCore (coreOf k) { s.core (coreOf k) with pool := m.pool, acc := m.acc }).note s.writer
    (fun sp a n => decide (sp = .pool (coreOf k)) && (List.range n).any (fun i => decide (old.get (a + i) ≠ m.pool.get (a + i))))

/-- The byte address of an element of a linear record, and its half of the byte for 4-bit elements. -/
def Shape.elemAt (h : Shape) (r c : Nat) : Nat × Bool :=
  (h.base + r * h.stride + c * fmtBits h.fmt / 8, fmtBits h.fmt == 4 && c % 2 == 1)

/-- Bytes of the pool as a number with poison. -/
def poolNat (m : Mem) (a n : Nat) : Nat × Bool := let b := m.read a n; (bytesNat b, anyPoison b)

/-- The byte address of an accumulator row and column. -/
def accAddr (row0 row col : Nat) : Nat := row0 + 256 * row + 4 * col

/-- An element of a record: its bits (a pair has hi in the low half) and poison (R93, R251). -/
def EMem.get (m : EMem) (h : Shape) (r c : Nat) : Nat × Bool :=
  if h.inAcc then
    if h.fmt = 13 then
      let (hi, p) := poolNat m.acc (accAddr m.row0 (h.base + 2 * r) c) 4
      let (lo, q) := poolNat m.acc (accAddr m.row0 (h.base + 2 * r + 1) c) 4
      (hi + lo * 2 ^ 32, p || q)
    else poolNat m.acc (accAddr m.row0 (h.base + r) c) 4
  else
    let (a, half) := h.elemAt r c
    if fmtBits h.fmt = 4 then
      let (v, p) := poolNat m.pool (m.scr + a) 1
      (if half then v / 16 else v % 16, p)
    else poolNat m.pool (m.scr + a) (fmtBits h.fmt / 8)

/-- One half of a byte written: a poisoned byte stays poisoned (R126). -/
def setHalf (m : Mem) (a : Nat) (half : Bool) (v : Nat) (p : Bool) : Mem :=
  let b := m.get a
  let x := if half then b.val.toNat % 16 + 16 * (v % 16) else b.val.toNat / 16 * 16 + v % 16
  m.set a { val := BitVec.ofNat 8 x, poison := b.poison || p }

/-- An element of a record written. -/
def EMem.set (m : EMem) (h : Shape) (r c v : Nat) (p : Bool) : EMem :=
  if h.inAcc then
    if h.fmt = 13 then
      let a1 := m.acc.write (accAddr m.row0 (h.base + 2 * r) c) (pbytes p (leBytes 4 v))
      { m with acc := a1.write (accAddr m.row0 (h.base + 2 * r + 1) c) (pbytes p (leBytes 4 (v / 2 ^ 32))) }
    else { m with acc := m.acc.write (accAddr m.row0 (h.base + r) c) (pbytes p (leBytes 4 v)) }
  else
    let (a, half) := h.elemAt r c
    if fmtBits h.fmt = 4 then { m with pool := setHalf m.pool (m.scr + a) half v p }
    else { m with pool := m.pool.write (m.scr + a) (pbytes p (leBytes (fmtBits h.fmt / 8) v)) }

/-- One element of a row with its column. -/
abbrev ColVal := Nat × Nat × Bool

/-- The bytes of 4-bit elements of which one act writes both halves start clean (R126). -/
def clearPairs (m : EMem) (h : Shape) (r : Nat) : List ColVal → EMem
  | (c1, _) :: (c2, x) :: l =>
    let m1 := if c1 % 2 == 0 && c2 == c1 + 1 then
        { m with pool := m.pool.set (m.scr + (h.elemAt r c1).1) { val := 0, poison := false } } else m
    clearPairs m1 h r ((c2, x) :: l)
  | _ => m

/-- Elements of one row written by one act; columns rise. -/
def EMem.setRow (m : EMem) (h : Shape) (r : Nat) (l : List ColVal) : EMem :=
  let m1 := if h.inScr && fmtBits h.fmt == 4 then clearPairs m h r l else m
  l.foldl (fun m x => m.set h r x.1 x.2.1 x.2.2) m1

/-- A row's elements, columns 0 to n - 1. -/
def EMem.row (m : EMem) (h : Shape) (r n : Nat) : List (Nat × Bool) := (List.range n).map (fun c => m.get h r c)

/-- Values put to columns 0, 1, ... -/
def withCols (l : List (Nat × Bool)) : List ColVal := (List.range l.length).zip l

/-- An element of a plane-packed tile: bit p of element (i, j) of tile (tr, tc) is bit j mod 8 of byte 8 p + j div 8 of the row's
segment (R241). -/
def planeElem (m : EMem) (h : Shape) (tr tc i j : Nat) : Nat × Bool :=
  let b := fmtBits h.fmt
  let seg := m.scr + h.base + (64 * tr + i) * h.stride + 8 * b * tc
  (List.range b).foldl (fun acc p =>
    let x := m.pool.get (seg + 8 * p + j / 8)
    (acc.1 + (if x.val.getLsbD (j % 8) then 2 ^ p else 0), acc.2 || x.poison)) (0, false)

/-! ## Pairs -/

/-- The two halves of a pair's bits. -/
def pairHi (v : Nat) : BitVec 32 := BitVec.ofNat 32 v
def pairLo (v : Nat) : BitVec 32 := BitVec.ofNat 32 (v / 2 ^ 32)
/-- A pair's bits. -/
def pairBits (p : BitVec 32 × BitVec 32) : Nat := p.1.toNat + p.2.toNat * 2 ^ 32

/-! ## Tiles and masks (R87 to R91) -/

/-- The physical tile a name stands for (R90). -/
def Ctx.physTile (c : Ctx) (r : Reg5) : Nat :=
  if r.toNat < 16 then r.toNat else 16 + (r.toNat - 16 + c.csr.vrb.toNat) % 16
/-- The physical mask a name stands for; 0 is m0. -/
def Ctx.physMask (c : Ctx) (m : Reg3) : Nat :=
  if m.toNat < 4 then m.toNat else 4 + (m.toNat - 4 + c.csr.vrb.toNat) % 4
/-- A named tile exists (R88). -/
def Ctx.tileOk (c : Ctx) (r : Reg5) : Bool := decide (r.toNat < c.csr.tiles)

/-- A physical tile. -/
def Ctx.tile (c : Ctx) (n : Nat) : Tile := c.tiles[n % 32]'(by omega)
/-- A physical tile written. -/
def Ctx.setTile (c : Ctx) (n : Nat) (t : Tile) : Ctx := { c with tiles := c.tiles.set (n % 32) t (by omega) }
/-- A physical mask; m0 reads all ones (R87). -/
def Ctx.mask (c : Ctx) (n : Nat) : LMask := if n % 8 = 0 then BitVec.allOnes 1024 else c.masks[n % 8]'(by omega)
/-- A physical mask written; a write to m0 is discarded. -/
def Ctx.setMask (c : Ctx) (n : Nat) (v : LMask) : Ctx :=
  if n % 8 = 0 then c else { c with masks := c.masks.set (n % 8) v (by omega) }

/-- Lane (r, c) of a tile (R87). -/
def laneAt (t : Tile) (r c : Nat) : Lane := t[(64 * r + c) % 1024]'(by omega)
/-- A tile given lane by lane. -/
def tileOf (f : Nat → Nat → Lane) : Tile := Vector.ofFn (fun i : Fin 1024 => f (i.val / 64) (i.val % 64))
/-- A mask bit. -/
def maskBit (m : LMask) (r c : Nat) : Bool := m.getLsbD (64 * r + c)
/-- A mask given lane by lane. -/
def maskOf (f : Nat → Nat → Bool) : LMask := BitVec.ofBoolListLE ((List.range 1024).map (fun i => f (i / 64) (i % 64))) |>.setWidth 1024

end Sys2Proof.Machine
end

