-- ==== Sys2Proof/Machine/Format.lean ====
section
/-!
DEFINITION. Conversions of the engines between FP32 lanes, pairs and element formats: quantisation to MX blocks (R59), the rounded
store of a value in an element format (R60, R63, R253, R275), frames (R70), and the widening of narrow elements (R55).
-/
namespace Sys2Proof.Machine

/-- An unsigned encoding of an integer in `n` bits. -/
def ofInt (n : Nat) (v : Int) : Nat := (BitVec.ofInt n v).toNat

/-- emax_elem of an MX format (R59). -/
def mxEmax (f : Nat) : Int := match f with | 9 => 8 | 10 => 15 | 11 => 2 | _ => 0

/-- floor(log2 |x|) of a non-zero finite value. -/
def floorLog2 (x : Num) : Option Int :=
  match x with
  | .fin _ m e => if m = 0 then none else some (Int.ofNat (bitLen m) - 1 + e)
  | _ => none

/-- The largest of optional exponents. -/
def maxLog2 (l : List Num) : Option Int :=
  l.foldl (fun acc x => match acc, floorLog2 x with
    | some a, some b => some (max a b)
    | some a, none => some a
    | none, y => y) none

/-- Quantisation of a block (R59): scale, element bits, flags. -/
def quantise (f : Nat) (xs : List Num) : Nat × List Nat × Flags :=
  if xs.any (fun x => !x.isFin) then (0xFF, xs.map (fun _ => 0), NV)
  else
    let x := match maxLog2 xs with
      | none => -127
      | some l => max (-127) (min 127 (l - mxEmax f))
    let conv := fun (v : Num) =>
      if f = 12 then
        let (i, g) := toIntClamp .rne (-128) 127 (v.scale (6 - x))
        (ofInt 8 i, g)
      else
        match fpOf f with
        | some g => roundFp g .rne true (v.scale (-x))
        | none => (0, 0)
    let rs := xs.map conv
    ((x + 127).toNat, rs.map (·.1), rs.foldl (fun acc r => acc ||| r.2) 0)

/-- Element bits widened to an FP32 lane, exactly (R55, R274). -/
def widen32 (f : Nat) (bits : Nat) : BitVec 32 := (round32 (elemNum f bits)).1

/-- A value rounded once to a floating-point element format. -/
def roundElem (f : Nat) (md : RMode) (sat : Bool) (x : Num) : Nat × Flags :=
  match fpOf f with
  | some g => roundFp g md sat x
  | none => (0, 0)

/-- to_frame of R70 by the frame format 0 BF16, 1 FP32, 2 pair: the element's bits. -/
def toFrame (f : Nat) (hi lo : BitVec 32) : Nat × Flags :=
  match f with
  | 0 => let (x, g) := pairSum hi lo; let (b, h) := roundFp bf16 .rne false x; (b, g ||| h)
  | 1 => let (x, g) := pairSum hi lo; let (b, h) := roundFp fp32 .rne false x; (b, g ||| h)
  | _ => let (p, g) := pairNorm hi lo; (pairBits p, g)

/-- The canonical NaN in place of a NaN. -/
def canon32 (b : BitVec 32) : BitVec 32 := if isNan32 b then nan32 else b

/-- Expansion of a stored frame element (R70, R436). -/
def fromFrame (f : Nat) (bits : Nat) : BitVec 32 × BitVec 32 :=
  match f with
  | 0 => (widen32 1 bits, 0)
  | 1 => (canon32 (BitVec.ofNat 32 bits), 0)
  | _ => if isNan32 (pairHi bits) then (nan32, 0) else (pairHi bits, canon32 (pairLo bits))

/-- Bytes of a stored frame element. -/
def frameBytes (f : Nat) : Nat := match f with | 0 => 2 | 1 => 4 | _ => 8

end Sys2Proof.Machine
end

