-- ==== Sys2Proof/Machine/OchreGraph.lean ====
section
/-!
DEFINITION. Ochre graphs: cells (R318, R319), images and their checks (R320, R321, R323), evaluation of a lane (R322, R331) with
poison (R271).
-/
namespace Sys2Proof.Machine

/-- Sources an operation takes (R318); none for a reserved code. -/
def opSources (op : Nat) : Option Nat :=
  if op ≤ 6 then some 2 else if op = 7 then some 3 else if op = 8 then some 1 else none

/-- The latency of an operation (R318). -/
def opLatency (op : Nat) : Nat := match op with | 0 => 2 | 1 => 2 | 8 => 3 | _ => 1

/-- A selector names a source of node `idx` of a graph with `nin` inputs (R321). -/
def selectorOk (idx nin sel : Nat) : Bool :=
  decide (sel < 0x20 ∧ sel < idx) || (decide (0x20 ≤ sel) && decide (sel < 0x20 + nin) && decide (sel < 0x24))
    || sel == 0x30 || sel == 0x31

/-- The three selectors of a node. -/
def ONode.srcs (n : ONode) : List Nat := [n.src0, n.src1, n.src2]

/-- A node is valid (R323). -/
def nodeOk (idx nin nlut : Nat) (n : ONode) : Bool :=
  match opSources n.op with
  | none => false
  | some k =>
    (List.range 3).all (fun i =>
      let sel := n.srcs.getD i 0x3F
      if i < k then selectorOk idx nin sel else sel == 0x3F)
    && (if n.op = 8 then decide (n.luti < nlut) else n.luti == 0)

/-- Path lengths of the nodes, in order (R323). -/
def pathLens (nodes : List ONode) : List Nat :=
  nodes.foldl (fun acc n =>
    let m := n.srcs.foldl (fun a sel => if sel < 0x20 then max a (acc.getD sel 0) else a) 0
    acc ++ [opLatency n.op + m]) []

/-- The path length of a graph. -/
def pathLen (nodes : List ONode) (outs : List Nat) : Nat :=
  let l := pathLens nodes
  outs.foldl (fun a sel => if sel < 0x20 then max a (l.getD sel 0) else a) 0

/-- A node of 16 bytes (R321), and whether a reserved field is set. -/
def parseNode (b : List PByte) : ONode × Bool :=
  let w : BitVec 128 := BitVec.ofNat 128 (bytesNat b)
  ({ op := fldN w 0 4, src0 := fldN w 8 8, src1 := fldN w 16 8, src2 := fldN w 24 8, luti := fldN w 32 2,
     k0 := fld w 64 32, k1 := fld w 96 32 }, fldN w 4 4 ≠ 0 || fldN w 34 30 ≠ 0)

/-- `n` pieces of `k` bytes. -/
def pieces {α : Type} (k : Nat) : Nat → List α → List (List α)
  | 0, _ => []
  | n + 1, l => l.take k :: pieces k n (l.drop k)

/-- A byte of a list as a number. -/
def byteAt (l : List PByte) (i : Nat) : Nat := ((l.getD i { val := 0, poison := false }).val).toNat
/-- A little-endian field of a byte list. -/
def fieldAt (l : List PByte) (off n : Nat) : Nat := bytesNat ((l.drop off).take n)

/-- SIZE in an image's header (R320). -/
def imageSize (b : List PByte) : Nat := fieldAt b 4 4

/-- The graph an image holds, checked by R323 against the descriptor; `b` is the 16-byte header and SIZE bytes of body. -/
def parseGraph (b : List PByte) (lat nin nout : Nat) : Option OGraph :=
  let body := b.drop 16
  let nnode := byteAt body 0
  let nlut := byteAt body 1
  let out0 := byteAt body 2
  let out1 := byteAt body 3
  let parsed := (pieces 16 nnode (body.drop 16)).map parseNode
  let nodes := parsed.map (·.1)
  let luts := (pieces 1024 nlut (body.drop (16 + 16 * nnode))).map
    (fun t => (pieces 4 256 t).map (fun e => BitVec.ofNat 32 (bytesNat e)))
  let outOk := fun sel => decide (sel < 0x20 ∧ sel < nnode) || (decide (0x20 ≤ sel) && decide (sel < 0x20 + nin))
  let ok := !anyPoison b
    && decide (1 ≤ nnode) && decide (nnode ≤ 32) && decide (nlut ≤ 2)
    && imageSize b == 16 + 16 * nnode + 1024 * nlut
    && byteAt b 8 == lat && byteAt b 9 == nin && byteAt b 10 == nout
    && fieldAt b 11 5 == 0 && fieldAt body 4 12 == 0
    && parsed.all (fun x => !x.2)
    && (List.range nnode).all (fun i => match nodes[i]? with | some n => nodeOk i nin nlut n | none => false)
    && outOk out0 && (if nout = 1 then out1 == 0x3F else outOk out1)
    && decide (pathLen nodes (if nout = 1 then [out0] else [out0, out1]) ≤ lat)
  if ok then some { nodes := nodes, luts := luts, out0 := out0, out1 := out1 } else none

/-- A value on its way through a graph: bits, poison. -/
abbrev OVal := BitVec 32 × Bool

/-- 1.0 or +0 (R318). -/
def truth (b : Bool) : BitVec 32 := if b then one32 else 0

/-- The table index of a lut node (R319). -/
def lutIndex (x k0 k1 : BitVec 32) : Nat :=
  match num32 (add32 (mul32 x k0).1 k1).1 with
  | .nan => 0
  | .inf s => if s then 0 else 255
  | .fin s m e => (max 0 (min 255 (roundInt .rd s m e).1)).toNat

/-- One cell (R318, R319): its result and flags. -/
def cell (g : OGraph) (n : ONode) (a b c : BitVec 32) : BitVec 32 × Flags :=
  match n.op with
  | 0 => add32 a b
  | 1 => mul32 a b
  | 2 => (min32 a b, 0)
  | 3 => (max32 a b, 0)
  | 4 => (truth ((num32 a).lt (num32 b)), 0)
  | 5 => (truth ((num32 a).lt (num32 b) || (num32 a).eqv (num32 b)), 0)
  | 6 => (truth ((num32 a).eqv (num32 b)), 0)
  | 7 => (canon32 (if isNan32 a || (num32 a).eqv (.fin false 0 0) then c else b), 0)
  | _ =>
    if isNan32 a then (nan32, 0)
    else (canon32 ((g.luts.getD n.luti []).getD (lutIndex a n.k0 n.k1) 0), 0)

/-- The value of a selector. -/
def pick (n : ONode) (ins vals : List OVal) (sel : Nat) : OVal :=
  if sel < 0x20 then vals.getD sel (0, false)
  else if sel < 0x30 then ins.getD (sel - 0x20) (0, false)
  else if sel = 0x30 then (n.k0, false)
  else if sel = 0x31 then (n.k1, false)
  else (0, false)

/-- The graph on one lane: both outputs and the flags (R322). -/
def evalGraph (g : OGraph) (ins : List OVal) : OVal × OVal × Flags :=
  let r := g.nodes.foldl (fun (acc : List OVal × Flags) n =>
    let a := pick n ins acc.1 n.src0
    let b := pick n ins acc.1 n.src1
    let c := pick n ins acc.1 n.src2
    let (v, f) := cell g n a.1 b.1 c.1
    (acc.1 ++ [(v, a.2 || b.2 || c.2)], acc.2 ||| f)) ([], 0)
  let out := fun sel => if sel < 0x20 then r.1.getD sel (0, false) else ins.getD (sel - 0x20) (0, false)
  (out g.out0, out g.out1, r.2)

end Sys2Proof.Machine
end

