-- ==== Sys2Proof/Machine/Queue.lean ====
section
/-!
DEFINITION. Dispatch of engine instructions (R26, R27, R86, R91, R96, R159): the wait for room, the checks, the entry with
everything it captures.
-/
namespace Sys2Proof.Machine

/-- What a form's checks give: the operation, the change to the dispatch views, and the VX number of an oload to wait for. -/
structure Dispatched where
  op : EngineOp
  view : Ctx → Ctx
  waitVx : Option (BitVec 32)

/-- A form that changes no view. -/
def plainOp (op : EngineOp) : Dispatched := { op := op, view := id, waitVx := none }

/-- The entry of an operation at its dispatch. -/
def newEntry (c : Ctx) (q : EngineQ) (dep : Dep) (x : Dispatched) : Entry :=
  { op := x.op, dep := dep, seq := (c.queue q).next, ord := c.dispatched, nctl := c.csr.nctl, waitVx := x.waitVx,
    started := false, done := false, pushP := depSP dep, pushN := depSN dep, flags := 0, report := none,
    parked := false, held := 0, drop := false, goff := 0, fail := 0, failMask := 0, delivered := 0, dead := false,
    zeroFrom := none, claim := none, slot := none, onEngine := false, todo := [], ahead := [], into := [] }

/-- The head of a queue begins to wait (R40). -/
def Ctx.headNew (c : Ctx) (q : EngineQ) (now : Nat) : Ctx := { c with headSince := c.headSince.set q.idx.val now }

/-- The entry goes to the tail of its queue (R26, R27); in an empty queue it is the head from now on. -/
def Ctx.enqueue (c : Ctx) (q : EngineQ) (dep : Dep) (x : Dispatched) (now : Nat) : Ctx :=
  let e := newEntry c q dep x
  let c1 := if c.qEmpty q then c.headNew q now else c
  x.view { (c1.setQueue q { entries := (c.queue q).entries ++ [e], next := (c.queue q).next + 1 }) with
    dispatched := c.dispatched + 1 }

/-- An engine word: it waits for room in its queue, is checked, and dispatched (R26). -/
def dispatch (q : EngineQ) (dep : Dep) (chk : Res Dispatched) (s : State) : Out :=
  if (s.ctx s.cur).qFull q then .next s
  else finish s (do
    let x ← chk
    .ok (s.modCtx s.cur (fun c => (c.enqueue q dep x s.clock).advance 0)))

/-- The VX sequence number of the newest oload that captured a plane of a slot and has not completed (R326). -/
def pendingOload (slot : Fin 16) (plane : Fin 2) : List Entry → Option (BitVec 32)
  | [] => none
  | e :: r =>
    match pendingOload slot plane r with
    | some n => some n
    | none =>
      match e.op with
      | .oload n t _ _ _ _ => if n = slot ∧ t = plane ∧ !e.done then some e.seq else none
      | _ => none

/-- The oload that still has to fill a captured plane (R326). -/
def Ctx.oloadFor (c : Ctx) (slot : Fin 16) (plane : Fin 2) : Option (BitVec 32) :=
  pendingOload slot plane (c.queue .vx).entries

/-- Check 7 of R159 for tile names: ILLEGAL_REGISTER with the word (R88). -/
def tilesOk (s : State) (i : Instr) (l : List Reg5) : Res Unit :=
  need s (l.all (s.ctx s.cur).tileOk) .illegalRegister (wordOf i)

/-- A record of the executing context by number. -/
def record (s : State) (h : Reg4) (dest : Bool) : Res Shape :=
  recordOf s h dest (s.ctx s.cur) ((s.ctx s.cur).shape h)

/-- The raw record an entry copies (R96). -/
def rawShape (s : State) (h : Reg4) : ShapeRec := (s.ctx s.cur).shape h

/-- SHAPE_MISMATCH unless a rule of the form holds. -/
def agree (s : State) (h : Reg4) (b : Bool) : Res Unit := need s b .shapeMismatch (hVal h)
/-- ILLEGAL_OPERAND unless a limit of the form holds. -/
def operandOk (s : State) (b : Bool) : Res Unit := need s b .illegalOperand 0

/-- An own-core scratchpad or private pointer to `size` bytes with an alignment, for mscl, vmsk and oload: the scratchpad-part
offset. R107 first, then the window limits, bounds and alignment (R236, R246, R270, R328). -/
def ownPointer (s : State) (ptr : Word) (size align : Nat) : Res Nat :=
  let c := s.ctx s.cur
  if malformed ptr then trapAt s .addressInvalid ptr
  else match windowOf ptr with
    | .priv o =>
      if c.privSize < o + size then trapAt s .windowBounds ptr
      else if o % align ≠ 0 then trapAt s .misaligned ptr
      else .ok (c.privStart + o - c.scrStart)
    | .scr core o =>
      if core ≠ coreOf s.cur then trapAt s .foreignScratch ptr
      else if o < c.scrStart || c.scrStop < o + size then trapAt s .windowBounds ptr
      else if o % align ≠ 0 then trapAt s .misaligned ptr
      else .ok (o - c.scrStart)
    | _ => trapAt s .illegalOperand 0

end Sys2Proof.Machine
end

