-- ==== Sys2Proof/Machine/LoadStore.lean ====
section
/-!
DEFINITION. Loads, stores and atomics of the FE (R184 to R188), with scopes (R117, R125) and poison (R126). A load takes its value from
the context's view of memory (R120); an acquire meets the releases whose value it reads (R121).
-/
namespace Sys2Proof.Machine

/-- A scope code is 0 to 4 (R117). -/
def scopeLegal (c : BitVec 3) : Bool := decide (c.toNat ≤ 4)

/-- A load from a host window is sent to the host, which answers later (R444). -/
def sendLoad (off : Nat) (acq : Bool) (d : Reg5) (signed : Bool) (size a : Nat) (s : State) : State :=
  s.modCtx s.cur (fun c =>
    { c with hostLoads := c.hostLoads ++ [({ acq := acq, d := d, addr := a, size := size, signed := signed } : HostLoad)] }.advance off)

/-- A load takes its value at once. -/
def loadNow (off : Nat) (d : Reg5) (signed : Bool) (size : Nat) (sp : Space) (a : Nat) (s : State) : State :=
  let b := viewBytes s s.cur sp a size
  s.modCtx s.cur (fun c => (loadResult c d signed size b).advance off)

/-- A plain load of `size` bytes from an address: a host window answers later (R444), and a context that defers its loads performs
them behind later accesses (R120). -/
def loadAt (off : Nat) (d : Reg5) (signed : Bool) (size : Nat) (addr : Word) (s : State) : Res State := do
  let (s1, sp, a) ← feReach s addr size accLoad
  if sp = .host then .ok (sendLoad off false d signed size a s1)
  else
    let s2 := settleRange s1 s.cur sp a size
    if (s.ctx s.cur).defers && aheadSpace s.cur sp then
      .ok (s2.modCtx s.cur (fun c => { c with lateLoads := c.lateLoads ++
        [({ d := d, space := sp, addr := a, size := size, signed := signed, stamp := s.clock } : LateLoad)] }.advance off))
    else .ok (loadNow off d signed size sp a s2)

/-- A store of the low bytes of a register to an address; `rel` is the scope of a release store. One to a host window comes after
every access that precedes it (R120, R444). -/
def storeAt (off : Nat) (r : Reg5) (size : Nat) (addr : Word) (rel : Option Nat) (s : State) : Res State := do
  let (s1, sp, a) ← feReach s addr size accStore
  let c := s.ctx s.cur
  let s2 := if rel.isSome && sp == .host then flush s1 s.cur else s1
  let s3 := storeTo s2 s.cur sp a (leBytes size (c.reg r).toNat) (c.regPoison r) rel
  .ok (s3.modCtx s.cur (·.advance off))

/-- A plain load at base + offset x size (R184). -/
def load (off : Nat) (d b : Reg5) (signed : Bool) (size : Nat) (o : Word) (s : State) : Out :=
  finish s (do let x ← src s b; loadAt off d signed size (x + o * BitVec.ofNat 64 size) s)

/-- A plain store at base + offset x size (R184). -/
def store (off : Nat) (r b : Reg5) (size : Nat) (o : Word) (s : State) : Out :=
  finish s (do let x ← src s b; storeAt off r size (x + o * BitVec.ofNat 64 size) none s)

/-- The size of fn3 in the load and store majors, and whether it sign-extends (R154). -/
def loadForm (fn3 : Nat) : Nat × Bool :=
  match fn3 with
  | 0 => (1, true) | 1 => (2, true) | 2 => (4, true) | 3 => (8, true) | 4 => (1, false) | 5 => (2, false) | _ => (4, false)

def execLdB (d b : Reg5) (o : BitVec 9) (s : State) : Out := load 0 d b true 1 (sext64 o) s
def execLdH (d b : Reg5) (o : BitVec 9) (s : State) : Out := load 0 d b true 2 (sext64 o) s
def execLdW (d b : Reg5) (o : BitVec 9) (s : State) : Out := load 0 d b true 4 (sext64 o) s
def execLdD (d b : Reg5) (o : BitVec 9) (s : State) : Out := load 0 d b true 8 (sext64 o) s
def execLdBu (d b : Reg5) (o : BitVec 9) (s : State) : Out := load 0 d b false 1 (sext64 o) s
def execLdHu (d b : Reg5) (o : BitVec 9) (s : State) : Out := load 0 d b false 2 (sext64 o) s
def execLdWu (d b : Reg5) (o : BitVec 9) (s : State) : Out := load 0 d b false 4 (sext64 o) s
def execStB (r b : Reg5) (o : BitVec 9) (s : State) : Out := store 0 r b 1 (sext64 o) s
def execStH (r b : Reg5) (o : BitVec 9) (s : State) : Out := store 0 r b 2 (sext64 o) s
def execStW (r b : Reg5) (o : BitVec 9) (s : State) : Out := store 0 r b 4 (sext64 o) s
def execStD (r b : Reg5) (o : BitVec 9) (s : State) : Out := store 0 r b 8 (sext64 o) s

/-- The size of a 2-bit size field (R154). -/
def sizeOf2 (z : BitVec 2) : Nat := 2 ^ z.toNat

/-- The scope at which an act on an address is made: the one named, no wider than the window honours (R125). -/
def honoured (addr : Word) (c : BitVec 3) : Nat :=
  match windowOf addr with
  | .priv _ => 0
  | .scr _ _ => min c.toNat 1
  | .dsh _ _ => min c.toNat 3
  | .glob _ => c.toNat

/-- ldaq (R185): it reads at its issue and acquires from the releases whose value it reads (R121); from a host window it holds every
later access until the load completes (R120). -/
def execLdaq (d b : Reg5) (c : BitVec 3) (z : BitVec 2) (s : State) : Out :=
  finish s (if !scopeLegal c then illegal s (.ldaq d b c z)
    else do
      let x ← src s b
      let (s1, sp, a) ← feReach s x (sizeOf2 z) accLoad
      if sp = .host then .ok (sendLoad 0 true d false (sizeOf2 z) a s1)
      else
        let s2 := readNow s1 s.cur sp a (sizeOf2 z)
        .ok (acquireAt (loadNow 0 d false (sizeOf2 z) sp a s2) s.cur (honoured x c) sp a (sizeOf2 z)))

/-- An access of the context to a host window is still to complete: a release waits for it (R120, R444). -/
def Ctx.abroad (c : Ctx) : Bool := !c.hostLoads.isEmpty || !c.posted.isEmpty

/-- strl (R185): a store that releases at its scope, honoured as R125 says; an acquire that meets it comes after every earlier access
(R120, R121). -/
def execStrl (r b : Reg5) (c : BitVec 3) (z : BitVec 2) (s : State) : Out :=
  if scopeLegal c && (s.ctx s.cur).abroad then .next s
  else finish s (if !scopeLegal c then illegal s (.strl r b c z)
    else do
      let x ← src s b
      storeAt 0 r (sizeOf2 z) x (some (honoured x c)) s)

/-! ## Atomics (R186 to R188) -/

/-- The new value of an amo at `n` bytes (R186); values are below 2^(8 n). -/
def amoNew (op : Nat) (n old v : Nat) : Nat :=
  let m := 2 ^ (8 * n)
  let so := toSignedN n old
  let sv := toSignedN n v
  match op with
  | 0 => v
  | 1 => (old + v) % m
  | 2 => old &&& v
  | 3 => old ||| v
  | 4 => old ^^^ v
  | 5 => if so < sv then v else old
  | 6 => if so < sv then old else v
  | 7 => if old < v then v else old
  | _ => if old < v then old else v
where
  toSignedN (n v : Nat) : Int := if 2 ^ (8 * n - 1) ≤ v then Int.ofNat v - Int.ofNat (2 ^ (8 * n)) else Int.ofNat v

/-- The old value an atomic reads (R125): what its scope makes it indivisible against is performed, so that a word read ahead stands
only where what has overwritten it lies beyond the scope, and one cached on the die where the scope does not reach the other die. -/
def atomicSees (s : State) (k : CtxId) (sp : Space) (a n scope : Nat) : State :=
  let s1 := settleRange (flushRange s k sp a n) k sp a n
  { s1 with
    early := s1.early.filter (fun e => !(e.ctx == k && rangesMeet e.space e.addr 8 sp a n &&
      (match e.gone with | none => true | some p => decide (p.scope ≤ scope))))
    stale := if 3 ≤ scope then s1.stale.filter (fun x => !(x.seer == some (dieOf (coreOf k)) && rangesMeet .dmem x.addr 8 sp a n))
             else s1.stale }

/-- The write of an atomic, with its release (R121). -/
def atomicPut (s : State) (k : CtxId) (sp : Space) (a n scope v : Nat) (rel : Bool) : State :=
  let me := s.latest (.fe k)
  let s1 := afterAtomic (s.writeBy me sp a (natBytes n v)) sp a n scope
  if rel then s1.addRel { at_ := .word sp a n, by_ := me, scope := scope, live := true } else s1

/-- One indivisible read-modify-write (R125): `f` gives the value to write, if any. A poisoned old value writes nothing and poisons
d (R126). Its acquire meets the releases whose value it reads, its release is made with its write (R121, R188). -/
def atomicAt (d : Reg5) (n : Nat) (q l : BitVec 1) (c : BitVec 3) (addr : Word) (f : Nat → Option Nat) (s : State) : Res State := do
  let (s1, sp, a) ← feReach s addr n accAtomic
  let scope := honoured addr c
  let s2 := atomicSees s1 s.cur sp a n scope
  let b := viewBytes s2 s.cur sp a n
  let s3 := if q = 1 then acquireAt s2 s.cur scope sp a n else s2
  let s4 := if anyPoison b then s3 else match f (bytesNat b) with
    | some v => atomicPut s3 s.cur sp a n scope v (l == 1)
    | none => s3
  .ok (s4.modCtx s.cur (fun c => (loadResult c d true n b).advance 0))

/-- A release waits for the accesses to host windows (R120, R444). -/
def atomicBlocked (s : State) (k : CtxId) (l : BitVec 1) (c : BitVec 3) : Bool := scopeLegal c && l == 1 && (s.ctx k).abroad

/-- An amo: d is operand and destination (R186). -/
def amo (i : Instr) (op : Nat) (d a : Reg5) (z q l : BitVec 1) (c : BitVec 3) (s : State) : Out :=
  let n := if z = 0 then 4 else 8
  if atomicBlocked s s.cur l c then .next s
  else finish s (if !scopeLegal c then illegal s i
    else do
      let v ← src s d
      let x ← src s a
      atomicAt d n q l c x (fun old => some (amoNew op n old (v.toNat % 2 ^ (8 * n)))) s)

def execAmoSwap (d a : Reg5) (z q l : BitVec 1) (c : BitVec 3) (s : State) : Out := amo (.amoSwap d a z q l c) 0 d a z q l c s
def execAmoAdd (d a : Reg5) (z q l : BitVec 1) (c : BitVec 3) (s : State) : Out := amo (.amoAdd d a z q l c) 1 d a z q l c s
def execAmoAnd (d a : Reg5) (z q l : BitVec 1) (c : BitVec 3) (s : State) : Out := amo (.amoAnd d a z q l c) 2 d a z q l c s
def execAmoOr (d a : Reg5) (z q l : BitVec 1) (c : BitVec 3) (s : State) : Out := amo (.amoOr d a z q l c) 3 d a z q l c s
def execAmoXor (d a : Reg5) (z q l : BitVec 1) (c : BitVec 3) (s : State) : Out := amo (.amoXor d a z q l c) 4 d a z q l c s
def execAmoMax (d a : Reg5) (z q l : BitVec 1) (c : BitVec 3) (s : State) : Out := amo (.amoMax d a z q l c) 5 d a z q l c s
def execAmoMin (d a : Reg5) (z q l : BitVec 1) (c : BitVec 3) (s : State) : Out := amo (.amoMin d a z q l c) 6 d a z q l c s
def execAmoMaxu (d a : Reg5) (z q l : BitVec 1) (c : BitVec 3) (s : State) : Out := amo (.amoMaxu d a z q l c) 7 d a z q l c s
def execAmoMinu (d a : Reg5) (z q l : BitVec 1) (c : BitVec 3) (s : State) : Out := amo (.amoMinu d a z q l c) 8 d a z q l c s

/-- cas (R187): a failed one writes nothing. -/
def execCas (d a b : Reg5) (z q l : BitVec 1) (c : BitVec 3) (s : State) : Out :=
  let n := if z = 0 then 4 else 8
  if atomicBlocked s s.cur l c then .next s
  else finish s (if !scopeLegal c then illegal s (.cas d a b z q l c)
    else do
      let e ← src s d
      let x ← src s a
      let y ← src s b
      atomicAt d n q l c x
        (fun old => if old = e.toNat % 2 ^ (8 * n) then some (y.toNat % 2 ^ (8 * n)) else none) s)

end Sys2Proof.Machine
end

