-- ==== Sys2Proof/Machine/Sync.lean ====
section
/-!
DEFINITION. Ordering and waiting: fence, qwait, gbar, gbar.step, yield, yield.exit (R34 to R37, R49, R127 to R129, R189 to R191),
arrival barriers (R134 to R137) and stream rings (R138 to R141) with the checks of R193, and their wakes.
-/
namespace Sys2Proof.Machine

/-! ## FENCE and its status (R127 to R129) -/

/-- Two sets of failures together. -/
def FenceFail.merge (f g : FenceFail) : FenceFail := { bits := f.bits ||| g.bits, count := Nat.min 255 (f.count + g.count) }
/-- No failure. -/
def FenceFail.none : FenceFail := { bits := 0, count := 0 }
/-- The status word of R129. -/
def FenceFail.status (f : FenceFail) : Word := BitVec.ofNat 64 (f.bits.toNat + 256 * f.count)

/-- A FENCE ends: its status is written, its failures are cleared. -/
def Ctx.endFence (c : Ctx) (d : Reg5) : Ctx :=
  ({ c with fails := c.lateFails, lateFails := FenceFail.none, run := .running }.setReg d c.fails.status).advance 0

/-- An entry of a context has retired: its number comes before those of its queue (R27). -/
def Ctx.retired (c : Ctx) (q : EngineQ) (ord : Nat) : Bool := (c.queue q).entries.all (fun e => decide (ord < e.ord))

/-- The entries of a queue that have retired, as an agent: up to the first that has not. -/
def Ctx.retiredUpTo (c : Ctx) (k : CtxId) (q : EngineQ) : List Knower :=
  match (c.queue q).entries with
  | [] => [{ who := .eng k q, since := c.dispatched }]
  | e :: _ => if e.ord = 0 then [] else [{ who := .eng k q, since := e.ord - 1 }]

/-- The granules of a context's copies that have retired. -/
def Ctx.coveredPost (c : Ctx) (k : CtxId) (p : Post) : Bool := p.ctx == k && c.retired p.q p.ord

/-- A FENCE of a context ends: its copies that have retired are performed, and what it covers reaches the observers of its scope
(R120, R127, R128, R131). -/
def endFence (s : State) (k : CtxId) (d : Reg5) (scope : BitVec 3) : State :=
  let c := s.ctx k
  (fenceViews (landPosts s (c.coveredPost k)) k scope.toNat (allQueues.flatMap (c.retiredUpTo k))).modCtx k (·.endFence d)

/-- fence: earlier loads and stores are performed; accesses to host windows are waited for (R444). -/
def execFence (d : Reg5) (c : BitVec 3) (s : State) : Out :=
  finish s (if !scopeLegal c then illegal s (.fence d c)
    else
      let s1 := (flush s s.cur).modCtx s.cur
        (fun c => { c with fails := c.fails.merge c.lateFails, lateFails := FenceFail.none })
      if !(s1.ctx s.cur).abroad then .ok (endFence s1 s.cur d c)
      else .ok (s1.modCtx s.cur (fun x => { x with run := .waiting (.fence d c) })))

/-- Event FENCE_COMPLETE (R127): the host-window accesses of a waiting fence have completed. -/
def execEvFenceComplete (s : State) : Out :=
  let k := s.arg.ctx
  match (s.ctx k).run with
  | .waiting (.fence d c) => if !(s.ctx k).abroad then .next (endFence s k d c) else .next s
  | _ => .next s

/-! ## QWAIT (R34) -/

/-- The FE goes on from a wait. -/
def Ctx.goOn (c : Ctx) : Ctx := { c with run := .running }.advance 0

/-- A wait on an object of the own core ends with its acquire at DEV scope (R137, R141). -/
def goOnAt (s : State) (k : CtxId) (o : RelAt) : State := (acquireFrom s k 3 (s.relsOn o)).modCtx k (·.goOn)

/-- The queues of a mask. -/
def maskQueues (m : BitVec 5) : List EngineQ := allQueues.filter (fun q => m.getLsbD q.idx.val)

/-- A QWAIT ends: the FE observes the effects of the retired entries, and knows of their copies' writes (R34, R35). -/
def endQwait (s : State) (k : CtxId) (m : BitVec 5) : State :=
  (acquire s k 0 ((maskQueues m).map (fun q => s.latest (.eng k q)))).modCtx k (·.goOn)

/-- qwait: a mask of 0 is reserved (R156). -/
def execQwait (b : Reg5) (s : State) : Out :=
  finish s (if b = 0 then illegal s (.qwait b)
    else if (s.ctx s.cur).maskEmpty b then .ok (endQwait s s.cur b)
    else .ok (s.modCtx s.cur (fun c => { c with run := .waiting (.qwait b) })))

/-- Event QWAIT_WAKE (R34): every named queue has drained. -/
def execEvQwaitWake (s : State) : Out :=
  let k := s.arg.ctx
  match (s.ctx k).run with
  | .waiting (.qwait m) => if (s.ctx k).maskEmpty m then .next (endQwait s k m) else .next s
  | _ => .next s

/-! ## The gang barrier (R35 to R37, R49) -/

/-- The task of a context, with its number. -/
def State.taskOf (s : State) (k : CtxId) : Option (Nat × Task) :=
  match (s.ctx k).task with
  | some t => (s.taskAt t).map (fun x => (t, x))
  | none => none

/-- The members of a placed task: the context of its number on each core of its segment (R22). -/
def Task.members (t : Task) : List CtxId := (List.range t.gsize).map (fun i => ctxAt (ringAt t.first i) t.ctx)

/-- The context is a member of a step-program gang (R49). -/
def State.inStepGang (s : State) (k : CtxId) : Bool := match s.taskOf k with | some (_, t) => t.stepp | none => false

/-- A member has finished (R24). -/
def Ctx.isFinished (c : Ctx) : Bool := match c.run with | .finished => true | _ => false

/-- The context waits at the gang barrier now. -/
def Ctx.atBarrier (c : Ctx) : Bool := match c.run with | .waiting .gbar | .waiting (.gbarStep _) => true | _ => false

/-- BARRIER_MISMATCH (R37): every arrival is withdrawn; the members that wait at the barrier trap now, and each other one (not
arrived, or in a handler, a drain or a pre-emption) as it executes the barrier. -/
def mismatch (s : State) (t : Nat) (x : Task) : State :=
  let now := x.members.filter (fun k => (s.ctx k).atBarrier)
  let later := x.members.filter (fun k => !(s.ctx k).atBarrier && !(s.ctx k).isFinished)
  let s1 := s.setTask t { x with mixed := later }
  let s2 := x.members.foldl (fun s k => s.modCtx k (fun c => { c with arr := false, arrStep := false })) s1
  now.foldl (fun s k => raiseLater s k (feTrap .barrierMismatch 0)) s2

/-- The member arrives and waits; a generation of both forms is a mismatch (R37). -/
def arrive (s : State) (step : Bool) (w : Wait) : State :=
  let k := s.cur
  let s1 := s.modCtx k (fun c => { c with arr := true, arrStep := step, run := .waiting w })
  match s1.taskOf k with
  | some (t, x) =>
    if x.members.any (fun m => (s1.ctx m).arr && (s1.ctx m).arrStep != step) then mismatch s1 t x else s1
  | none => s1

/-- A member that has still to trap for a mixed generation does so at its barrier (R37). -/
def owesMismatch (s : State) : Option State :=
  match s.taskOf s.cur with
  | some (t, x) =>
    if x.mixed.contains s.cur then some (s.setTask t { x with mixed := x.mixed.filter (· ≠ s.cur) }) else none
  | none => none

/-- The release a context makes to its gang (R35, R49): what it knows up to now. -/
def gangRel (s : State) (k : CtxId) : State :=
  match s.taskOf k with
  | some (t, _) => s.addRel { at_ := .gang t, by_ := s.latest (.fe k), scope := 3, live := true }
  | none => s

/-- The DEV-scope release of a gbar (R35): the context's loads and stores are performed, and the copies that its FE knows to have
retired. -/
def gbarRelease (s : State) (k : CtxId) : State :=
  let s1 := flush s k
  gangRel (landPosts s1 (·.knownTo [s1.latest (.fe k)])) k

/-- The DEV-scope release of a gbar.step (R49, R133): every effect of the context, engines included. -/
def stepRelease (s : State) (k : CtxId) : State :=
  gangRel (learn (landPosts (flush s k) (fun p => p.ctx == k)) (.fe k) ((agentsOf k).map s.latest)) k

/-- gbar (R35, R176, R189) waits for its release until its accesses to host windows have completed; a gang of one continues at
once. -/
def execGbar (s : State) : Out :=
  if (s.ctx s.cur).abroad then .next s
  else finish s (
    let k := s.cur
    let s1 := gbarRelease s k
    if (s.ctx k).arrDone then .ok ((acquire s1 k 3 []).modCtx k (fun c => { c with arrDone := false }.advance 0))
    else match owesMismatch s1 with
      | some s2 => trapAt s2 .barrierMismatch 0
      | none =>
        if (s.ctx k).arr then .ok (s1.modCtx k (fun c => { c with run := .waiting .gbar }))
        else if (s.ctx k).csr.gsize.toNat ≤ 1 then
          let s2 := acquire s1 k 3 []
          match s2.taskOf k with
          | some (t, x) => .ok ((s2.setTask t { x with gen := x.gen + 1 }).modCtx k (·.advance 0))
          | none => .ok (s2.modCtx k (·.advance 0))
        else .ok (arrive s1 false .gbar))

/-- The members of a gang acquire at DEV scope from the releases of its barrier, and from others (R35, R49); these are over then. -/
def gangAcquires (s : State) (n : Nat) (ms : List CtxId) (more : List Knower) : State :=
  let src := more ++ (s.relsOn (.gang n)).map (·.by_)
  (ms.foldl (fun s k => acquire s k 3 src) s).dropRels (.gang n)

/-- A member goes on from a released gbar, or does when it executes it again (R176). -/
def Ctx.pastGbar (c : Ctx) : Ctx :=
  if !c.arr then c
  else match c.run with
    | .waiting .gbar => { c with arr := false }.goOn
    | _ => { c with arr := false, arrDone := true }

/-- Event GBAR_RELEASE (R35): every member has arrived or finished, and each continues. -/
def execEvGbarRelease (s : State) : Out :=
  match s.taskAt s.arg.task with
  | none => .next s
  | some x =>
    let ms := x.members
    let ready := ms.all (fun k => ((s.ctx k).arr && !(s.ctx k).arrStep) || (s.ctx k).isFinished)
      && ms.any (fun k => (s.ctx k).arr) && decide (x.st = .released)
    if !ready then .next s
    else
      let s1 := s.setTask s.arg.task { x with gen := x.gen + 1 }
      .next (ms.foldl (fun s k => s.modCtx k (·.pastGbar)) (gangAcquires s1 s.arg.task ms []))

/-- The five queues are empty and the G-instructions sent are performed (R49, R315). -/
def Ctx.quiet (c : Ctx) : Bool := c.maskEmpty 31 && c.gops.isEmpty

/-- gbar.step waits for the five queues, the G-instructions sent and its accesses to host windows before it arrives (R49, R120, R315). -/
def gbarStepBlocked (s : State) (k : CtxId) : Bool :=
  s.inStepGang k && !(s.ctx k).arr && !(s.ctx k).arrDone && (!(s.ctx k).quiet || (s.ctx k).abroad)

/-- The status a gbar.step returns (R50, R51). -/
def Ctx.stepStatus (c : Ctx) : Word := if c.ended then 1 else 0

/-- gbar.step (R49): Bushel's boundary releases it. -/
def execGbarStep (d : Reg5) (s : State) : Out :=
  if gbarStepBlocked s s.cur then .next s
  else finish s (
    let k := s.cur
    if !s.inStepGang k then illegal s (.gbarStep d)
    else
      let s1 := stepRelease s k
      if (s.ctx k).arrDone then .ok ((acquire s1 k 3 []).modCtx k (fun c => { c with arrDone := false }.setReg d c.stepStatus |>.advance 0))
      else match owesMismatch s1 with
      | some s2 => trapAt s2 .barrierMismatch 0
      | none =>
        if (s.ctx k).arr then .ok (s1.modCtx k (fun c => { c with run := .waiting (.gbarStep d) }))
        else .ok (arrive s1 true (.gbarStep d)))

/-- yield (R190): the arbiter's order passes the context over, for it has issued last. -/
def execYield (s : State) : Out := finish s (.ok (s.modCtx s.cur (·.advance 0)))

/-- yield.exit waits for the five queues and the G-instructions sent (R24, R315). -/
def yieldExitBlocked (s : State) (k : CtxId) : Bool :=
  !(s.inStepGang k && !(s.ctx k).ended) && !(s.ctx k).quiet

/-- yield.exit (R24, R191): in a step-program gang legal only after a gbar.step that returned 1. -/
def execYieldExit (s : State) : Out :=
  if yieldExitBlocked s s.cur then .next s
  else finish s (
    let k := s.cur
    if s.inStepGang k && !(s.ctx k).ended then illegal s .yieldExit
    else .ok ((flush s k).modCtx k (fun c => { c with run := .finished })))

/-! ## Objects in scratchpad (R193) -/

/-- Checks 1 to 5 of R193: the object's pool offset. -/
def objectAt (s : State) (k : CtxId) (ptr : Word) (size : Nat) : Except (TrapCode × Word) Nat :=
  if malformed ptr then .error (.addressInvalid, ptr)
  else match windowOf ptr with
    | .scr c o =>
      if c ≠ coreOf k then .error (.foreignScratch, ptr)
      else if o % size ≠ 0 then .error (.misaligned, ptr)
      else if (s.ctx k).scrStart ≤ o ∧ o + size ≤ (s.ctx k).scrStop then .ok o else .error (.windowBounds, ptr)
    | .priv o =>
      if o % size ≠ 0 then .error (.misaligned, ptr)
      else if o + size ≤ (s.ctx k).privSize then .ok ((s.ctx k).privStart + o) else .error (.windowBounds, ptr)
    | _ => .error (.illegalOperand, 0)

/-- The checks of an object as an FE result. -/
def feObject (s : State) (ptr : Word) (size : Nat) : Res Nat :=
  match objectAt s s.cur ptr size with
  | .ok o => .ok o
  | .error (c, v) => trapAt s c v

/-! ## Arrival barriers (R134 to R137) -/

/-- Fields of a barrier object (R134). -/
def barPhase (w : Word) : BitVec 1 := fld w 63 1
def barExpect (w : Word) : Nat := fldN w 28 28
def barPend (w : Word) : Nat := fldN w 0 28
/-- ST; reserved bits that are set count as ST = 3. -/
def barSt (w : Word) : Nat := if fldN w 56 5 ≠ 0 then 3 else fldN w 61 2
/-- A barrier object put together. -/
def barMake (p : BitVec 1) (st : Nat) (expect pend : Nat) : Word :=
  p ++ (BitVec.ofNat 2 st) ++ (0#5) ++ (BitVec.ofNat 28 expect) ++ (BitVec.ofNat 28 pend)

/-- A barrier of a core's pool. -/
def readBar (s : State) (c : CoreId) (o : Nat) : Word := BitVec.ofNat 64 (s.readNat (.pool c) o 8)
/-- A barrier written. -/
def writeBar (s : State) (c : CoreId) (o : Nat) (w : Word) : State := s.write (.pool c) o (natBytes 8 w.toNat)

/-- ARRIVAL of `n` bytes (R136). Reserved bits of an object in state 3 stay as they are. -/
def arrivalOn (w : Word) (n : Nat) : Word :=
  if barSt w = 1 then
    if n < barPend w then barMake (barPhase w) 1 (barExpect w) (barPend w - n)
    else if n = barPend w then barMake (~~~barPhase w) 1 (barExpect w) (barExpect w)
    else barMake (barPhase w) 2 (barExpect w) 0
  else if barSt w = 0 then barMake (barPhase w) 2 (barExpect w) (barPend w)
  else w

/-- The phase of a barrier ends with an arrival of `n` bytes. -/
def completesPhase (w : Word) (n : Nat) : Bool := barSt w == 1 && n == barPend w

/-- An arrival at a barrier of a core's pool; those of one timestamp come in the order of their sources (R136, R456). What its agent
knows up to its own moment is released to the waiters of the phase once it is complete (R122, R137). -/
def arrival (s : State) (c : CoreId) (o n : Nat) : State :=
  let w := readBar s c o
  let s1 := ((writeBar s c o (arrivalOn w n)).contended (.barrier c o)).addRel { at_ := .barrier c o, by_ := s.writer, scope := 3, live := false }
  if completesPhase w n then s1.completeRels (.barrier c o) else s1

/-- The FE sets a barrier, in the order of the sources (R194, R456): what has arrived for no complete phase releases nothing. -/
def setBar (s : State) (c : CoreId) (o : Nat) (w : Word) : State :=
  ((writeBar s c o w).contended (.barrier c o)).dropWaiting (.barrier c o)

/-- abinit (R192). -/
def execAbinit (a : Reg5) (s : State) : Out :=
  finish s (do
    let p ← src s a
    let o ← feObject s p 8
    let s1 := flushRange s s.cur (.pool (coreOf s.cur)) o 8
    .ok ((setBar s1 (coreOf s.cur) o 0).modCtx s.cur (·.advance 0)))

/-- abarm (R135). -/
def execAbarm (a b : Reg5) (s : State) : Out :=
  finish s (do
    let p ← src s a
    let n ← src s b
    let o ← feObject s p 8
    need s (decide (1 ≤ n.toNat) && decide (n.toNat ≤ 268435455)) .illegalOperand 0
    let s1 := flushRange s s.cur (.pool (coreOf s.cur)) o 8
    let w := readBar s1 (coreOf s.cur) o
    .ok ((setBar s1 (coreOf s.cur) o (barMake (barPhase w) 1 n.toNat n.toNat)).modCtx s.cur (·.advance 0)))

/-- What ABWAIT finds (R137). -/
inductive AbwaitSees where
  | trap (c : TrapCode) (value : Word)
  | continues
  | waits
  deriving DecidableEq, Repr

/-- The table of R137. -/
def abwaitSees (w ptr : Word) (p : BitVec 1) : AbwaitSees :=
  match barSt w with
  | 2 => .trap .arrivalOverrun ptr
  | 3 => .trap .illegalOperand 0
  | 1 => if barPhase w = p then .continues else .waits
  | _ => if barPhase w = p then .continues else .trap .arrivalIdle ptr

/-- A barrier as the context's FE sees it. -/
def viewBar (s : State) (k : CtxId) (o : Nat) : Word := BitVec.ofNat 64 (bytesNat (freshBytes s k (.pool (coreOf k)) o 8))

/-- abwait (R137). -/
def execAbwait (a : Reg5) (p : BitVec 1) (s : State) : Out :=
  finish s (do
    let ptr ← src s a
    let o ← feObject s ptr 8
    match abwaitSees (viewBar s s.cur o) ptr p with
    | .trap c v => trapAt s c v
    | .continues => .ok (goOnAt s s.cur (.barrier (coreOf s.cur) o))
    | .waits => .ok (s.modCtx s.cur (fun c => { c with run := .waiting (.abwait ptr p) })))

/-- Event ABWAIT_WAKE (R137): the phase a context waits for has come; an OVERRUN or a reserved state met while waiting traps as
the table says. -/
def execEvAbwaitWake (s : State) : Out :=
  let k := s.arg.ctx
  match (s.ctx k).run with
  | .waiting (.abwait ptr p) =>
    match objectAt s k ptr 8 with
    | .error _ => .next s
    | .ok o =>
      match abwaitSees (viewBar s k o) ptr p with
      | .trap c v => .next (raiseLater s k (feTrap c v))
      | .continues => .next (goOnAt s k (.barrier (coreOf k) o))
      | .waits => .next s
  | _ => .next s

/-! ## Stream rings (R138 to R141) -/

/-- A ring descriptor (R138). -/
structure RingDesc where
  freed : BitVec 32
  taken : BitVec 32
  filled : BitVec 32
  resv : BitVec 32
  reserved : Bool
  lgn : Nat
  slotsz : Nat
  base : Nat
  deriving DecidableEq, Repr

/-- The descriptor 32 bytes stand for; `reserved` is set when a reserved bit is. -/
def ringOf (b : List PByte) : RingDesc :=
  let w : BitVec 256 := BitVec.ofNat 256 (bytesNat b)
  { freed := fld w 224 32, taken := fld w 192 32, filled := fld w 160 32, resv := fld w 128 32,
    reserved := fldN w 90 38 ≠ 0 || fldN w 22 42 ≠ 0, lgn := fldN w 86 4, slotsz := fldN w 64 22, base := fldN w 0 22 }

/-- N. -/
def RingDesc.count (r : RingDesc) : Nat := 2 ^ r.lgn

/-- The descriptor is valid for a consumer (R139). -/
def RingDesc.valid (r : RingDesc) (c : Ctx) : Bool :=
  !r.reserved && decide (r.lgn ≤ 8) && decide (r.slotsz ≠ 0) && (r.slotsz % 64 == 0) && (r.base % 64 == 0)
    && decide (c.scrStart ≤ r.base) && decide (r.base + r.count * r.slotsz ≤ c.privStart)

/-- Byte offsets of the counters in a descriptor (R138). -/
def ringRESV : Nat := 16
def ringFILLED : Nat := 20
def ringTAKEN : Nat := 24
def ringFREED : Nat := 28
/-- A counter written; updates of one timestamp come in the order of their sources (R456). -/
def setCounter (s : State) (c : CoreId) (o field : Nat) (v : BitVec 32) : State :=
  (s.write (.pool c) (o + field) (natBytes 4 v.toNat)).contended (.ring c o)

/-- A counter advanced with a release at DEV scope of what an agent knows (R140, R141). -/
def advanceRing (s : State) (c : CoreId) (o field : Nat) (v : BitVec 32) (by_ : Knower) : State :=
  (setCounter s c o field v).addRel { at_ := .ring c o, by_ := by_, scope := 3, live := true }

/-- A ring operand of a consumer: checks 1 to 6 of R193; its offset and descriptor as the FE sees it. -/
def ringAtPtr (s : State) (k : CtxId) (ptr : Word) : Except (TrapCode × Word) (Nat × RingDesc) :=
  match objectAt s k ptr 32 with
  | .error e => .error e
  | .ok o =>
    let r := ringOf (freshBytes s k (.pool (coreOf k)) o 32)
    if windowCode ptr = 1 || (s.ctx k).privStart < o + 32 || !r.valid (s.ctx k) then .error (.ringInvalid, ptr)
    else .ok (o, r)

/-- A ring operand as an FE result. -/
def feRing (s : State) (ptr : Word) : Res (Nat × RingDesc) :=
  match ringAtPtr s s.cur ptr with
  | .ok x => .ok x
  | .error (c, v) => trapAt s c v

/-- Slots published and not popped. -/
def RingDesc.avail (r : RingDesc) : Nat := (r.filled - r.taken).toNat

/-- The scratchpad-window pointer to a slot. -/
def slotPtr (k : CtxId) (r : RingDesc) : Word :=
  scrPtr (coreOf k) (BitVec.ofNat 64 (r.base + r.taken.toNat % r.count * r.slotsz))

/-- slpop takes a slot (R141). -/
def popSlot (s : State) (k : CtxId) (d : Reg5) (o : Nat) (r : RingDesc) : State :=
  let s1 := flushRange s k (.pool (coreOf k)) o 32
  goOnAt ((setCounter s1 (coreOf k) o ringTAKEN (r.taken + 1)).modCtx k (·.setReg d (slotPtr k r))) k (.ring (coreOf k) o)

/-- slwait (R141). -/
def execSlwait (d a b : Reg5) (s : State) : Out :=
  finish s (do
    let ptr ← src s a
    let n ← src s b
    let (o, r) ← feRing s ptr
    need s (decide (1 ≤ n.toNat) && decide (n.toNat ≤ r.count)) .illegalOperand 0
    if n.toNat ≤ r.avail then .ok (goOnAt (s.modCtx s.cur (·.setReg d (BitVec.ofNat 64 r.avail))) s.cur (.ring (coreOf s.cur) o))
    else .ok (s.modCtx s.cur (fun c => { c with run := .waiting (.slwait d ptr n) })))

/-- Event SLWAIT_WAKE (R141). -/
def execEvSlwaitWake (s : State) : Out :=
  let k := s.arg.ctx
  match (s.ctx k).run with
  | .waiting (.slwait d ptr n) =>
    match ringAtPtr s k ptr with
    | .ok (o, r) =>
      if n.toNat ≤ r.avail then .next (goOnAt (s.modCtx k (·.setReg d (BitVec.ofNat 64 r.avail))) k (.ring (coreOf k) o)) else .next s
    | .error _ => .next s
  | _ => .next s

/-- slpop (R141). -/
def execSlpop (d a : Reg5) (s : State) : Out :=
  finish s (do
    let ptr ← src s a
    let (o, r) ← feRing s ptr
    if 1 ≤ r.avail then .ok (popSlot s s.cur d o r)
    else .ok (s.modCtx s.cur (fun c => { c with run := .waiting (.slpop d ptr) })))

/-- Event SLPOP_WAKE (R141). -/
def execEvSlpopWake (s : State) : Out :=
  let k := s.arg.ctx
  match (s.ctx k).run with
  | .waiting (.slpop d ptr) =>
    match ringAtPtr s k ptr with
    | .ok (o, r) => if 1 ≤ r.avail then .next (popSlot s k d o r) else .next s
    | .error _ => .next s
  | _ => .next s

/-- slfree (R141): its release waits for the accesses to host windows, and comes after the context's loads. -/
def execSlfree (a : Reg5) (s : State) : Out :=
  if (s.ctx s.cur).abroad then .next s
  else finish s (do
    let ptr ← src s a
    let (o, r) ← feRing s ptr
    need s (r.freed != r.taken) .ringUnderflow ptr
    let s1 := flushRange (performLoads s s.cur (fun _ => true)) s.cur (.pool (coreOf s.cur)) o 32
    .ok ((advanceRing s1 (coreOf s.cur) o ringFREED (r.freed + 1) (s.latest (.fe s.cur))).modCtx s.cur (·.advance 0)))

end Sys2Proof.Machine
end

