-- ==== Sys2Proof/Machine/Requests.lean ====
section
/-!
DEFINITION. Request records (R293) and the Q-instructions on Bushel's table (R300 to R303), with the marks of a slot.
-/
namespace Sys2Proof.Machine

/-! ## Records (R293) -/

/-- The 128 bytes of a record. -/
def recordBytes (r : Record) : List Byte :=
  let f := fun (n v : Nat) => leBytes n v
  f 4 r.reqid.toNat ++ f 4 r.gen.toNat ++ f 1 r.state.toNat ++ f 1 r.prio.toNat ++ f 1 r.ffmt.toNat ++ f 1 r.flags.toNat
    ++ f 1 r.draft.toNat ++ f 1 r.stopr.toNat ++ f 2 r.gctx.toNat ++ f 8 r.deadline.toNat ++ f 8 r.pos.toNat
    ++ f 8 r.frame.toNat ++ f 8 r.kvpl.toNat ++ f 4 r.kvpn.toNat ++ f 4 r.maxlen.toNat ++ f 8 r.stopset.toNat
    ++ f 8 r.seed.toNat ++ f 4 r.temp.toNat ++ f 4 r.topp.toNat ++ f 2 r.topk.toNat ++ f 1 r.lgb.toNat ++ f 1 r.fcode.toNat
    ++ f 4 r.scnt.toNat ++ f 8 r.fpos.toNat ++ f 8 r.grammar.toNat ++ f 8 r.tokbuf.toNat ++ f 4 r.mgen.toNat
    ++ f 4 r.plen.toNat ++ f 8 r.mhash.toNat

/-- The record 128 bytes hold. -/
def parseRecord (b : List PByte) : Record :=
  let w : BitVec 1024 := BitVec.ofNat 1024 (bytesNat b)
  { reqid := fld w 0 32, gen := fld w 32 32, state := fld w 64 8, prio := fld w 72 8, ffmt := fld w 80 8, flags := fld w 88 8,
    draft := fld w 96 8, stopr := fld w 104 8, gctx := fld w 112 16, deadline := fld w 128 64, pos := fld w 192 64,
    frame := fld w 256 64, kvpl := fld w 320 64, kvpn := fld w 384 32, maxlen := fld w 416 32, stopset := fld w 448 64,
    seed := fld w 512 64, temp := fld w 576 32, topp := fld w 608 32, topk := fld w 640 16, lgb := fld w 656 8,
    fcode := fld w 664 8, scnt := fld w 672 32, fpos := fld w 704 64, grammar := fld w 768 64, tokbuf := fld w 832 64,
    mgen := fld w 896 32, plen := fld w 928 32, mhash := fld w 960 64 }

/-- A field of a record by its offset: its value; none where no field begins (R300). -/
def recordField (r : Record) (off : Nat) : Option Word :=
  match off with
  | 0 => some (zext64 r.reqid) | 4 => some (zext64 r.gen) | 8 => some (zext64 r.state) | 9 => some (zext64 r.prio)
  | 10 => some (zext64 r.ffmt) | 11 => some (zext64 r.flags) | 12 => some (zext64 r.draft) | 13 => some (zext64 r.stopr)
  | 14 => some (zext64 r.gctx) | 16 => some r.deadline | 24 => some r.pos | 32 => some r.frame | 40 => some r.kvpl
  | 48 => some (zext64 r.kvpn) | 52 => some (zext64 r.maxlen) | 56 => some r.stopset | 64 => some r.seed
  | 72 => some (zext64 r.temp) | 76 => some (zext64 r.topp) | 80 => some (zext64 r.topk) | 82 => some (zext64 r.lgb)
  | 83 => some (zext64 r.fcode) | 84 => some (zext64 r.scnt) | 88 => some r.fpos | 96 => some r.grammar
  | 104 => some r.tokbuf | 112 => some (zext64 r.mgen) | 116 => some (zext64 r.plen) | 120 => some r.mhash
  | _ => none

/-! ## Bushel's tables -/

/-- The first entry of a list that a test accepts, with its place. -/
def findEntry (f : ReqEntry → Bool) : List ReqEntry → Nat → Option (Nat × ReqEntry)
  | [], _ => none
  | e :: r, i => if f e then some (i, e) else findEntry f r (i + 1)

/-- An entry of either die's table. -/
def State.findReq (s : State) (f : ReqEntry → Bool) : Option (DieId × Nat × ReqEntry) :=
  match findEntry f (s.die 0).table 0 with
  | some (i, e) => some (0, i, e)
  | none => (findEntry f (s.die 1).table 0).map (fun x => (1, x.1, x.2))

/-- An entry replaced. -/
def State.setReq (s : State) (d : DieId) (i : Nat) (e : ReqEntry) : State :=
  s.modDie d (fun x => { x with table := x.table.set i e })

/-- The request that holds a slot of a task. -/
def State.slotReq (s : State) (t n : Nat) : Option (DieId × Nat × ReqEntry) :=
  s.findReq (fun e => e.task == t && e.slot == some n)

/-- A mark of qfault or of hardware (R303). -/
def ReqEntry.markFault (e : ReqEntry) (code : BitVec 8) : ReqEntry :=
  if e.faultMark then e
  else { e with faultMark := true, record := { e.record with fcode := code, fpos := e.record.pos } }

/-- A mark of qret (R303). -/
def ReqEntry.markStop (e : ReqEntry) (reason : BitVec 8) : ReqEntry :=
  if e.faultMark || e.stopMark then e else { e with stopMark := true, record := { e.record with stopr := reason } }

/-- An update of a table of Bushel's that several sources may make at one timestamp (R303, R456). -/
def State.updateReq (s : State) (d : DieId) (i : Nat) (e : ReqEntry) : State := (s.setReq d i e).contended (.table d)

/-- Hardware marks a slot of a task faulted (R221, R304, R439). -/
def markSlot (s : State) (t n : Nat) (code : BitVec 8) : State :=
  match s.slotReq t n with
  | some (d, i, e) => s.updateReq d i (e.markFault code)
  | none => s

/-! ## Q-instructions (R300 to R303) -/

/-- Check 1 of R300: the task of a member of a step-program gang. -/
def stepTask (s : State) (i : Instr) : Res Nat :=
  match s.taskOf s.cur with
  | some (t, x) => if x.stepp then .ok t else illegal s i
  | none => illegal s i

/-- Check 3 of R300: the occupied slot a register names. -/
def slotNamed (s : State) (t : Nat) (v : Word) : Res (DieId × Nat × ReqEntry) :=
  if (s.ctx s.cur).csr.nslots.toNat ≤ v.toNat then trapAt s .illegalOperand 0
  else match s.slotReq t v.toNat with
    | some x => .ok x
    | none => trapAt s .illegalOperand 0

/-- qrd (R300). -/
def execQrd (d a b : Reg5) (s : State) : Out :=
  finish s (do
    let t ← stepTask s (.qrd d a b)
    let n ← src s a
    let off ← src s b
    let (_, _, e) ← slotNamed s t n
    match recordField e.record off.toNat with
    | some v => .ok (putReg s 0 d v)
    | none => trapAt s .illegalOperand 0)

/-- The entry after a qwr of a field of an unfaulted slot; none for a value outside its limits or a field that is not RW (R301). -/
def writeField (e : ReqEntry) (off : Nat) (v : Word) : Option ReqEntry :=
  let r := e.record
  match off with
  | 24 =>
    if r.pos.toNat < v.toNat ∧ v.toNat ≤ r.pos.toNat + e.ntok ∧ !e.posDone then
      some { e with posDone := true, record := { r with pos := v } }
    else none
  | 12 => if v.toNat ≤ 7 then some { e with record := { r with draft := fld v 0 8 } } else none
  | 48 => if v.toNat < 2 ^ 32 then some { e with record := { r with kvpn := fld v 0 32 } } else none
  | _ => none

/-- Offsets of the RW fields (R293). -/
def rwField (off : Nat) : Bool := off == 24 || off == 12 || off == 48

/-- qwr (R301). -/
def execQwr (d a b : Reg5) (s : State) : Out :=
  finish s (do
    let t ← stepTask s (.qwr d a b)
    let v ← src s d
    let n ← src s a
    let off ← src s b
    let (die, i, e) ← slotNamed s t n
    operandOk s (rwField off.toNat)
    if e.faultMark then .ok (s.modCtx s.cur (·.advance 0))
    else match writeField e off.toNat v with
      | some e1 => .ok ((s.updateReq die i e1).modCtx s.cur (·.advance 0))
      | none => trapAt s .illegalOperand 0)

/-- qslot (R300). -/
def execQslot (d a : Reg5) (s : State) : Out :=
  finish s (do
    let t ← stepTask s (.qslot d a)
    let n ← src s a
    operandOk s (decide (n.toNat < (s.ctx s.cur).csr.nslots.toNat))
    .ok (putReg s 0 d (match s.slotReq t n.toNat with
      | some (_, _, e) => zext64 e.record.reqid
      | none => 0xFFFFFFFF)))

/-- The stop condition (R302). -/
def stopCondition (e : ReqEntry) (tok : BitVec 32) (i : Nat) (acc : Bool) : Word :=
  if e.stops.contains tok then 1
  else if e.record.flags.getLsbD 0 && acc then 2
  else if e.record.maxlen.toNat ≤ e.record.pos.toNat + i + 1 then 3
  else 0

/-- qstop (R302). -/
def execQstop (d a b : Reg5) (s : State) : Out :=
  finish s (do
    let t ← stepTask s (.qstop d a b)
    let n ← src s a
    let v ← src s b
    let (_, _, e) ← slotNamed s t n
    let i := fldN v 32 8
    operandOk s (fldN v 41 23 == 0 && decide (1 ≤ i) && decide (i ≤ e.ntok))
    .ok (putReg s 0 d (stopCondition e (fld v 0 32) i (v.getLsbD 40))))

/-- qret (R303). -/
def execQret (a b : Reg5) (s : State) : Out :=
  finish s (do
    let t ← stepTask s (.qret a b)
    let n ← src s a
    let v ← src s b
    let (die, i, e) ← slotNamed s t n
    operandOk s (decide (1 ≤ v.toNat) && decide (v.toNat ≤ 4))
    .ok ((s.updateReq die i (e.markStop (fld v 0 8))).modCtx s.cur (·.advance 0)))

/-- qfault (R303). -/
def execQfault (a b : Reg5) (s : State) : Out :=
  finish s (do
    let t ← stepTask s (.qfault a b)
    let n ← src s a
    let v ← src s b
    let (die, i, e) ← slotNamed s t n
    operandOk s (decide (0x80 ≤ v.toNat) && decide (v.toNat ≤ 0xFF))
    .ok ((s.updateReq die i (e.markFault (fld v 0 8))).modCtx s.cur (·.advance 0)))

end Sys2Proof.Machine
end

