-- ==== Sys2Proof/Machine/Copy.lean ====
section
/-!
DEFINITION. The copy engines: the copy forms' checks at dispatch (R208 to R227), the granules that move the bytes (R209, R212,
R219 to R226), faults, refusals and parking (R113, R130, R221, R228), stream rings of a producer (R140, R227), and completion
with its arrivals and copy status (R136, R214, R231, R232).
-/
namespace Sys2Proof.Machine

/-! ## Operands at dispatch (R210, R211) -/

/-- The most bytes a copy counts (R210). -/
def copyMax : Nat := 268435452

/-- Register c + 1 of a `.bar` form, which c = 31 has not (R157). -/
def barReg (s : State) (i : Instr) (c : Reg5) (r : BitVec 1) : Res (Option Word) :=
  if r = 0 then .ok none else if c = 31 then illegal s i else do
    let v ← src s (c + 1)
    .ok (some v)

/-- A count is a multiple of 4 up to a limit (R210). -/
def countOk (s : State) (n : Word) (lim : Nat) : Res Unit := operandOk s (n.toNat % 4 == 0 && decide (n.toNat ≤ lim))

/-- A walk over addresses: the pointer, how far its extent begins below or ahead of it, and its size in bytes (R211, R219). -/
structure Extent where
  ptr : Word
  below : Nat
  ahead : Nat
  size : Nat
  deriving DecidableEq, Repr

/-- The extent of `n` bytes from a pointer on. -/
def extentOf (p : Word) (n : Nat) : Extent := { ptr := p, below := 0, ahead := 0, size := n }

/-- An offset and the extent around it lie within `lo` to `hi`. The extent of a copy of 0 bytes lies anywhere: its pointer raises no
WINDOW_BOUNDS (R108, R210; DESIGN CHOICE, log 109). -/
def Extent.inside (x : Extent) (o lo hi : Nat) : Bool :=
  x.size == 0 || (decide (lo + x.below ≤ o + x.ahead) && decide (o + x.ahead - x.below + x.size ≤ hi))

/-- Check 4 of R211 for one pointer: R107, the foreign scratchpad, the bounds of the whole extent in an untranslated window, and
alignment. `foreign` admits a scratchpad of another core (R110). -/
def copyPointer (s : State) (x : Extent) (foreign : Bool) : Res Window :=
  let k := s.cur
  let c := s.ctx k
  if malformed x.ptr then trapAt s .addressInvalid x.ptr
  else
    let w := windowOf x.ptr
    let away := match w with | .scr core _ => decide (core ≠ coreOf k) | _ => false
    let fits := match w with
      | .priv o => x.inside o 0 c.privSize
      | .scr _ o => away || x.inside o c.scrStart c.scrStop
      | .dsh d o => x.inside o 0 (s.carved d)
      | .glob _ => true
    if away && !foreign then trapAt s .foreignScratch x.ptr
    else if !fits then trapAt s .windowBounds x.ptr
    else if x.ptr.toNat % 4 ≠ 0 then trapAt s .misaligned x.ptr
    else .ok w

/-- The barrier pointer of a form whose destination is on core `dst` (R213): the own one is checked whole, another core's at that
core. -/
def barPointer (s : State) (bar : Option Word) (dst : CoreId) : Res Unit :=
  match bar with
  | none => .ok ()
  | some p =>
    if malformed p then trapAt s .addressInvalid p
    else
      let c := s.ctx s.cur
      let own := coreOf s.cur
      match windowOf p with
      | .priv o =>
        if dst ≠ own then trapAt s .illegalOperand 0
        else if c.privSize < o + 8 then trapAt s .windowBounds p
        else if p.toNat % 8 ≠ 0 then trapAt s .misaligned p else .ok ()
      | .scr core o =>
        if core ≠ dst then trapAt s .illegalOperand 0
        else if core = own && (decide (o < c.scrStart) || decide (c.scrStop < o + 8)) then trapAt s .windowBounds p
        else if p.toNat % 8 ≠ 0 then trapAt s .misaligned p else .ok ()
      | _ => trapAt s .illegalOperand 0

/-- The core a destination lies on: the executing one but for a scratchpad window of another (R213). -/
def Window.coreFor (w : Window) (own : CoreId) : CoreId := match w with | .scr c _ => c | _ => own

/-- Two extents meet by address in one untranslated window (R212). -/
def extentsMeet (x y : Extent) : Bool :=
  decide (windowCode x.ptr ≠ 0) && decide (windowCode x.ptr = windowCode y.ptr) && decide (x.size ≠ 0) && decide (y.size ≠ 0)
    && decide (x.ptr.toNat + y.below < y.ptr.toNat + y.size + x.below)
    && decide (y.ptr.toNat + x.below < x.ptr.toNat + x.size + y.below)

/-- The overlap test of R212, the last check. -/
def noOverlap (s : State) (a b : Extent) : Res Unit := operandOk s (!extentsMeet a b)

/-- A copy with nothing but its kind and registers. -/
def copyOf (kind : CopyKind) (a b c : Word) (bar : Option Word) (n : Nat) : CopyOp :=
  { kind := kind, ra := a, rb := b, rc := c, bar := bar, mask := 0, shape := 0, levels := [], total := n }

/-- The entry of a copy: one of no bytes has zero extent (R32, R210). -/
def copyEntry (c : CopyOp) : Dispatched := plainOp (.copy c)

/-! ## Linear copies (R216) -/

/-- cin and cout. -/
def linearCopy (kind : CopyKind) (foreign : Bool) (i : Instr) (a b c : Reg5) (r : BitVec 1) (s : State) : Res Dispatched :=
  if r = 1 && c = 31 then illegal s i else do
    let d ← src s a
    let p ← src s b
    let n ← src s c
    let bar ← barReg s i c r
    countOk s n copyMax
    let w ← copyPointer s (extentOf d n.toNat) foreign
    let _ ← copyPointer s (extentOf p n.toNat) false
    barPointer s bar (w.coreFor (coreOf s.cur))
    noOverlap s (extentOf d n.toNat) (extentOf p n.toNat)
    .ok (copyEntry (copyOf kind d p n bar n.toNat))

def execCin (e : Dep) (a b c : Reg5) (r : BitVec 1) (s : State) : Out :=
  dispatch .ci e (linearCopy .cin false (.cin e a b c r) a b c r s) s

def execCout (e : Dep) (a b c : Reg5) (r : BitVec 1) (s : State) : Out :=
  dispatch .co e (linearCopy .cout true (.cout e a b c r) a b c r s) s

def execCfill (e : Dep) (a b c : Reg5) (r : BitVec 1) (s : State) : Out :=
  dispatch .ci e (if r = 1 && c = 31 then illegal s (.cfill e a b c r) else do
    let d ← src s a
    let p ← src s b
    let n ← src s c
    let bar ← barReg s (.cfill e a b c r) c r
    countOk s n copyMax
    let w ← copyPointer s (extentOf d n.toNat) false
    barPointer s bar (w.coreFor (coreOf s.cur))
    .ok (copyEntry (copyOf .cfill d p n bar n.toNat))) s

/-! ## Nests (R217 to R219) -/

/-- The nest configuration of a queue. -/
def Ctx.nest (c : Ctx) (q : EngineQ) : Vector Level 6 := match q with | .co => c.nestCo | _ => c.nestCi
/-- A nest configuration written. -/
def Ctx.setNest (c : Ctx) (q : EngineQ) (v : Vector Level 6) : Ctx :=
  match q with | .co => { c with nestCo := v } | _ => { c with nestCi := v }

/-- A stride is a multiple of 4 from -2^31 to 2^31 - 4 (R217). -/
def strideOk (v : Word) : Bool := v.toNat % 4 == 0 && decide (-(2 ^ 31) ≤ v.toInt) && decide (v.toInt ≤ 2 ^ 31 - 4)

/-- cnest.lN and cnesto.lN write the level at dispatch and leave an entry of zero extent, whose `mask` is N (R217); N of 6 and 7 is
reserved. -/
def nestLevel (q : EngineQ) (kind : CopyKind) (i : Instr) (e : Dep) (a b c : Reg5) (l : BitVec 3) (s : State) : Out :=
  dispatch q e (
    if h : l.toNat < 6 then do
      let n ← src s a
      let x ← src s b
      let y ← src s c
      operandOk s (decide (n.toNat ≤ 1048576) && strideOk x && strideOk y)
      .ok { op := .copy { copyOf kind n x y none 0 with mask := zext64 l },
            view := fun k => k.setNest q ((k.nest q).set l.toNat { n := n.toNat, ss := x.toInt, ds := y.toInt } h),
            waitVx := none }
    else illegal s i) s

def execCnestL (e : Dep) (a b c : Reg5) (l : BitVec 3) (s : State) : Out := nestLevel .ci .nest (.cnestL e a b c l) e a b c l s
def execCnestoL (e : Dep) (a b c : Reg5) (l : BitVec 3) (s : State) : Out := nestLevel .co .nesto (.cnestoL e a b c l) e a b c l s

/-- How far a walk reaches below its base and how many bytes it spans (R219). -/
def walkReach (l : List (Nat × Int)) : Nat × Nat :=
  let lo := l.foldl (fun x p => x + Int.toNat (-(min 0 ((Int.ofNat p.1 - 1) * p.2)))) 0
  let hi := l.foldl (fun x p => x + Int.toNat (max 0 ((Int.ofNat p.1 - 1) * p.2))) 0
  (lo, lo + hi + 4)

/-- The extent of one side of a nest; a nest of no words has none. -/
def nestExtent (p : Word) (total : Nat) (l : List (Nat × Int)) : Extent :=
  if total = 0 then extentOf p 0 else { ptr := p, below := (walkReach l).1, ahead := 0, size := (walkReach l).2 }

/-- cnest.go and cnesto.go (R218). -/
def nestGo (q : EngineQ) (kind : CopyKind) (i : Instr) (e : Dep) (a b c : Reg5) (r : BitVec 1) (s : State) : Out :=
  dispatch q e (if r = 1 && c = 31 then illegal s i else do
    let d ← src s a
    let p ← src s b
    let n ← src s c
    let bar ← barReg s i c r
    operandOk s (decide (1 ≤ n.toNat) && decide (n.toNat ≤ 6))
    let ls := ((s.ctx s.cur).nest q).toList.take n.toNat
    let total := 4 * ls.foldl (fun x l => x * l.n) 1
    operandOk s (decide (total ≤ copyMax))
    let x := nestExtent d total (ls.map (fun l => (l.n, l.ds)))
    let y := nestExtent p total (ls.map (fun l => (l.n, l.ss)))
    let w ← copyPointer s x (q == .co)
    let _ ← copyPointer s y false
    barPointer s bar (w.coreFor (coreOf s.cur))
    noOverlap s x y
    .ok (copyEntry { copyOf kind d p n bar total with levels := ls })) s

def execCnestGo (e : Dep) (a b c : Reg5) (r : BitVec 1) (s : State) : Out := nestGo .ci .nest (.cnestGo e a b c r) e a b c r s
def execCnestoGo (e : Dep) (a b c : Reg5) (r : BitVec 1) (s : State) : Out := nestGo .co .nesto (.cnestoGo e a b c r) e a b c r s

/-! ## Paged gather (R220) -/

/-- Fields of the gather descriptor (R220). -/
def gathSlotv (d : Word) : Bool := d.getLsbD 63
def gathSlot (d : Word) : Nat := fldN d 55 8
def gathRows (d : Word) : Nat := fldN d 36 12
def gathRowsz (d : Word) : Nat := fldN d 20 16
def gathLg (d : Word) : Nat := fldN d 16 4
def gathFirst (d : Word) : Nat := fldN d 0 16

/-- The limits of R220 on the descriptor. -/
def gathOk (s : State) (d : Word) : Bool :=
  fldN d 48 7 == 0 && gathRowsz d % 4 == 0 && (gathRowsz d != 0 || gathRows d == 0)
    && decide (gathRows d * gathRowsz d ≤ copyMax)
    && (!gathSlotv d || (s.inStepGang s.cur && decide (gathSlot d < (s.ctx s.cur).csr.nslots.toNat)))

/-- The first page-list entry a gather reads, and how many it reads (R221). -/
def gathPages (d : Word) : Nat × Nat :=
  let lo := gathFirst d / 2 ^ gathLg d
  if gathRows d = 0 then (lo, 0) else (lo, (gathFirst d + gathRows d - 1) / 2 ^ gathLg d - lo + 1)

/-- The page-list entries a gather reads, from its pointer. -/
def pageExtent (p d : Word) : Extent :=
  { ptr := p, below := 0, ahead := 8 * (gathPages d).1, size := 8 * (gathPages d).2 }

def execCgath (e : Dep) (a b c : Reg5) (r : BitVec 1) (s : State) : Out :=
  dispatch .ci e (if r = 1 && c = 31 then illegal s (.cgath e a b c r) else do
    let d ← src s a
    let p ← src s b
    let n ← src s c
    let bar ← barReg s (.cgath e a b c r) c r
    operandOk s (gathOk s n)
    let total := gathRows n * gathRowsz n
    let w ← copyPointer s (extentOf d total) false
    let _ ← copyPointer s (pageExtent p n) false
    barPointer s bar (w.coreFor (coreOf s.cur))
    .ok (copyEntry (copyOf .cgath d p n bar total))) s

/-! ## Channel interleave (R222, R223) -/

/-- The position of element `c` in a row of `cols` elements with group width `g` (R222). -/
def ilvPos (g cols c : Nat) : Nat :=
  let q := (cols + g - 1) / g
  let rho := cols % g
  let w := c % g
  w * q + c / g - (if rho = 0 then 0 else w - rho)

/-- G of an ILV code. -/
def ilvGroup (ilv : Nat) : Nat := match ilv with | 2 => 4 | 3 => 8 | _ => 16

/-- The element stored at a position: the one whose position it is. -/
def ilvElem (g cols p : Nat) : Nat := ((List.range cols).find? (fun c => ilvPos g cols c == p)).getD 0

/-- cpack and cunpk: checks of the record, the stride and the pointers. -/
def packCopy (pack : Bool) (i : Instr) (a : Reg4) (b c : Reg5) (r : BitVec 1) (s : State) : Res Dispatched :=
  if r = 1 && c = 31 then illegal s i else do
    let p ← src s b
    let n ← src s c
    let bar ← barReg s i c r
    let h ← record s a (!pack)
    agree s a (h.inScr && decide (2 ≤ h.ilv) && decide (h.fmt ≤ 12))
    let rs := h.rowBytes
    operandOk s (rs % 4 == 0 && n.toNat % 4 == 0 && (decide (rs ≤ n.toNat) || (!pack && n == 0)))
    let lin := extentOf p ((h.rows - 1) * n.toNat + rs)
    let ctx := s.ctx s.cur
    let ilv := extentOf (scrPtr (coreOf s.cur) (BitVec.ofNat 64 (ctx.scrStart + h.base))) h.extent
    let w ← copyPointer s lin false
    barPointer s bar (if pack then w.coreFor (coreOf s.cur) else coreOf s.cur)
    noOverlap s lin ilv
    .ok (copyEntry { copyOf (if pack then .cpack else .cunpk) 0 p n bar (h.rows * rs) with shape := rawShape s a })

def execCpack (e : Dep) (a : Reg4) (b c : Reg5) (r : BitVec 1) (s : State) : Out :=
  dispatch .ci e (packCopy true (.cpack e a b c r) a b c r s) s

def execCunpk (e : Dep) (a : Reg4) (b c : Reg5) (r : BitVec 1) (s : State) : Out :=
  dispatch .ci e (packCopy false (.cunpk e a b c r) a b c r s) s

/-! ## Multicast, reduction, stream (R224 to R227) -/

/-- A scratchpad-window pointer with its core field replaced (R224). -/
def withCore (p : Word) (c : CoreId) : Word :=
  (p &&& ~~~(BitVec.ofNat 64 (63 * 2 ^ 34))) ||| BitVec.ofNat 64 (c.val * 2 ^ 34)

/-- A multicast's barrier pointer is in the scratchpad window; the own core's copy of it is checked here (R213, R224). -/
def mcastBar (s : State) (bar : Option Word) (own : Bool) : Res Unit :=
  match bar with
  | none => .ok ()
  | some p =>
    if malformed p then trapAt s .addressInvalid p
    else if windowCode p ≠ 2 then trapAt s .illegalOperand 0
    else if own then barPointer s (some (withCore p (coreOf s.cur))) (coreOf s.cur)
    else if p.toNat % 8 ≠ 0 then trapAt s .misaligned p else .ok ()

/-- A trap whose value is the register that holds the pointer, where a copy of it was tested (R211, R224, R372). -/
def withValue {α : Type} (v : Word) (r : Res α) : Res α :=
  match r with
  | .ok x => .ok x
  | .error (t, s) => .error (if t.value = 0 then t else { t with value := v }, s)

def execCmcast (e : Dep) (a b c : Reg5) (r : BitVec 1) (s : State) : Out :=
  dispatch .ci e (if a = 31 || (r = 1 && c = 31) then illegal s (.cmcast e a b c r) else do
    let d ← src s a
    let mk ← src s (a + 1)
    let p ← src s b
    let n ← src s c
    let bar ← barReg s (.cmcast e a b c r) c r
    countOk s n copyMax
    let own := mk.getLsbD (coreOf s.cur).val
    need s (!malformed d) .addressInvalid d
    operandOk s (windowCode d == 2)
    let here := withCore d (coreOf s.cur)
    let _ ← withValue d (copyPointer s (extentOf here (if own then n.toNat else 0)) false)
    let _ ← copyPointer s (extentOf p n.toNat) false
    withValue (bar.getD 0) (mcastBar s bar own)
    noOverlap s (extentOf here (if own then n.toNat else 0)) (extentOf p n.toNat)
    .ok (copyEntry { copyOf .cmcast d p n bar (if mk = 0 then 0 else n.toNat) with mask := mk })) s

/-- cred (R225): the source is in the core's own private or scratchpad window. -/
def reduceCopy (op : CredOp) (i : Instr) (e : Dep) (a b c : Reg5) (r : BitVec 1) (s : State) : Out :=
  dispatch .co e (if r = 1 && c = 31 then illegal s i else do
    let d ← src s a
    let p ← src s b
    let n ← src s c
    let bar ← barReg s i c r
    countOk s n copyMax
    let w ← copyPointer s (extentOf d n.toNat) true
    need s (!malformed p) .addressInvalid p
    operandOk s (windowCode p == 1 || windowCode p == 2)
    let _ ← copyPointer s (extentOf p n.toNat) false
    barPointer s bar (w.coreFor (coreOf s.cur))
    noOverlap s (extentOf d n.toNat) (extentOf p n.toNat)
    .ok (copyEntry (copyOf (.cred op) d p n bar n.toNat))) s

def execCredAddf (e : Dep) (a b c : Reg5) (r : BitVec 1) (s : State) : Out := reduceCopy .addf (.credAddf e a b c r) e a b c r s
def execCredAddbf (e : Dep) (a b c : Reg5) (r : BitVec 1) (s : State) : Out := reduceCopy .addbf (.credAddbf e a b c r) e a b c r s
def execCredAddi (e : Dep) (a b c : Reg5) (r : BitVec 1) (s : State) : Out := reduceCopy .addi (.credAddi e a b c r) e a b c r s
def execCredMaxf (e : Dep) (a b c : Reg5) (r : BitVec 1) (s : State) : Out := reduceCopy .maxf (.credMaxf e a b c r) e a b c r s
def execCredMinf (e : Dep) (a b c : Reg5) (r : BitVec 1) (s : State) : Out := reduceCopy .minf (.credMinf e a b c r) e a b c r s

def execCstrm (e : Dep) (a b c : Reg5) (s : State) : Out :=
  dispatch .co e (do
    let d ← src s a
    let p ← src s b
    let n ← src s c
    countOk s n 65536
    need s (!malformed d) .addressInvalid d
    operandOk s (windowCode d == 2)
    let _ ← copyPointer s (extentOf d 32) true
    need s (d.toNat % 32 == 0) .misaligned d
    let _ ← copyPointer s (extentOf p n.toNat) false
    .ok (copyEntry (copyOf .cstrm d p n none n.toNat))) s

/-! ## Where the bytes of a copy lie -/

/-- Where a byte of a copy comes from. -/
inductive ByteSrc where
  | const (b : PByte)
  | at (va : Word)
  /-- Two halves of FP4 elements: a byte's address and which half of it; the high one may be the destination's own. -/
  | halves (lo : Word × Bool) (hi : Option (Word × Bool))
  /-- A byte of a gathered row: the page-list entry's address and the byte's offset from the page address. -/
  | paged (entry : Word) (off : Nat)
  deriving DecidableEq, Repr

/-- Indices of word `j` along the levels, i0 fastest, each with its level (R219). -/
def nestIndices : List Level → Nat → List (Nat × Level)
  | [], _ => []
  | l :: r, j => (j % l.n, l) :: nestIndices r (j / l.n)

/-- The distance a walk has gone at word `j`. -/
def nestWalk (f : Level → Int) (ls : List Level) (j : Nat) : Int :=
  (nestIndices ls j).foldl (fun x p => x + Int.ofNat p.1 * f p.2) 0

/-- Source of byte `o` of row `r` for cpack and cunpk. `at` gives a position's row base on the source side, `elem` the source
position of a destination position. -/
def packSrc (bits cols : Nat) (base : Word) (elem : Nat → Nat) (o : Nat) : ByteSrc :=
  if bits = 4 then
    let half := fun (p : Nat) => (base + BitVec.ofNat 64 (p / 2), p % 2 == 1)
    .halves (half (elem (2 * o))) (if 2 * o + 1 < cols then some (half (elem (2 * o + 1))) else none)
  else
    let n := bits / 8
    .at (base + BitVec.ofNat 64 (elem (o / n) * n + o % n))

/-- The pointer to an offset of the context's scratchpad part. -/
def partPtr (k : CtxId) (c : Ctx) (o : Nat) : Word := scrPtr (coreOf k) (BitVec.ofNat 64 (c.scrStart + o))

/-- Source and destination of byte `x` in copy order (R216, R219, R221, R223, R224). -/
def copyPlaces (k : CtxId) (c : Ctx) (op : CopyOp) (x : Nat) : ByteSrc × Word :=
  let w := BitVec.ofNat 64 x
  match op.kind with
  | .cin | .cout | .cmcast | .cred _ | .cstrm => (.at (op.rb + w), op.ra + w)
  | .cfill => (.const { val := fld op.rb (8 * (x % 8)) 8, poison := false }, op.ra + w)
  | .nest | .nesto =>
    let t := BitVec.ofNat 64 (x % 4)
    (.at (op.rb + BitVec.ofInt 64 (nestWalk (·.ss) op.levels (x / 4)) + t),
     op.ra + BitVec.ofInt 64 (nestWalk (·.ds) op.levels (x / 4)) + t)
  | .cgath =>
    let g := gathFirst op.rc + x / gathRowsz op.rc
    (.paged (op.rb + BitVec.ofNat 64 (8 * (g / 2 ^ gathLg op.rc)))
       (g % 2 ^ gathLg op.rc * gathRowsz op.rc + x % gathRowsz op.rc), op.ra + w)
  | .cpack =>
    let h := shapeFields op.shape
    let r := x / h.rowBytes
    let o := x % h.rowBytes
    (packSrc (fmtBits h.fmt) h.cols (partPtr k c (h.base + r * h.stride)) (ilvPos (ilvGroup h.ilv) h.cols) o,
     op.rb + BitVec.ofNat 64 (r * op.rc.toNat + o))
  | .cunpk =>
    let h := shapeFields op.shape
    let r := x / h.rowBytes
    let o := x % h.rowBytes
    (packSrc (fmtBits h.fmt) h.cols (op.rb + BitVec.ofNat 64 (r * op.rc.toNat)) (ilvElem (ilvGroup h.ilv) h.cols) o,
     partPtr k c (h.base + r * h.stride + o))

/-- The pointers whose windows the bytes of a copy stay in (R107, R211). -/
def CopyOp.srcWindow (op : CopyOp) : Nat := match op.kind with | .cpack => 2 | _ => windowCode op.rb
def CopyOp.dstWindow (op : CopyOp) : Nat :=
  match op.kind with | .cpack => windowCode op.rb | .cunpk => 2 | _ => windowCode op.ra

/-! ## Reading and writing as a copy runs -/

/-- Why a byte of a copy cannot be moved. -/
inductive HaltWhy where
  | fault (c : TrapCode) (va : Word)
  | refused
  | link
  /-- Poison where a gather with SLOTV may read none. -/
  | poisoned
  deriving DecidableEq, Repr

/-- The host answers an access to this word with an error. -/
def hostRefuses (s : State) (a : Nat) : Bool := s.hostRefused.any (fun x => x / 4 == a / 4)

/-- A peer answers an access outside its BWIN with an error (R446). -/
def peerAccepts (s : State) (p : Fin 4) (a : Nat) : Bool :=
  let w := s.peerWin[p.val]
  decide (w.1 ≤ a) && decide (a < w.1 + w.2)

/-- The place a unit beyond the core answers for: a dead link, a refusal, or the place. -/
def answered (s : State) (sp : Space) (a : Nat) : Except HaltWhy Unit :=
  match sp with
  | .host => if hostRefuses s a then .error .refused else .ok ()
  | .peer p =>
    if !(s.bports[p.val]).up then .error .link
    else if peerAccepts s p a then .ok () else .error .refused
  | _ => .ok ()

/-- The place of one byte of a copy: in its pointer's window, or by translation in the context's mode (R113, R228). An address that
a walk carries into another window is ADDRESS_INVALID. -/
def copyPlace (s : State) (k : CtxId) (acc : Access) (code : Nat) (va : Word) :
    Except (HaltWhy × State) (State × Space × Nat) :=
  if malformed va || windowCode va ≠ code then .error (.fault .addressInvalid va, s)
  else match windowOf va with
    | .priv o => .ok (s, .pool (coreOf k), (s.ctx k).privStart + o)
    | .scr c o => .ok (s, .pool c, o)
    | .dsh d o => .ok (s, .dsh d, o)
    | .glob a =>
      match translate s (dieOf (coreOf k)) (some (coreOf k)) (s.ctx k).csr.partn (s.ctx k).csr.sact acc a with
      | .error (c, t) => .error (.fault c va, t)
      | .ok (t, sp, b) =>
        match answered t sp b with
        | .error w => .error (w, t)
        | .ok () => .ok (t, sp, b)

/-- A byte that the engine of a context reads at a place, as its die sees it (R116), behind the context's own copies (R27, R30). -/
def readAt (k : CtxId) (x : State × Space × Nat) : State × PByte × Nat × Nat :=
  let s := landMeeting x.1 k x.2.1 x.2.2 1
  (s, dieByte s (dieOf (coreOf k)) x.2.1 x.2.2, (match x.2.1 with | .dmem => 1 | _ => 0), (match x.2.1 with | .peer _ => 1 | _ => 0))

/-- A byte of the source: the state, the byte, and the device-memory and Blumus bytes read for it (R413). `own` is the byte the
destination holds, whose high half an odd FP4 row keeps (R223). -/
def copyByte (s : State) (k : CtxId) (op : CopyOp) (x : Nat) (b : ByteSrc) (own : State → PByte) :
    Except (HaltWhy × State) (State × PByte × Nat × Nat) :=
  let one := fun (s : State) (va : Word) => (copyPlace s k accCopySrc op.srcWindow va).map (readAt k)
  match b with
  | .const v => .ok (s, v, 0, 0)
  | .at va => one s va
  | .halves (a, h) hi =>
    match one s a with
    | .error e => .error e
    | .ok (s1, v, m, l) =>
      let nib := fun (y : PByte) (t : Bool) => if t then y.val.toNat / 16 else y.val.toNat % 16
      match hi with
      | none =>
        let y := own s1
        .ok (s1, { val := BitVec.ofNat 8 (nib v h + 16 * nib y true), poison := v.poison || y.poison }, m, l)
      | some (a2, h2) =>
        match one s1 a2 with
        | .error e => .error e
        | .ok (s2, y, m2, l2) =>
          .ok (s2, { val := BitVec.ofNat 8 (nib v h + 16 * nib y h2), poison := v.poison || y.poison }, m + m2, l + l2)
  | .paged ent off =>
    let bytes := (List.range 8).foldlM (fun (z : State × List PByte × Nat × Nat) i =>
      (one z.1 (ent + BitVec.ofNat 64 i)).map (fun y => (y.1, z.2.1 ++ [y.2.1], z.2.2.1 + y.2.2.1, z.2.2.2 + y.2.2.2))) (s, [], 0, 0)
    match bytes with
    | .error e => .error e
    | .ok (s1, l, m, n) =>
      let charge := off % gathRowsz op.rc == 0
      let (m, n) := if charge then (m, n) else (0, 0)
      if anyPoison l then
        if gathSlotv op.rc then .error (.poisoned, s1)
        else .ok (s1, { val := Config.freeByte (s1.fresh + x % 512), poison := true }, m, n)
      else
        let page : Word := BitVec.ofNat 64 (bytesNat l)
        if malformed page || windowCode page ≠ 0 then .error (.fault .addressInvalid page, s1)
        else
          match (copyPlace s1 k accCopySrc 0 (page + BitVec.ofNat 64 off)).map (readAt k) with
          | .error e => .error e
          | .ok (s2, y, m2, n2) =>
            if y.poison && gathSlotv op.rc then .error (.poisoned, s2) else .ok (s2, y, m + m2, n + n2)

/-- A byte on its way: its number in copy order, its value, and where it goes. -/
structure Moved where
  pos : Nat
  byte : PByte
  dests : List (Space × Nat)

/-- What phase A of a granule has gathered, newest first: nothing is written yet. -/
structure Gathered where
  st : State
  moved : List Moved
  dm : Nat
  lk : Nat
  halt : Option (HaltWhy × Bool × Nat)

/-- The bytes are those of a reducing copy. -/
def CopyKind.isCred : CopyKind → Bool | .cred _ => true | _ => false

/-- One byte of a granule: its source, then its destinations. `zero` is where a failed gather begins to write zeros. -/
def gatherByte (k : CtxId) (op : CopyOp) (cores : List CoreId) (zero : Option Nat) (g : Gathered) (x : Nat) : Gathered :=
  if g.halt.isSome then g
  else
    let (b0, d) := copyPlaces k (g.st.ctx k) op x
    let b := match zero with
      | some z => if z ≤ x then ByteSrc.const { val := 0, poison := false } else b0
      | none => b0
    let acc := if op.kind.isCred then accCredDst else accCopyDst
    let dst := fun (s : State) (va : Word) => copyPlace s k acc op.dstWindow va
    let own := fun (s : State) => match dst s d with
      | .ok (t, sp, a) => (t.memOf sp).get a
      | .error _ => { val := 0, poison := false }
    match copyByte g.st k op x b own with
    | .error (w, s) => { g with st := s, halt := some (w, true, x) }
    | .ok (s1, v, m, l) =>
      let targets := if op.kind = .cmcast then cores.map (withCore d) else [d]
      let placed := targets.foldlM (fun (z : State × List (Space × Nat)) va =>
        (dst z.1 va).map (fun y => (y.1, z.2 ++ [(y.2.1, y.2.2)]))) (s1, [])
      match placed with
      | .error (w, s) => { g with st := s, halt := some (w, false, x) }
      | .ok (s2, ps) =>
        let twice := if op.kind.isCred then 2 else 1
        { st := s2, moved := { pos := x, byte := v, dests := ps } :: g.moved,
          dm := g.dm + m + twice * (ps.filter (fun p => p.1 == .dmem)).length,
          lk := g.lk + l + (ps.filter (fun p => match p.1 with | .peer _ => true | _ => false)).length,
          halt := none }

/-- Phase A of a granule over the 4-byte words it moves, by their numbers in copy order. -/
def gatherWords (s : State) (k : CtxId) (op : CopyOp) (cores : List CoreId) (zero : Option Nat) (ws : List Nat) : Gathered :=
  ws.foldl (fun g w => [0, 1, 2, 3].foldl (fun g i => gatherByte k op cores zero g (4 * w + i)) g)
    { st := s, moved := [], dm := 0, lk := 0, halt := none }

/-- The bytes moved, in copy order, as writes. -/
def writesOf (l : List Moved) : Writes := l.reverse.flatMap (fun m => m.dests.map (fun d => (d.1, d.2, m.byte)))

/-! ## Reduction (R225, R226) -/

/-- Bytes of an element. -/
def credBytes (op : CredOp) : Nat := match op with | .addbf => 2 | _ => 4

/-- A sum in BF16, rounded once; a NaN operand gives the quiet NaN. -/
def addBf (e s : Nat) : Nat × Flags :=
  let (x, f) := (decodeFp bf16 e).add false (decodeFp bf16 s)
  let (b, g) := roundFp bf16 .rne false x
  (b, f ||| g)

/-- The new element and its flags (R225). -/
def credElem (op : CredOp) (e s : Nat) : Nat × Flags :=
  let x := BitVec.ofNat 32 e
  let y := BitVec.ofNat 32 s
  let nan := flagIf (isNan32 x || isNan32 y) NV
  match op with
  | .addf => let (v, f) := add32 x y; (v.toNat, f)
  | .addbf => addBf e s
  | .addi => ((x + y).toNat, 0)
  | .maxf => ((max32 x y).toNat, nan)
  | .minf => ((min32 x y).toNat, nan)

/-- One element combined at its destination, behind the copies of the context that reduces, if one of this device does: the state,
the flags, and whether the result is poisoned. -/
def credApply (op : CredOp) (k : Option CtxId) (s0 : State) (l : List Moved) : State × Flags × Bool :=
  let places := l.flatMap (·.dests)
  let s := match k with
    | some k => places.foldl (fun s p => landMeeting s k p.1 p.2 1) s0
    | none => s0
  let old := places.map (fun p => (s.memOf p.1).get p.2)
  let srcs := l.map (·.byte)
  let (v, f) := credElem op (bytesNat old) (bytesNat srcs)
  let p := anyPoison old || anyPoison srcs
  let new := pbytes p (leBytes (credBytes op) v)
  (putWrites s ((places.zip new).map (fun x => (x.1.1, x.1.2, x.2))), f, p)

/-- Poisoned source bytes cross a Blumus link with one poison bit for each 8 bytes (R447). -/
def flitPoison (l : List Moved) : List Moved :=
  let unit := fun (m : Moved) => m.dests.filterMap (fun d => match d.1 with | .peer p => some (p, d.2 / 8) | _ => none)
  l.map (fun m => { m with byte := { m.byte with
    poison := m.byte.poison || l.any (fun n => n.byte.poison && (unit n).any (fun u => (unit m).contains u)) } })

/-- Elements of a granule combined in turn. -/
def credAll (op : CredOp) (k : Option CtxId) (s : State) (l : List Moved) : State × Flags × Bool :=
  (pieces (credBytes op) (l.length / credBytes op) l).foldl (fun z e =>
    let (t, f, p) := credApply op k z.1 e
    (t, z.2.1 ||| f, z.2.2 || p)) (s, 0, false)

/-- The memories of the device beyond a core (R131). -/
def Space.beyond (sp : Space) (c : CoreId) : Bool := match sp with | .pool d => decide (d ≠ c) | .dsh _ | .dmem => true | _ => false

/-- What a write is performed with: its aligned 8-byte word, or its 32-byte granule of ECC memory (R118, R458). -/
def unitOf (w : Space × Nat × PByte) : Space × Nat := (w.1, if w.1.ecc then w.2.1 / 32 else w.2.1 / 8)

/-- Writes of an entry that are left to be performed later, unit by unit. -/
def postWrites (s : State) (k : CtxId) (q : EngineQ) (ord : Nat) (ws : Writes) : State :=
  { s with posts := s.posts ++ ((ws.map unitOf).eraseDups.map (fun u =>
      { ctx := k, q := q, ord := ord, writes := ws.filter (fun w => unitOf w == u), known := [{ who := .eng k q, since := ord }] })) }

/-- A copy makes writes: into the own core at once; beyond it at once, behind earlier ones of the context to the same bytes, or later
(R119, R131). -/
def copyWrites (s : State) (k : CtxId) (q : EngineQ) (ord : Nat) (ws : Writes) : State :=
  let me : Knower := { who := .eng k q, since := ord }
  if (s.ctx k).lags then
    postWrites (putWritesBy s me (ws.filter (fun w => !w.1.beyond (coreOf k)))) k q ord (ws.filter (fun w => w.1.beyond (coreOf k)))
  else putWritesBy (landPosts s (fun p => p.ctx == k && p.writes.any (fun w => writesMeet ws w.1 w.2.1 1))) me ws

/-- The bytes of a granule reach their destinations: the state, flags, and whether poison was read or delivered. -/
def deliver (op : CopyOp) (k : CtxId) (q : EngineQ) (ord : Nat) (s : State) (l : List Moved) : State × Flags × Bool :=
  match op.kind with
  | .cred o => credAll o (some k) s (flitPoison l.reverse)
  | _ => (copyWrites s k q ord (writesOf l), 0, l.any (·.byte.poison))

/-! ## Flits in flight (R445) -/

/-- A Blumus port. -/
def State.bport (s : State) (p : Fin 4) : BPort := s.bports[p.val]
/-- A port replaced. -/
def State.setBport (s : State) (p : Fin 4) (x : BPort) : State := { s with bports := s.bports.set p.val x }

/-- The flits of 64 bytes that writes at some places take over a port. -/
def flitsOf (p : Fin 4) (l : List (Space × Nat)) : Nat :=
  ((l.filterMap (fun d => if d.1 = .peer p then some (d.2 / 64) else none)).eraseDups).length

/-- `n` flits go into a port's replay buffer (R445). -/
def BPort.send (x : BPort) (o : FlitOf) (now : Word) : Nat → BPort
  | 0 => x
  | n + 1 =>
    BPort.send { x with
      txSeq := x.txSeq + 1, unacked := x.unacked ++ [{ seq := x.txSeq, owner := o }]
      since := if x.unacked.isEmpty then now else x.since } o now n

/-- The flits of a granule's bytes are sent, by their destinations. -/
def sendFlits (s : State) (o : FlitOf) (l : List (Space × Nat)) : State :=
  (List.finRange 4).foldl (fun t p =>
    let n := flitsOf p l
    if n = 0 then t else t.setBport p ((t.bport p).send o t.tsc n)) s

/-- A flit of an owner is unacknowledged. -/
def unackedOf (s : State) (f : FlitOf → Bool) : Bool := s.bports.toList.any (fun x => x.unacked.any (fun u => f u.owner))

/-- The flit is one of a context's copies. -/
def FlitOf.ofCtx (k : CtxId) : FlitOf → Bool
  | .copy j _ _ => j == k
  | .move _ _ _ _ => false

/-! ## The destination check of another core (R113) -/

/-- A task is placed on the context. -/
def Ctx.placed (c : Ctx) : Bool := match c.run with | .idle => false | _ => true

/-- R113 for `n` bytes at a scratchpad offset of the context with the same number on a core. -/
def destOk (s : State) (k : CtxId) (core : CoreId) (o n : Nat) : Bool :=
  let c := s.ctx (ctxAt core (numOf k))
  c.placed && c.csr.partn == (s.ctx k).csr.partn && decide (c.scrStart ≤ o) && decide (o + n ≤ c.privStart)

/-- Scratchpad offset of a scratchpad-window pointer. -/
def scrOff (p : Word) : Nat := fldN p 0 22
/-- Its core. -/
def scrCore (p : Word) : CoreId := Fin.ofNat 64 (fldN p 34 6)

/-- The range a copy writes at its destination: offset and size (R113). -/
def CopyOp.reach (op : CopyOp) : Nat × Nat :=
  match op.kind with
  | .nest | .nesto =>
    let x := nestExtent op.ra op.total (op.levels.map (fun l => (l.n, l.ds)))
    (scrOff op.ra - x.below, x.size)
  | _ => (scrOff op.ra, op.total)

/-- A walk that goes below the window's start reaches no scratchpad. -/
def CopyOp.reachOk (op : CopyOp) : Bool :=
  match op.kind with
  | .nest | .nesto => decide ((nestExtent op.ra op.total (op.levels.map (fun l => (l.n, l.ds)))).below ≤ scrOff op.ra)
  | _ => true

/-- The delivery to a core passes: R113 for its bytes, and R113 with R193 for its barrier (R213). -/
def deliveryOk (s : State) (k : CtxId) (op : CopyOp) (core : CoreId) : Bool :=
  op.reachOk && destOk s k core op.reach.1 op.reach.2 &&
  (match op.bar with
   | some b => destOk s k core (scrOff b) 8
   | none => true)

/-- Other cores' scratchpads a copy writes: none for an own destination. -/
def foreignCores (k : CtxId) (op : CopyOp) : List CoreId :=
  match op.kind with
  | .cmcast => (List.finRange 64).filter (fun c => op.mask.getLsbD c.val && decide (c ≠ coreOf k))
  | .cpack | .cunpk | .cfill | .cin | .cgath | .nest => []
  | _ => if windowCode op.ra = 2 ∧ scrCore op.ra ≠ coreOf k then [scrCore op.ra] else []

/-- The number of the task whose context receives on a core (R113). -/
def receiver (s : State) (k : CtxId) (c : CoreId) : Option Nat := (s.ctx (ctxAt c (numOf k))).task

/-- The core's context is no longer of the task that accepted the delivery's first bytes (R376). -/
def changedHands (s : State) (k : CtxId) (e : Entry) (c : CoreId) : Bool :=
  e.into.any (fun x => x.1 == c && receiver s k c != some x.2)

/-- The destination check made as bytes arrive: the cores refused now (R113, R376). -/
def refusedNow (s : State) (k : CtxId) (e : Entry) (op : CopyOp) : List CoreId :=
  (foreignCores k op).filter (fun c => !deliveryOk s k op c || changedHands s k e c)

/-- The deliveries a copy begins are accepted for the tasks that receive them. -/
def Entry.accept (e : Entry) (s : State) (k : CtxId) (op : CopyOp) : Entry :=
  let new := (foreignCores k op).filter (fun c => !e.into.any (fun x => x.1 == c))
  { e with into := e.into ++ new.filterMap (fun c => (receiver s k c).map (fun n => (c, n))) }

/-- The mask of a list of cores. -/
def maskOfCores (l : List CoreId) : BitVec 64 := l.foldl (fun m c => m ||| (1#64 <<< c.val)) 0

/-- The refusals are recorded (R129, R142): a single delivery that is refused is over, and makes no arrival. -/
def Entry.refuse (e : Entry) (op : CopyOp) (l : List CoreId) : Entry :=
  if l.isEmpty then e
  else if op.kind = .cmcast then
    let m := e.failMask ||| maskOfCores l
    { e with failMask := m, fail := e.fail ||| failMCAST ||| failREFUSED, dead := e.dead || decide (op.mask &&& ~~~m = 0) }
  else { e with fail := e.fail ||| failREFUSED, dead := true, delivered := 0 }

/-- The cores a multicast still delivers to. -/
def liveCores (op : CopyOp) (e : Entry) : List CoreId :=
  (List.finRange 64).filter (fun c => op.mask.getLsbD c.val && !e.failMask.getLsbD c.val)

/-! ## Budgets (R411, R413) -/

/-- A budget of all ones is unlimited; a spent one holds nothing. -/
def spent (limit : BitVec 32) (left : Nat) : Bool := decide (limit ≠ 0xFFFFFFFF) && decide (left = 0)

/-- A granule of a partition that moves these bytes does not start (R413). -/
def budgetStops (s : State) (p : Fin 16) (dm lk : Nat) : Bool :=
  let x := s.part p
  (decide (0 < dm) && spent x.dmem x.dmemLeft) || (decide (0 < lk) && spent x.link x.linkLeft)

/-- The bytes are charged. -/
def charge (s : State) (p : Fin 16) (dm lk : Nat) : State :=
  let x := s.part p
  s.setPart p { x with dmemLeft := x.dmemLeft - dm, linkLeft := x.linkLeft - lk }

/-! ## Granules -/

/-- The head entry of a queue. -/
def Ctx.head (c : Ctx) (q : EngineQ) : Option Entry := (c.queue q).entries.head?
/-- The head entry replaced. -/
def Ctx.setHead (c : Ctx) (q : EngineQ) (e : Entry) : Ctx := c.setEntries q (e :: (c.queue q).entries.tail)
/-- The head of a queue of a context replaced. -/
def State.setHead (s : State) (k : CtxId) (q : EngineQ) (e : Entry) : State := s.modCtx k (·.setHead q e)

/-- A copy as its bytes move: a claimed cstrm writes at its slot (R227). -/
def Entry.moving (e : Entry) (op : CopyOp) : CopyOp := match e.slot with | some p => { op with ra := p } | none => op

/-- The running copy of a queue: started, not complete, not parked. -/
def Ctx.running (c : Ctx) (q : EngineQ) : Option (Entry × CopyOp) :=
  match c.head q with
  | some e =>
    match e.op with
    | .copy op => if e.started && !e.done && !e.parked then some (e, e.moving op) else none
    | _ => none
  | none => none

/-- A copy's fault is reported (R228): not under a pre-emption (R468), and not while the context already takes a trap that no report
displaces: the copy meets the fault again when it resumes. -/
def Run.hearsFault (r : Run) : Bool :=
  match r with
  | .running | .waiting _ | .restored => true
  | .draining (.trap u) => u.queue == 0 && u.code != .queueStall
  | _ => false

/-- HELD of the records a fault parks: that of the drain that runs, or of the report's own delivery (R379, R383). -/
def Ctx.heldFor (c : Ctx) (t : Trap) : BitVec 2 :=
  match c.run with
  | .draining w => c.heldBy w
  | _ => c.heldBy (.trap t)

/-- COPY_FAULT_PARK (R228): the copy parks before the granule and the context takes the trap. -/
def faultPark (s : State) (k : CtxId) (q : EngineQ) (c : TrapCode) (va : Word) : State :=
  match (s.ctx k).head q with
  | none => s
  | some e =>
    let t : Trap := { code := c, value := va, queue := q.code, seq := e.seq }
    let s1 := if (s.ctx k).run.hearsFault then report s k t else s
    s1.modCtx k (fun x => x.setEntries q ((x.queue q).entries.map (Entry.park (x.heldFor t))))

/-- The bits a refusal or a dead link leaves. -/
def haltBits (w : HaltWhy) : BitVec 4 := match w with | .refused => failREFUSED | .link => failLINK | _ => 0

/-- FCODE of a slot fault (R221). -/
def slotCode (w : HaltWhy) : BitVec 8 :=
  match w with | .fault c _ => c.code | .refused => 0x24 | .link => 0x25 | .poisoned => 0x18

/-- SLOT_FAULT_MARK (R221): the slot is marked, and from the failing row on zeros are written; its granule begins again. -/
def slotFault (s : State) (k : CtxId) (q : EngineQ) (e : Entry) (op : CopyOp) (w : HaltWhy) (x : Nat) : State :=
  let z := x / gathRowsz op.rc * gathRowsz op.rc
  let s1 := match s.taskOf k with
    | some (t, _) => markSlot s t (gathSlot op.rc) (slotCode w)
    | none => s
  s1.setHead k q { e with zeroFrom := some z, goff := z / 256, ahead := e.ahead.filter (fun p => decide (4 * p < z)) }

/-- The end of a granule: delivered with the `more` words that share an 8-byte word with it, and what came in its way. Its bytes are
charged (R413). -/
def endGranule (k : CtxId) (q : EngineQ) (e : Entry) (op : CopyOp) (hi : Nat) (more : List Nat) (g : Gathered) : State :=
  match g.halt with
  | none =>
    let (s1, f, p) := deliver op k q e.ord g.st g.moved
    let s2 := sendFlits (charge s1 (s1.ctx k).csr.partn g.dm g.lk) (.copy k q e.seq) (g.moved.flatMap (·.dests))
    let ahead := (e.ahead ++ more).filter (fun p => decide (hi ≤ 4 * p))
    { s2.setHead k q { e with goff := e.goff + 1, delivered := hi, ahead := ahead, flags := e.flags ||| f,
                              fail := e.fail ||| (if p then failPOISON else 0) } with fresh := s2.fresh + 512 }
  | some (w, true, x) =>
    if op.kind = .cgath && gathSlotv op.rc then slotFault g.st k q e op w x
    else stop g.st w x
  | some (w, false, x) => stop g.st w x
where
  stop (s : State) (w : HaltWhy) (x : Nat) : State :=
    match w with
    | .fault c va => faultPark s k q c va
    | _ =>
      let word := x / 4 * 4
      let l := g.moved.filter (fun m => decide (m.pos < word))
      let (s1, f, p) := deliver op k q e.ord (charge s (s.ctx k).csr.partn g.dm g.lk) l
      (sendFlits s1 (.copy k q e.seq) (l.flatMap (·.dests))).setHead k q
        { e with dead := true, delivered := word, flags := e.flags ||| f,
                 fail := e.fail ||| haltBits w ||| (if p then failPOISON else 0) }

/-- The levels of a walk, outermost first, each with the words that one turn of it takes. -/
def walkTurns : Nat → List Level → List (Nat × Level)
  | _, [] => []
  | w, l :: r => walkTurns (w * l.n) r ++ [(w, l)]

/-- How far below and above its beginning the destinations of levels reach. -/
def walkSpan (ls : List (Nat × Level)) : Int × Int :=
  ls.foldl (fun x p => (x.1 + min 0 ((Int.ofNat p.2.n - 1) * p.2.ds), x.2 + max 0 ((Int.ofNat p.2.n - 1) * p.2.ds))) (0, 0)

/-- The indices below `n` whose multiples of a stride lie from `a` to `b`. -/
def indicesIn (n : Nat) (st a b : Int) : List Nat :=
  if st = 0 then (if a ≤ 0 ∧ 0 ≤ b then List.range n else [])
  else
    let lo := if 0 < st then -((-a) / st) else -(b / (-st))
    let hi := if 0 < st then b / st else (-a) / (-st)
    let first := lo.toNat
    (List.range (min (hi + 1) (Int.ofNat n) - Int.ofNat first).toNat).map (first + ·)

/-- The words at which the destinations of a walk have gone a distance. -/
def wordsAt : List (Nat × Level) → Int → List Nat
  | [], d => if d = 0 then [0] else []
  | (w, l) :: r, d =>
    let span := walkSpan r
    (indicesIn l.n l.ds (d - span.2) (d - span.1)).flatMap (fun i => (wordsAt r (d - Int.ofNat i * l.ds)).map (· + i * w))

/-- The 4-byte words of a copy that go to the other half of a word's aligned 8-byte destination. -/
def otherHalves (k : CtxId) (c : Ctx) (op : CopyOp) (w : Nat) : List Nat :=
  let dest := fun (w : Nat) => (copyPlaces k c op (4 * w)).2
  let a := dest w ^^^ 4
  match op.kind with
  | .nest | .nesto => if op.total = 0 then [] else wordsAt (walkTurns 1 op.levels) (a - op.ra).toInt
  | _ => ((if w = 0 then [] else [w - 1]) ++ [w + 1]).filter (fun v => decide (4 * v < op.total) && dest v == a)

/-- The word from which a granule moves: a gather that goes back to write zeros begins with the 8-byte word of its first zero (R118,
R221). -/
def granuleFrom (k : CtxId) (c : Ctx) (e : Entry) (op : CopyOp) : Nat :=
  match e.zeroFrom with
  | some z =>
    if 256 * e.goff < e.delivered && z / 256 == e.goff then
      z / 4 - (if (otherHalves k c op (z / 4)).contains (z / 4 - 1) && decide (4 ≤ z) then 1 else 0)
    else 64 * e.goff
  | none => 64 * e.goff

/-- What moving a word moves with it (R118): nothing where its other half moves with it anyway or is none of the copy's, else the first
of the words to come that go there. None of them is left where the copy has written its destination already: two words land on it, and
which one it ends holding is open (R219). -/
def joins (k : CtxId) (c : Ctx) (e : Entry) (op : CopyOp) (lo hi w : Nat) : Option (List Nat) :=
  let l := if op.kind.isCred then [] else otherHalves k c op w
  if l.isEmpty || l.any (fun v => decide (lo ≤ v) && decide (v < hi) && !e.ahead.contains v) then some []
  else match l.filter (fun v => decide (hi ≤ v) && !e.ahead.contains v) with
    | [] => none
    | v :: r => some [r.foldl min v]

/-- What the next granule of a copy gathers, with where it ends and the words it takes from beyond: a fault among those leaves them
to the granule they belong to. -/
def nextGranule (s : State) (k : CtxId) (e : Entry) (op : CopyOp) : Nat × List Nat × Gathered :=
  let c := s.ctx k
  let hi := min (256 * e.goff + 256) op.total
  let lo := granuleFrom k c e op
  let ws := ((List.range (hi / 4 - lo)).map (lo + ·)).filter (fun w => !e.ahead.contains w)
  let js := ws.map (fun w => (w, joins k c e op lo (hi / 4) w))
  let more := (js.flatMap (fun j => j.2.getD [])).eraseDups
  let idle := js.filterMap (fun j => if j.2.isNone then some j.1 else none)
  let gather := fun (more : List Nat) =>
    let g := gatherWords s k op (liveCores op e) e.zeroFrom (ws ++ more)
    { g with moved := g.moved.filter (fun m => !idle.contains (m.pos / 4)) }
  let g := gather more
  if g.halt.any (fun h => decide (hi ≤ h.2.2)) then (hi, [], gather []) else (hi, more, g)

/-- A granule of a copy whose destinations have been checked: it waits while a budget it draws on is spent (R413). -/
def runGranule (s : State) (k : CtxId) (q : EngineQ) (e : Entry) (op : CopyOp) : State :=
  let (hi, more, g) := nextGranule s k e op
  if budgetStops s (s.ctx k).csr.partn g.dm g.lk then s else endGranule k q e op hi more g

/-- A running copy pauses for a spent byte budget, which counts as out of budget (R413). -/
def copyPaused (s : State) (k : CtxId) (q : EngineQ) : Bool :=
  match (s.ctx k).running q with
  | none => false
  | some (e, op) =>
    let (_, _, g) := nextGranule s k e op
    decide (256 * e.goff < op.total) && budgetStops s (s.ctx k).csr.partn g.dm g.lk

/-- The running copy of a queue moves its next granule, once its destinations have passed. -/
def copyGranule (s : State) (k : CtxId) (q : EngineQ) : State :=
  match (s.ctx k).running q with
  | none => s
  | some (e, op) =>
    if e.dead || e.drop || decide (op.total ≤ 256 * e.goff) || (op.kind == .cstrm && e.claim.isNone) then s
    else
      let e1 := e.refuse op (refusedNow s k e op)
      if e1.dead then s.setHead k q e1
      else
        let e2 := e1.accept s k op
        runGranule (s.setHead k q e2) k q e2 op

/-! ## Stream-ring producers (R140, R227) -/

/-- A ring for a producer into a context of a core: its descriptor, none when R113 or R139 refuses it. -/
def producerRing (s : State) (k : CtxId) (core : CoreId) (o : Nat) : Option RingDesc :=
  let r := ringOf (s.read (.pool core) o 32)
  if destOk s k core o 32 && r.valid (s.ctx (ctxAt core (numOf k))) then some r else none

/-- A slot is free. -/
def RingDesc.room (r : RingDesc) : Bool := decide ((r.resv - r.freed).toNat < r.count)

/-- An agent observes a ring's counters: their advances happen before (R122). -/
def ringLearnt (s : State) (me : Knower) (core : CoreId) (o : Nat) : State := learnAt s me ((s.relsOn (.ring core o)).map (·.by_))

/-- The writes of an entry's queue up to the entry, and those its engine knows of, are performed: it makes a release (R131). -/
def engineRelease (s : State) (me : Knower) : State :=
  landPosts s (fun p => p.knownTo [me])

/-- STREAM_SLOT_CLAIM of a cstrm: the slot is its own until it is published, and its engine is taken. -/
def claimStream (s : State) (k : CtxId) : State :=
  match (s.ctx k).running .co with
  | none => s
  | some (e, op) =>
    if op.kind ≠ .cstrm || e.claim.isSome || e.dead || e.drop then s
    else
      let core := scrCore op.ra
      match producerRing s k core (scrOff op.ra) with
      | none => s.setHead k .co (e.refuse op [core])
      | some r =>
        if r.slotsz < op.total then s.setHead k .co (e.refuse op [core])
        else if !r.room then s
        else
          let slot := scrPtr core (BitVec.ofNat 64 (r.base + r.resv.toNat % r.count * r.slotsz))
          let s1 := ringLearnt s { who := .eng k .co, since := e.ord } core (scrOff op.ra)
          (setCounter s1 core (scrOff op.ra) ringRESV (r.resv + 1)).setHead k .co
            { e with claim := some r.resv, slot := some slot, onEngine := true }

/-- FILLED of a ring. -/
def ringFilled (s : State) (core : CoreId) (o : Nat) : BitVec 32 := (ringOf (s.read (.pool core) o 32)).filled

/-- The ring a cstrm names (R227). -/
def Entry.ring (e : Entry) : Word := match e.op with | .copy op => op.ra | _ => 0

/-- STREAM_SLOT_PUBLISH of a cstrm whose bytes are all written: once earlier claims are published. -/
def publishStream (s : State) (k : CtxId) : State :=
  match (s.ctx k).running .co with
  | none => s
  | some (e, op) =>
    match e.claim, e.slot with
    | some n, some _ =>
      if op.kind ≠ .cstrm || (!e.dead && !e.drop && decide (256 * e.goff < op.total)) then s
      else
        let core := scrCore e.ring
        let o := scrOff e.ring
        if !destOk s k core o 32 then s.setHead k .co { e with slot := none }
        else if ringFilled s core o ≠ n then s
        else
          let me : Knower := { who := .eng k .co, since := e.ord }
          (advanceRing (engineRelease s me) core o ringFILLED (n + 1) me).setHead k .co { e with slot := none }
    | _, _ => s

/-! ## Completion (R213, R214, R231, R232) -/

/-- The arrival of a copy at its barrier on a core: an own one in the executing context, another core's checked there. -/
def arriveOn (s : State) (k : CtxId) (ptr : Word) (core : CoreId) (n : Nat) : State :=
  if n = 0 then s
  else if core = coreOf k then
    match objectAt s k ptr 8 with
    | .ok o => arrival s core o n
    | .error _ => s
  else if destOk s k core (scrOff ptr) 8 then arrival s core (scrOff ptr) n
  else s

/-- The arrivals of a copy, one for each barrier whose destination received bytes (R136): a release of its bytes (R131). -/
def arrivals (s : State) (k : CtxId) (q : EngineQ) (e : Entry) (op : CopyOp) : State :=
  match op.bar with
  | none => s
  | some b =>
    let s1 := engineRelease s { who := .eng k q, since := e.ord }
    if op.kind = .cmcast then
      (liveCores op e).foldl (fun t c => arriveOn t k (withCore b c) c e.delivered) s1
    else
      let core := match foreignCores k op with | [c] => c | _ => coreOf k
      arriveOn s1 k b core e.delivered

/-- CPSTAT and CPMASK of a retiring copy (R231, R232). -/
def copyStatus (c : Csr) (q : EngineQ) (e : Entry) (op : CopyOp) : Csr :=
  let c1 := if op.kind = .cmcast then { c with cpmask := e.failMask } else c
  if e.fail = 0 then c1
  else { c1 with cpSeq := e.seq, cpQueue := q.code, cpFail := c1.cpFail ||| e.fail,
                 cpCount := if c1.cpCount = 255 then 255 else c1.cpCount + 1 }

/-- COPY_COMPLETE of the running copy of a queue: a dropped one records REFUSED (R370). -/
def completeCopy (s : State) (k : CtxId) (q : EngineQ) (e0 : Entry) (op : CopyOp) : State :=
  let late := if e0.dead || op.kind = .cstrm then [] else refusedNow s k e0 op
  let e1 := e0.refuse op (late.filter (fun c => !e0.failMask.getLsbD c.val))
  let e := if e1.drop && !e1.dead && decide (256 * e1.goff < op.total) then { e1 with fail := e1.fail ||| failREFUSED } else e1
  let s1 := arrivals s k q e op
  s1.modCtx k (fun c => ({ c with csr := copyStatus c.csr q e op }.setHead q { e with done := true, onEngine := false }))

/-- Event COPY_COMPLETE (R214): a copy over Blumus waits for the acknowledgement of its flits (R445). -/
def execEvCopyComplete (s : State) : Out :=
  let k := s.arg.ctx
  let q := s.arg.q
  match (s.ctx k).running q with
  | some (e, op) => if e.over op.total && !unackedOf s (· == .copy k q e.seq) then .next (completeCopy s k q e op) else .next s
  | none => .next s

end Sys2Proof.Machine
end

