-- ==== Sys2Proof/Machine/Csr.lean ====
section
/-!
DEFINITION. CSR access, time, the software trap and the user return (R104, R105, R200 to R203, R364 to R366).
-/
namespace Sys2Proof.Machine

/-- A bit as a word. -/
def bitW (b : Bool) : Word := if b then 1 else 0

/-- A cause CSR (R47). -/
def causeWord (seq : BitVec 32) (q : BitVec 3) (code : BitVec 8) : Word := seq ++ 0#21 ++ q ++ code

/-- CSRs by number, for reading (R104, R231, R364); none for an unassigned number. -/
def readCsr (s : State) (k : CtxId) (n : Nat) : Option Word :=
  let c := s.ctx k
  let r := c.csr
  match n with
  | 0x000 => some 1
  | 0x001 => some (BitVec.ofNat 64 (r.gsize.toNat * 2 ^ 16 + r.rank.toNat * 2 ^ 8 + k.val))
  | 0x002 => some r.stepn
  | 0x003 => some (zext64 r.nslots)
  | 0x004 => some (zext64 r.ragbase)
  | 0x005 => some r.remt
  | 0x008 => some (zext64 r.vrb)
  | 0x009 => some (r.parkocc ++ 0#8 ++ BitVec.ofNat 8 (s.npark k) ++ BitVec.ofNat 8 r.dslots ++ BitVec.ofNat 8 (s.pslots k))
  | 0x00A => some (BitVec.ofNat 64
      (r.poolPriv * 2 ^ 40 + r.poolL1 * 2 ^ 30 + r.poolScr * 2 ^ 20 + r.poolReg * 2 ^ 10 + r.poolBase))
  | 0x00B => some (BitVec.ofNat 64 ((s.die 1).dscarve.toNat * 2 ^ 16 + (s.die 0).dscarve.toNat))
  | 0x010 => some (zext64 r.nflag)
  | 0x011 => some (zext64 r.nctl)
  | 0x012 => some (r.cpSeq ++ 0#4 ++ r.cpQueue ++ 0#9 ++ r.cpCount ++ 0#4 ++ r.cpFail)
  | 0x013 => some r.cpmask
  | 0x018 => some (r.utvecBase ++ BitVec.ofBool r.utvecAct ++ BitVec.ofBool r.utvecEn)
  | 0x019 => some (r.uepc ++ 0#2)
  | 0x01A => some (causeWord r.ucauseSeq r.ucauseQueue r.ucauseCode)
  | 0x01B => some r.utval
  | 0x100 => some (bitW r.sact + 2 * bitW r.note + 8 * bitW r.dlc + 16 * bitW r.hold)
  | 0x101 => some (r.stvecBase ++ 0#2)
  | 0x102 => some (r.sepc ++ 0#2)
  | 0x103 => some (causeWord r.scauseSeq r.scauseQueue r.scauseCode)
  | 0x104 => some r.stval
  | 0x105 => some r.sscratch
  | 0x108 => some (zext64 r.qwdog)
  | 0x109 => some (zext64 (s.core (coreOf k)).accsplit)
  | 0x10A => some (BitVec.ofNat 64 r.partn.val)
  | 0x10B => some r.ctximg
  | _ => none

/-- A write field by field by access type (R5): RO fields are kept, W1C bits cleared where written 1. -/
def writeCsr (r : Csr) (wdfloor : Nat) (n : Nat) (v : Word) : Csr :=
  match n with
  | 0x005 => { r with remt := v }
  | 0x008 => { r with vrb := fld v 0 4 }
  | 0x010 => { r with nflag := r.nflag &&& ~~~(fld v 0 7) }
  | 0x011 => { r with nctl := fld v 0 5 }
  | 0x012 => { r with cpCount := fld v 8 8, cpFail := r.cpFail &&& ~~~(fld v 0 4) }
  | 0x018 => { r with utvecBase := fld v 2 62, utvecEn := v.getLsbD 0 }
  | 0x019 => { r with uepc := fld v 2 62 }
  | 0x100 => { r with note := r.note && !v.getLsbD 1 }
  | 0x101 => { r with stvecBase := fld v 2 62 }
  | 0x102 => { r with sepc := fld v 2 62 }
  | 0x105 => { r with sscratch := v }
  | 0x108 => { r with qwdog := BitVec.ofNat 32 (max (fldN v 0 32) (2 ^ wdfloor)) }
  | _ => r

/-- The traps on a CSR number: PRIVILEGED first, then an unassigned number (R104). -/
def csrChecks (s : State) (i : Instr) (n : Nat) : Res Word :=
  if 0x100 ≤ n && !(s.ctx s.cur).csr.sact then trapAt s .privileged (wordOf i)
  else match readCsr s s.cur n with
    | some v => .ok v
    | none => illegal s i

/-- rdcsr (R200). -/
def execRdcsr (d : Reg5) (i : BitVec 9) (s : State) : Out :=
  finish s (do let v ← csrChecks s (.rdcsr d i) i.toNat; .ok (putReg s 0 d v))

/-- wrcsr (R201). -/
def execWrcsr (a : Reg5) (i : BitVec 9) (s : State) : Out :=
  finish s (do
    let _ ← csrChecks s (.wrcsr a i) i.toNat
    let v ← src s a
    .ok (s.modCtx s.cur (fun c => { c with csr := writeCsr c.csr s.limits.wdfloor i.toNat v }.advance 0)))

/-- rdts: the global timestamp (R202, R454). -/
def execRdts (d : Reg5) (s : State) : Out := finish s (.ok (putReg s 0 d s.tsc))

/-- trap #n: SOFTWARE_TRAP with n (R203). -/
def execTrap (n : BitVec 8) (s : State) : Out := finish s (trapAt s .softwareTrap (zext64 n))

/-- utret (R48, R203): in U mode with ACT = 1. A report that waited is raised (R373). -/
def execUtret (s : State) : Out :=
  let c := s.ctx s.cur
  finish s (if c.csr.sact || !c.csr.utvecAct then illegal s .utret else .ok (raiseHeld (s.modCtx s.cur (·.returnUser)) s.cur))

end Sys2Proof.Machine
end

