-- ==== Sys2Proof/Machine/Limm.lean ====
section
/-!
DEFINITION. LIMM (R148 to R150): the prefix and the instruction after it run as one, with the immediate {imm22, low field}; traps
report the LIMM's address and word.
-/
namespace Sys2Proof.Machine

/-- The 31-bit immediate of IF and M formats. -/
def limm9 (u : BitVec 22) (i : BitVec 9) : Word := sext64 (u ++ i : BitVec 31)
/-- The 40-bit offset of br, jmp and call. -/
def limm18 (u : BitVec 22) (o : BitVec 18) : Word := sext64 (u ++ o : BitVec 40)
/-- The 36-bit count of loopi, unsigned. -/
def limm14u (u : BitVec 22) (i : BitVec 14) : Word := zext64 (u ++ i : BitVec 36)
/-- The 36-bit offset of loopb. -/
def limm14 (u : BitVec 22) (o : BitVec 14) : Word := sext64 (u ++ o : BitVec 36)
/-- The 27-bit immediate of cmpi. -/
def limm5 (u : BitVec 22) (i : BitVec 5) : Word := sext64 (u ++ i : BitVec 27)

/-- A legal pair (R149); any other following instruction traps at the LIMM. -/
def pair (u : BitVec 22) (j : Instr) (s : State) : Out :=
  let me : Instr := .limm u
  match j with
  | .addi d a i => immOp me 0 4 d a (limm9 u i) s
  | .andi d a i => immOp me 1 4 d a (limm9 u i) s
  | .ori d a i => immOp me 2 4 d a (limm9 u i) s
  | .xori d a i => immOp me 3 4 d a (limm9 u i) s
  | .slli d a i => immOp me 4 4 d a (limm9 u i) s
  | .srli d a i => immOp me 5 4 d a (limm9 u i) s
  | .srai d a i => immOp me 6 4 d a (limm9 u i) s
  | .addiw d a i => immOp me 7 4 d a (limm9 u i) s
  | .ldB d b o => load 4 d b true 1 (limm9 u o) s
  | .ldH d b o => load 4 d b true 2 (limm9 u o) s
  | .ldW d b o => load 4 d b true 4 (limm9 u o) s
  | .ldD d b o => load 4 d b true 8 (limm9 u o) s
  | .ldBu d b o => load 4 d b false 1 (limm9 u o) s
  | .ldHu d b o => load 4 d b false 2 (limm9 u o) s
  | .ldWu d b o => load 4 d b false 4 (limm9 u o) s
  | .stB r b o => store 4 r b 1 (limm9 u o) s
  | .stH r b o => store 4 r b 2 (limm9 u o) s
  | .stW r b o => store 4 r b 4 (limm9 u o) s
  | .stD r b o => store 4 r b 8 (limm9 u o) s
  | .br p o => branch 4 ((s.ctx s.cur).pred p) (limm18 u o) s
  | .brF p o => branch 4 (!(s.ctx s.cur).pred p) (limm18 u o) s
  | .jmp o => jump 4 false (limm18 u o) s
  | .call o => jump 4 true (limm18 u o) s
  | .loopi d i => loopInit me 4 d (limm14u u i) s
  | .loopb a o => loopBack me 4 a (limm14 u o) s
  | .cmpi p a i c => compareImm me 4 p c a (limm5 u i) s
  | _ => finish s (illegal s me)

/-- limm: the next word is fetched and the pair runs (R149, R150). -/
def execLimm (u : BitVec 22) (s : State) : Out :=
  match fetchWord s s.cur ((s.ctx s.cur).pc + 4) with
  | .error e => finish s (.error e)
  | .ok (s1, w) =>
    match decode w with
    | .ok j => pair u j s1
    | .error _ => finish s1 (illegal s1 (.limm u))

end Sys2Proof.Machine
end

