-- ==== Sys2Proof/Machine/Madder.lean ====
section
/-!
DEFINITION. The Madder grammar engine: compiled grammars (R308, R309), automata (R310, R311), the G-instructions at the FE and in
the unit (R312 to R315, R470), and event MADDER_PERFORM.
-/
namespace Sys2Proof.Machine

/-! ## Reads of a unit through a partition's translations -/

/-- One byte that a unit of a die reads from device memory at a virtual address (R470): none when the read faults or the page is
a host or Blumus window. The fills of the die's translation caches are dropped at once. -/
def unitByte (s : State) (d : DieId) (p : Fin 16) (va : Word) : Option PByte :=
  if !canonical va || windowCode va ≠ 0 then none
  else match translate s d none p false accDevRead (fldN va 0 48) with
    | .ok (_, .dmem, a) => some (s.dmem.get a)
    | _ => none

/-- `n` bytes that a unit reads. -/
def unitBytes (s : State) (d : DieId) (p : Fin 16) (va : Word) : Nat → Option (List PByte)
  | 0 => some []
  | n + 1 =>
    match unitByte s d p va with
    | none => none
    | some b => (unitBytes s d p (va + 1) n).map (fun r => b :: r)

/-- Clean bytes only. -/
def cleanBytes (s : State) (d : DieId) (p : Fin 16) (va : Word) (n : Nat) : Option (List PByte) :=
  match unitBytes s d p va n with
  | some b => if anyPoison b then none else some b
  | none => none

/-! ## Grammars (R308, R309) -/

/-- The header 64 bytes hold, when it keeps the ranges R308 states. A START of NSTATE or more, an EOS beyond NTOK and tables past SIZE
fail no check here (DESIGN CHOICE, log 119): a walk that meets them finds a malformed entry. -/
def parseHeader (b : List PByte) : Option GHeader :=
  let h : GHeader :=
    { nsym := fieldAt b 6 2, nstate := fieldAt b 8 4, ntok := fieldAt b 12 4, start := fieldAt b 16 2, eos := fieldAt b 20 4,
      stoff := fieldAt b 24 8, troff := fieldAt b 32 8, trieoff := fieldAt b 40 8, size := fieldAt b 48 8,
      ntrans := fieldAt b 56 4, nnode := fieldAt b 60 4 }
  if fieldAt b 0 4 = 0x47474245 ∧ fieldAt b 4 2 = 1 ∧ 1 ≤ h.nsym ∧ h.nsym ≤ 256 ∧ 1 ≤ h.nstate ∧ h.nstate ≤ 65536
      ∧ 1 ≤ h.ntok ∧ h.ntok ≤ 262144 ∧ fieldAt b 18 2 = 0 ∧ 1 ≤ h.nnode ∧ h.nnode ≤ 2 ^ 24 then some h else none

/-- The header at a grammar pointer; none when it cannot be read or fails R308. -/
def readHeader (s : State) (d : DieId) (p : Fin 16) (ptr : Word) : Option GHeader :=
  (cleanBytes s d p ptr 64).bind parseHeader

/-- A grammar as a walk reads it: where it lies, for whom. -/
structure GImage where
  ptr : Word
  hdr : GHeader
  die : DieId
  part : Fin 16

/-- How a walk ends other than in a configuration: dead, or dead on a malformed entry (R311, R470). -/
inductive WalkEnd where
  | dead
  /-- With the address and size of a read that could not be made. -/
  | malformed (at_ : Option (Word × Nat))
  deriving DecidableEq, Repr

/-- An entry of `n` bytes at an offset of the image, as a number. -/
def GImage.entry (s : State) (g : GImage) (off n : Nat) : Except WalkEnd Nat :=
  if g.hdr.size < off + n then .error (.malformed none)
  else match cleanBytes s g.die g.part (g.ptr + BitVec.ofNat 64 off) n with
    | some b => .ok (bytesNat b)
    | none => .error (.malformed (some (g.ptr + BitVec.ofNat 64 off, n)))

/-- ACC, COUNT, FIRST of a state. -/
def GImage.state (s : State) (g : GImage) (i : Nat) : Except WalkEnd (Bool × Nat × Nat) :=
  if g.hdr.nstate ≤ i then .error (.malformed none)
  else do
    let e ← g.entry s (g.hdr.stoff + 8 * i) 8
    .ok (e / 2 ^ 48 % 2 = 1, e / 2 ^ 32 % 2 ^ 16, e % 2 ^ 32)

/-- Transition `i` as its 64 bits. -/
def GImage.trans (s : State) (g : GImage) (i : Nat) : Except WalkEnd Word :=
  if g.hdr.ntrans ≤ i then .error (.malformed none)
  else do
    let e ← g.entry s (g.hdr.troff + 8 * i) 8
    .ok (BitVec.ofNat 64 e)

/-- BYTE and PARENT of a trie node. -/
def GImage.node (s : State) (g : GImage) (i : Nat) : Except WalkEnd (Nat × Nat) :=
  if g.hdr.nnode ≤ i then .error (.malformed none)
  else do
    let e ← g.entry s (g.hdr.trieoff + 16 * i) 16
    .ok (e / 2 ^ 96 % 256, e % 2 ^ 32)

/-- The trie node of a token. -/
def GImage.token (s : State) (g : GImage) (v : Nat) : Except WalkEnd Nat :=
  g.entry s (g.hdr.trieoff + 16 * g.hdr.nnode + 4 * v) 4

/-! ## Walks (R311) -/

/-- TOP of a transition matches a stack. One that names a symbol of NSYM or more matches none and is passed over, without BADG (DESIGN
CHOICE, log 116). -/
def topMatches (top : Nat) (stack : List Nat) : Bool :=
  top == 0xFFFF || (top == 0xFFFE && stack.isEmpty) || stack.head? == some top

/-- A configuration after a transition. A push onto a full stack dies before its symbol and its next state are looked at, and sets no
BADG (DESIGN CHOICE, log 116). -/
def applyTrans (g : GImage) (c : GConf) (t : Word) : Except WalkEnd GConf :=
  let op := fldN t 48 2
  let popped : Except WalkEnd (List Nat) :=
    if op = 2 ∨ op = 3 then (match c.stack with | [] => .error .dead | _ :: r => .ok r) else .ok c.stack
  match popped with
  | .error e => .error e
  | .ok st =>
    if (op = 1 ∨ op = 3) ∧ 64 ≤ st.length then .error .dead
    else if (op = 1 ∨ op = 3) ∧ g.hdr.nsym ≤ fldN t 50 8 then .error (.malformed none)
    else if g.hdr.nstate ≤ fldN t 32 16 then .error (.malformed none)
    else .ok { c with state := fldN t 32 16, stack := if op = 1 ∨ op = 3 then fldN t 50 8 :: st else st }

/-- The first matching transition among `n` from index `i`. -/
def stepFrom (s : State) (g : GImage) (c : GConf) (b : Nat) : Nat → Nat → Except WalkEnd GConf
  | 0, _ => .error .dead
  | n + 1, i =>
    match g.trans s i with
    | .error e => .error e
    | .ok t =>
      if fldN t 0 8 ≤ b ∧ b ≤ fldN t 8 8 ∧ topMatches (fldN t 16 16) c.stack then applyTrans g c t
      else stepFrom s g c b n (i + 1)

/-- One byte moves a configuration. -/
def stepByte (s : State) (g : GImage) (c : GConf) (b : Nat) : Except WalkEnd GConf := do
  let (_, count, first) ← g.state s c.state
  stepFrom s g c b count first

/-- Bytes on the path from the root to a node, at most `n` of them. -/
def pathTo (s : State) (g : GImage) : Nat → Nat → List Nat → Except WalkEnd (List Nat)
  | 0, node, acc => if node = 0 then .ok acc else .error (.malformed none)
  | n + 1, node, acc =>
    if node = 0 then .ok acc
    else match g.node s node with
      | .error e => .error e
      | .ok (b, parent) => pathTo s g n parent (b :: acc)

/-- A configuration accepts (R310). -/
def accepts (s : State) (g : GImage) (c : GConf) : Except WalkEnd Bool :=
  if !c.stack.isEmpty then .ok false
  else do
    let (acc, _, _) ← g.state s c.state
    .ok acc

/-- A token's walk: the configuration it advances to, or why it is not allowed (R311). -/
def walkToken (s : State) (g : GImage) (c : GConf) (v : Nat) : Except WalkEnd GConf :=
  if c.fin || g.hdr.ntok ≤ v then .error .dead
  else if v = g.hdr.eos then do
    let a ← accepts s g c
    if a then .ok { c with fin := true } else .error .dead
  else do
    let node ← g.token s v
    if node = 0 then .error .dead
    else
      let bs ← pathTo s g 128 node []
      bs.foldlM (stepByte s g) c

/-- The read that a malformed entry comes of, if any. -/
def WalkEnd.read {α : Type} : Except WalkEnd α → Option (Word × Nat)
  | .error (.malformed x) => x
  | _ => none

/-- Reads of the unit that could not be made: a poisoned table entry among their walks is reported (R422). -/
def touchReads (s : State) (d : DieId) (p : Fin 16) (l : List (Word × Nat)) : State :=
  l.foldl (fun t x => touchRange t d p accDevRead x.1 x.2) s

/-! ## Automata -/

/-- An automaton context of a die. -/
def State.aut (s : State) (d : DieId) (n : Nat) : Automaton := (s.die d).automata[n % 512]'(by omega)
/-- An automaton replaced. -/
def State.setAut (s : State) (d : DieId) (n : Nat) (a : Automaton) : State :=
  s.modDie d (fun x => { x with automata := x.automata.set (n % 512) a (by omega) })

/-- The image an automaton is bound to. -/
def Automaton.image (a : Automaton) (d : DieId) (p : Fin 16) : GImage :=
  { ptr := a.grammar, hdr := a.header, die := d, part := p }

/-- The automaton is allocated to a partition. -/
def Automaton.mine (a : Automaton) (p : Fin 16) : Bool := a.part == some p

/-- Valid bits of the snapshots. -/
def Automaton.snv (a : Automaton) : Nat :=
  (List.range 8).foldl (fun acc k => if ((a.snaps[k]?).getD none).isSome then acc + 2 ^ k else acc) 0

/-- The status word of R314 for an automaton of the context's partition. One that is allocated and not bound has its status returned as
any other (DESIGN CHOICE, log 117); where the state entry that ACC needs cannot be read, ACC is 0 and BADG stays as it is (DESIGN CHOICE,
log 114). -/
def gstatWord (s : State) (d : DieId) (p : Fin 16) (a : Automaton) : Word :=
  let acc := a.bound && (match accepts s (a.image d p) a.conf with | .ok b => b | .error _ => false)
  let bit := fun (b : Bool) (n : Nat) => if b then 2 ^ n else 0
  BitVec.ofNat 64 (bit a.bound 39 + bit a.ref 38 + bit a.snapinv 37 + bit a.badg 36 + bit a.rej 35 + bit a.conf.fin 34
    + bit acc 33 + a.snv * 2 ^ 24 + a.conf.stack.length * 2 ^ 16 + a.conf.state)

/-- The read that ACC needs and cannot make, if any. -/
def gstatReads (s : State) (d : DieId) (p : Fin 16) (a : Automaton) : List (Word × Nat) :=
  if a.bound then (WalkEnd.read (accepts s (a.image d p) a.conf)).toList else []

/-! ## G-instructions at the FE (R312, R315) -/

/-- An automaton operand (check 2 of R312): its number. -/
def autOperand (s : State) (v : Word) : Res Nat :=
  if fldN v 10 54 = 0 ∧ fldN v 9 1 = (dieOf (coreOf s.cur)).val then .ok (fldN v 0 9) else trapAt s .illegalOperand 0

/-- A context has 16 outstanding: the next G-instruction waits. -/
def gopsFull (s : State) (k : CtxId) : Bool := decide (16 ≤ (s.ctx k).gops.length)

/-- A G-instruction is sent to the unit once its checks pass. -/
def sendG (chk : Res GOp) (s : State) : Out :=
  if gopsFull s s.cur then .next s
  else finish s (do
    let g ← chk
    .ok (s.modCtx s.cur (fun c => { c with gops := c.gops ++ [(g, s.tsc)] }.advance 0)))

def execGbind (a b : Reg5) (s : State) : Out :=
  sendG (do
    let x ← src s a
    let p ← src s b
    let n ← autOperand s x
    need s (!malformed p) .addressInvalid p
    operandOk s (windowCode p == 0 && p.toNat % 64 == 0)
    .ok (.bind n p)) s

def execGadv (a b : Reg5) (s : State) : Out :=
  sendG (do
    let x ← src s a
    let t ← src s b
    let n ← autOperand s x
    operandOk s (fldN t 32 32 == 0)
    .ok (.adv n t.toNat)) s

def execGmask (a b c : Reg5) (s : State) : Out :=
  sendG (do
    let x ← src s a
    let p ← src s b
    let z ← src s c
    let n ← autOperand s x
    let o ← ownPointer s p 128 8
    let bar ← if c = 0 then (.ok none : Res (Option Word)) else do
      let q ← feObject s z 8
      .ok (some (BitVec.ofNat 64 q))
    .ok (.mask n (BitVec.ofNat 64 ((s.ctx s.cur).scrStart + o)) bar)) s

def execGsnap (a b : Reg5) (s : State) : Out :=
  sendG (do
    let x ← src s a
    let k ← src s b
    let n ← autOperand s x
    operandOk s (decide (k.toNat ≤ 7))
    .ok (.snap n k.toNat)) s

def execGfork (a b c : Reg5) (s : State) : Out :=
  sendG (do
    let x ← src s a
    let k ← src s b
    let y ← src s c
    let n ← autOperand s x
    let m ← autOperand s y
    operandOk s (decide (k.toNat ≤ 7))
    .ok (.fork n k.toNat m)) s

def execGroll (a b : Reg5) (s : State) : Out :=
  sendG (do
    let x ← src s a
    let k ← src s b
    let n ← autOperand s x
    operandOk s (decide (k.toNat ≤ 7))
    .ok (.roll n k.toNat)) s

/-- The automata a G-instruction reaches. -/
def GOp.reaches (g : GOp) : List Nat :=
  match g with
  | .bind n _ | .adv n _ | .mask n _ _ | .snap n _ | .roll n _ => [n]
  | .fork n _ m => [n, m]

/-- Another context of the die has an instruction for one of some automata that arrived earlier, or at the same time with a lower source
number (R315). -/
def earlierG (s : State) (k : CtxId) (l : List Nat) (at_ : Word) : Bool :=
  (List.finRange 256).any (fun j => decide (j ≠ k) && dieOf (coreOf j) == dieOf (coreOf k) &&
    (s.ctx j).gops.any (fun x => x.1.reaches.any l.contains && (decide (x.2.toNat < at_.toNat) || (x.2 == at_ && decide (j < k)))))

/-- gstat waits for every earlier G-instruction of its context, and for those of other contexts on the automaton it names that have
arrived before it (R315); behind a restore of that automaton too (R436). -/
def gstatBlocked (s : State) (k : CtxId) (b : Reg5) : Bool :=
  let c := s.ctx k
  let u := s.aut (dieOf (coreOf k)) (fldN (c.reg b) 0 9)
  !c.gops.isEmpty || (!c.regPoison b && fldN (c.reg b) 10 54 == 0 && fldN (c.reg b) 9 1 == (dieOf (coreOf k)).val
    && ((u.mine c.csr.partn && u.restoring) || earlierG s k [fldN (c.reg b) 0 9] s.tsc))

/-- A gstat takes its turn on its automaton (R456), and acquires the effects of the context's earlier G-instructions (R315). -/
def gstatAcquires (s : State) (d : DieId) (n : Nat) : State :=
  (acquire s s.cur 2 [s.latest (.gram s.cur)]).contend (.automaton d n) s.cur.val

/-- gstat (R312, R314): the fields read and cleared are cleared in an automaton of the context's partition alone. -/
def execGstat (a b : Reg5) (s : State) : Out :=
  if gstatBlocked s s.cur b then .next s
  else finish s (do
    let x ← src s b
    let n ← autOperand s x
    let d := dieOf (coreOf s.cur)
    let p := (s.ctx s.cur).csr.partn
    let u := s.aut d n
    if u.mine p then
      let s1 := touchReads (s.setAut d n { u with ref := false, snapinv := false, rej := false }) d p (gstatReads s d p u)
      .ok (putReg (gstatAcquires s1 d n) 0 a (gstatWord s d p u))
    else .ok (putReg (gstatAcquires s d n) 0 a (BitVec.ofNat 64 (2 ^ 38))))

/-! ## The unit (R312 to R315) -/

/-- REF is set and nothing else changes. -/
def refuseG (s : State) (d : DieId) (n : Nat) : State := s.setAut d n { s.aut d n with ref := true }

/-- gbind in the unit. One whose header fails leaves the context unbound with REF set; the grammar pointer, the snapshots and BADG are
those of any gbind, and the configuration is at state 0 (DESIGN CHOICE, log 113). -/
def bindAut (s : State) (d : DieId) (p : Fin 16) (n : Nat) (ptr : Word) : State :=
  let u := s.aut d n
  let u1 := { u with grammar := ptr, snaps := Vector.replicate 8 none, badg := false }
  match readHeader s d p ptr with
  | some h => s.setAut d n { u1 with bound := true, header := h, conf := { state := h.start, stack := [], fin := false } }
  | none =>
    touchReads (s.setAut d n { u1 with bound := false, ref := true, conf := { state := 0, stack := [], fin := false } }) d p [(ptr, 64)]

/-- The bytes of a mask, whether a malformed entry was met, and the reads that could not be made (R313). -/
def maskBytes (s : State) (g : GImage) (c : GConf) : List Byte × Bool × List (Word × Nat) :=
  let m := 128 * ((g.hdr.ntok + 1023) / 1024)
  let ends := (List.range g.hdr.ntok).map (fun v => walkToken s g c v)
  let ok := ends.map (fun r => match r with | .ok _ => true | .error _ => false)
  ((List.range m).map (fun i => BitVec.ofNat 8 ((List.range 8).foldl (fun acc j =>
      if ok.getD (8 * i + j) false then acc + 2 ^ j else acc) 0)),
   ends.any (fun r => match r with | .error (.malformed _) => true | _ => false),
   (ends.filterMap WalkEnd.read).eraseDups)

/-- A G-instruction performed for a context (R312, R313). A gmask whose bytes would pass the scratchpad part makes its walks, which may set
BADG (DESIGN CHOICE, log 115). -/
def performG (s : State) (k : CtxId) (g : GOp) : State :=
  let d := dieOf (coreOf k)
  let p := (s.ctx k).csr.partn
  let usable := fun n => (s.aut d n).mine p && (s.aut d n).bound
  match g with
  | .bind n ptr => if (s.aut d n).mine p then bindAut s d p n ptr else refuseG s d n
  | .adv n tok =>
    if !usable n then refuseG s d n
    else
      let u := s.aut d n
      match walkToken s (u.image d p) u.conf tok with
      | .ok c => s.setAut d n { u with conf := c }
      | .error .dead => s.setAut d n { u with rej := true }
      | .error (.malformed x) => touchReads (s.setAut d n { u with rej := true, badg := true }) d p x.toList
  | .mask n ptr bar =>
    let u := s.aut d n
    let (bs, bad, reads) := if usable n then maskBytes s (u.image d p) u.conf else (List.replicate 128 0, false, [])
    let s1 := touchReads (s.setAut d n { u with ref := u.ref || !usable n, badg := u.badg || bad }) d p reads
    if (s.ctx k).scrStop < ptr.toNat + bs.length then refuseG s1 d n
    else
      let s2 := s1.write (.pool (coreOf k)) ptr.toNat (pbytes false bs)
      match bar with
      | some b => arrival s2 (coreOf k) b.toNat bs.length
      | none => s2
  | .snap n j =>
    if !usable n then refuseG s d n
    else
      let u := s.aut d n
      s.setAut d n { u with snaps := u.snaps.set (j % 8) (some u.conf) (by omega) }
  | .fork n j m =>
    if !usable n || !usable m then refuseG s d n
    else
      let u := s.aut d n
      let v := s.aut d m
      match v.snaps[j % 8]'(by omega) with
      | some c =>
        s.setAut d n { u with grammar := v.grammar, header := v.header, conf := c, badg := v.badg,
                              snaps := Vector.replicate 8 none }
      | none => s.setAut d n { u with snapinv := true }
  | .roll n j =>
    if !usable n then refuseG s d n
    else
      let u := s.aut d n
      match u.snaps[j % 8]'(by omega) with
      | some c => s.setAut d n { u with conf := c, snaps := Vector.ofFn (fun i : Fin 8 => if i.val ≤ j then u.snaps[i.val] else none) }
      | none => s.setAut d n { u with snapinv := true }

/-- The oldest G-instruction of a context waits in the unit: behind a restore of its automaton (R436), or one that arrived before it. -/
def gWaits (s : State) (k : CtxId) (g : GOp) (at_ : Word) : Bool :=
  g.reaches.any (fun n => (s.aut (dieOf (coreOf k)) n).restoring) || earlierG s k g.reaches at_

/-- A G-instruction takes its turn on its automata (R315, R456). -/
def takeTurn (s : State) (k : CtxId) (g : GOp) : State :=
  g.reaches.foldl (fun t n => t.contend (.automaton (dieOf (coreOf k)) n) k.val) s

/-- Event MADDER_PERFORM (R315): the unit performs the oldest G-instruction of a context. -/
def execEvMadderPerform (s : State) : Out :=
  let k := s.arg.ctx
  match (s.ctx k).gops with
  | [] => .next s
  | (g, at_) :: r =>
    if gWaits s k g at_ then .next s
    else .next (performG (takeTurn (s.modCtx k (fun c => { c with gops := r })) k g) k g)

end Sys2Proof.Machine
end

