-- ==== Sys2Proof/Machine/Matrix.lean ====
section
/-!
DEFINITION. The matrix engine: its instructions' checks at dispatch (R234 to R236, R243 to R255) and what its entries do when they
run (R71 to R75, R237 to R255, R326, R333, R334).
-/
namespace Sys2Proof.Machine

/-- What an entry leaves when it has run: memories, context, flags, and a trap to report at its retirement. -/
structure Ran where
  mem : EMem
  ctx : Ctx
  flags : Flags
  report : Option (TrapCode × Word)

/-- A run that reports nothing. -/
def ranOk (m : EMem) (c : Ctx) (f : Flags) : Ran := { mem := m, ctx := c, flags := f, report := none }

/-! ## Configuration and planes -/

/-- Reserved bits of MXCFG are 0 (R243). -/
def mxcfgOk (v : Word) : Bool := fldN v 54 10 == 0 && fldN v 16 16 == 0 && fldN v 0 8 == 0
/-- D of MXCFG (R243). -/
def mxcfgD (v : Word) : Int := (fld v 8 8).toInt
/-- SCOFF of MXCFG. -/
def mxcfgScoff (v : Word) : Nat := fldN v 32 22

/-- mcfg (R243): an unchanged value has zero extent. -/
def execMcfg (e : Dep) (a : Reg5) (s : State) : Out :=
  dispatch .mx e (do
    let v ← src s a
    operandOk s (mxcfgOk v)
    if v = (s.ctx s.cur).mview.mxcfg then .ok (plainOp .relay)
    else .ok { op := .mcfg v, view := fun c => { c with mview := { c.mview with mxcfg := v } }, waitVx := none }) s

/-- mwld (R244). -/
def execMwld (e : Dep) (a : Reg4) (b : Reg5) (s : State) : Out :=
  dispatch .mx e (do
    let v ← src s b
    let h ← record s a false
    agree s a (h.inScr && h.ilv == 1)
    operandOk s (fldN v 32 32 == 0 && decide (fldN v 0 16 < h.rows / 64) && decide (fldN v 16 16 < h.cols / 64))
    let take := if isMX h.fmt then 2 else 0
    operandOk s (decide (take ≤ (s.ctx s.cur).mview.scales))
    .ok { op := .mwld (rawShape s a) (fldN v 0 16) (fldN v 16 16),
          view := fun c => { c with mview := { c.mview with shadow := some h.fmt, scales := c.mview.scales - take } },
          waitVx := none }) s

/-- mwswap (R245). -/
def execMwswap (e : Dep) (s : State) : Out :=
  dispatch .mx e (.ok
    { op := .mwswap, view := fun c => { c with mview := { c.mview with active := c.mview.shadow, shadow := c.mview.active } },
      waitVx := none }) s

/-- The common checks of mscl (R236, R246). -/
def msclChecked (s : State) (ptr : Word) (n : Nat) : Res Dispatched := do
  operandOk s (decide (1 ≤ n) && decide (n ≤ 64) && decide ((s.ctx s.cur).mview.scales + n ≤ 64))
  let o ← ownPointer s ptr (64 * n) 64
  .ok { op := .mscl (BitVec.ofNat 64 o) n,
        view := fun c => { c with mview := { c.mview with scales := c.mview.scales + n } }, waitVx := none }

/-- mscl.a (R246). -/
def execMsclA (e : Dep) (a b : Reg5) (s : State) : Out :=
  dispatch .mx e (do let p ← src s a; let n ← src s b; msclChecked s p n.toNat) s

/-- mscl.w (R246). -/
def execMsclW (e : Dep) (a : Reg5) (s : State) : Out :=
  dispatch .mx e (do let p ← src s a; msclChecked s p 2) s

/-! ## mma -/

/-- FP8 and MXFP8, FP4 and MXFP4. -/
def isFp8 (f : Nat) : Bool := f == 3 || f == 4 || f == 9 || f == 10
def isFp4 (f : Nat) : Bool := f == 5 || f == 11

/-- Half cycles per row of a pairing of plane and activation formats (R247); none for no pairing. -/
def mmaRate (w a : Nat) : Option Nat :=
  if w = 1 ∧ a = 1 then some 4
  else if (isFp8 w || isFp4 w) && isFp8 a then some 2
  else if isFp4 w && isFp4 a then some 1
  else if w = 6 ∧ a = 6 then some 2
  else if w = 12 ∧ a = 12 then some 2
  else none

/-- mma, mma.c, mma.x, mma.cx (R247, R248). -/
def execMma (e : Dep) (a b : Reg4) (c : Reg5) (m : BitVec 2) (s : State) : Out :=
  dispatch .mx e (do
    let nv ← src s c
    let comp := m.getLsbD 0
    let cx := m.getLsbD 1
    let ha ← record s a true
    let hb ← record s b false
    let pl := (s.ctx s.cur).mview.active
    agree s a (pl.isSome && ha.inAcc)
    agree s b (hb.linear && ha.rows == hb.rows)
    agree s a (!cx || ha.cols % 2 == 0)
    agree s b (!cx || hb.cols % 2 == 0)
    let w := pl.getD 0
    let rate := mmaRate w hb.fmt
    agree s b (rate.isSome && decide (hb.cols ≤ 64))
    agree s a (if w = 6 then !comp && ha.fmt == 7 else ha.fmt == (if comp then 13 else 0))
    let n := if c = 0 then hb.rows else nv.toNat
    let take := if isMX hb.fmt then (n + 31) / 32 else 0
    operandOk s (decide (n ≤ hb.rows) && decide ((n * rate.getD 0 + 1) / 2 ≤ 1024)
      && decide (take ≤ (s.ctx s.cur).mview.scales))
    if n = 0 then .ok (plainOp .relay)
    else .ok { op := .mma m (rawShape s a) (rawShape s b) n,
               view := fun c => { c with mview := { c.mview with scales := c.mview.scales - take } }, waitVx := none }) s

/-- mzero (R252). -/
def execMzero (e : Dep) (a : Reg4) (s : State) : Out :=
  dispatch .mx e (do
    let h ← record s a true
    agree s a h.inAcc
    .ok (plainOp (.mzero (rawShape s a)))) s

/-- The pairings of mdrain (R253). -/
def drainPair (acc dst : Nat) : Bool :=
  (acc == 0 && (dst ≤ 4 || dst == 12)) || (acc == 13 && (dst ≤ 4 || dst == 12 || dst == 13))
    || (acc == 7 && (dst == 7 || dst == 6 || dst == 0 || dst == 1))

/-- mdrain (R253 to R255). The scale bytes' SHAPE_BOUNDS comes after every SHAPE_MISMATCH and before the limits that are an
ILLEGAL_OPERAND (DESIGN CHOICE, log 112). -/
def execMdrain (e : Dep) (a b c : Reg4) (p sat : BitVec 1) (m : BitVec 2) (s : State) : Out :=
  dispatch .mx e (do
    let epi := decide (p = 1)
    if p = 0 ∧ c ≠ 0 then illegal s (.mdrain e a b c p sat m) else
    let k := s.ctx s.cur
    let v := k.oview[c.toNat]'(by omega)
    need s (!epi || v.loaded) .unloadedOpcode 0
    let ha ← record s a true
    let hb ← record s b false
    agree s a ha.linear
    agree s b hb.inAcc
    agree s a (ha.rows == hb.rows && ha.cols == hb.cols && drainPair hb.fmt ha.fmt)
    agree s a (!(ha.fmt == 12 && ha.cols % 32 != 0) && !(ha.fmt == 13 && epi))
    let cfg := k.mview.mxcfg
    let sc := mxcfgScoff cfg
    let sn := ha.rows * (ha.cols / 32)
    need s (ha.fmt != 12 || (decide (sc + sn ≤ k.scrSize) && !ha.hits sc (sc + sn))) .shapeBounds (hVal a)
    operandOk s (!epi || (v.nin == 1 && v.nout == 1))
    operandOk s (ha.fmt != 13 || decide (mxcfgD cfg = 0))
    let slot : Fin 16 := ⟨c.toNat, by omega⟩
    .ok { op := .mdrain m (decide (sat = 1)) (if epi then some (slot, v.cur) else none) (rawShape s a) (rawShape s b),
          view := id, waitVx := if epi then k.oloadFor slot v.cur else none }) s

/-! ## Running -/

/-- The plane after an mwld (R244). -/
def loadPlane (m : EMem) (h : Shape) (tr tc : Nat) (sc : List PByte) : WPlane :=
  { loaded := true, fmt := h.fmt,
    elems := Vector.ofFn (fun i : Fin 4096 =>
      let x := planeElem m h tr tc (i.val / 64) (i.val % 64)
      (BitVec.ofNat 16 x.1, x.2)),
    scales := Vector.ofFn (fun i : Fin 128 => sc.getD i.val { val := 0, poison := false }) }

/-- mwld runs (R244). -/
def runMwld (m : EMem) (c : Ctx) (a : ShapeRec) (tr tc : Nat) : Ran :=
  let h := shapeFields a
  let mx := isMX h.fmt
  let sc := if mx then (c.scaleq.take 2).flatten else []
  let sh : Fin 2 := 1 - c.activePlane
  ranOk m { c with
    planes := c.planes.set sh.val (loadPlane m h tr tc sc)
    scaleq := if mx then c.scaleq.drop 2 else c.scaleq } 0

/-- mscl runs (R246). -/
def runMscl (m : EMem) (c : Ctx) (o n : Nat) : Ran :=
  ranOk m { c with scaleq := c.scaleq ++ (List.range n).map (fun i => m.pool.read (m.scr + o + 64 * i) 64) } 0

/-- A plane element and a column scale. -/
def WPlane.elem (w : WPlane) (k j : Nat) : BitVec 16 × Bool := w.elems[(64 * k + j) % 4096]'(by omega)
def WPlane.scale (w : WPlane) (g j : Nat) : PByte := w.scales[(64 * g + j) % 128]'(by omega)

/-- wgt(k, j) (R249). -/
def WPlane.wgt (w : WPlane) (k j : Nat) : Num :=
  let x := elemNum w.fmt (w.elem k j).1.toNat
  if isMX w.fmt then applyScale x (w.scale (k / 32) j).val.toNat else x

/-- The exact terms of group `g` of element `j` (R71, R73, R250): `acts` are the K activations. -/
def groupTerms (w : WPlane) (cx : Bool) (acts : List Num) (g j : Nat) : List Num :=
  let act := fun k => acts.getD k .nan
  let kk := acts.length
  if !cx then
    (List.range (min 32 (kk - 32 * g))).map (fun t => ((act (32 * g + t)).mul (w.wgt (32 * g + t) j)).1)
  else
    let q := j / 2
    ((List.range (min 16 (kk / 2 - 16 * g))).map (fun t =>
      let i := 16 * g + t
      let ar := act (2 * i)
      let ai := act (2 * i + 1)
      let wr := w.wgt (2 * i) (2 * q)
      let wi := w.wgt (2 * i) (2 * q + 1)
      if j % 2 = 0 then [(ar.mul wr).1, (ai.mul wi).1.neg] else [(ar.mul wi).1, (ai.mul wr).1])).flatten

/-- One group into an FP32 accumulator element, or into a pair (R71); only NV and OF are recorded (R65). -/
def accGroup (comp : Bool) (acc : Nat × Flags) (terms : List Num) : Nat × Flags :=
  let (g, f) := groupRound terms
  if comp then
    let (p, f2) := twosumAcc (pairHi acc.1) (pairLo acc.1) (num32 g)
    (pairBits p, acc.2 ||| ((f ||| f2) &&& (NV ||| OF)))
  else
    let (r, f2) := add32 (BitVec.ofNat 32 acc.1) g
    (r.toNat, acc.2 ||| ((f ||| f2) &&& (NV ||| OF)))

/-- One group into an INT32 accumulator element (R74). -/
def accInt (acc : Nat × Flags) (terms : List Num) : Nat × Flags :=
  let v := terms.foldl (fun (t : Int) (x : Num) => t + x.units 0) 0
  ((BitVec.ofNat 32 acc.1 + BitVec.ofInt 32 v).toNat, acc.2)

/-- One accumulator element after a row (R71). -/
def mmaElem (w : WPlane) (comp cx : Bool) (acts : List Num) (j old : Nat) : Nat × Flags :=
  let gs := (List.range ((acts.length + 31) / 32)).map (fun g => groupTerms w cx acts g j)
  gs.foldl (if w.fmt = 6 then accInt else accGroup comp) (old, 0)

/-- A weight or column scale that column `j` uses is poisoned (R239). -/
def colPoison (w : WPlane) (cx : Bool) (kk j : Nat) : Bool :=
  let col := fun j =>
    (List.range kk).any (fun k => (!cx || k % 2 == 0) && (w.elem k j).2)
      || (isMX w.fmt && (List.range ((kk + 31) / 32)).any (fun g => (w.scale g j).poison))
  if cx then col (j / 2 * 2) || col (j / 2 * 2 + 1) else col j

/-- mma runs (R249). -/
def runMma (m : EMem) (c : Ctx) (mode : BitVec 2) (a b : ShapeRec) (n : Nat) : Ran :=
  let ha := shapeFields a
  let hb := shapeFields b
  let comp := mode.getLsbD 0
  let cx := mode.getLsbD 1
  let w := c.planes[c.activePlane.val]
  let mx := isMX hb.fmt
  let take := if mx then (n + 31) / 32 else 0
  let sc := (c.scaleq.take take).flatten
  let kk := hb.cols
  let cols := (List.range ha.cols).map (colPoison w cx kk)
  let scale := fun i g => sc.getD (2 * i + g) { val := 0, poison := false }
  let r := (List.range n).foldl (fun (acc : EMem × Flags) i =>
    let row := m.row hb i kk
    let acts := (List.range kk).map (fun k =>
      let x := elemNum hb.fmt ((row.getD k (0, false)).1)
      if mx then applyScale x (scale i (k / 32)).val.toNat else x)
    let rp := row.any (·.2) || (mx && (List.range ((kk + 31) / 32)).any (fun g => (scale i g).poison))
    let outs := (List.range ha.cols).map (fun j =>
      let old := acc.1.get ha i j
      let (v, f) := mmaElem w comp cx acts j old.1
      ((v, rp || cols.getD j false || old.2), f))
    (acc.1.setRow ha i (withCols (outs.map (·.1))), outs.foldl (fun f x => f ||| x.2) acc.2)) (m, 0)
  ranOk r.1 { c with scaleq := c.scaleq.drop take } r.2

/-- mzero runs (R252). -/
def runMzero (m : EMem) (c : Ctx) (a : ShapeRec) : Ran :=
  let h := shapeFields a
  ranOk ((List.range h.rows).foldl (fun m i => m.setRow h i (withCols (List.replicate h.cols (0, false)))) m) c 0

/-- The exact value mdrain converts in a mode (R64, R253). -/
def drainValue (md : RMode) (fmt bits : Nat) (d : Int) : Num × Flags :=
  if fmt = 13 then let (x, f) := pairSumIn md (pairHi bits) (pairLo bits); (x.scale d, f)
  else ((elemNum fmt bits).scale d, 0)

/-- A value converted to a destination format of mdrain or vst: integers clamped, others rounded once (R60, R63, R253). -/
def convertTo (fmt : Nat) (md : RMode) (sat : Bool) (x : Num) : Nat × Flags :=
  if fmt = 7 then let (v, f) := toIntClamp md (-2147483648) 2147483647 x; (ofInt 32 v, f)
  else if fmt = 6 then let (v, f) := toIntClamp md (-128) 127 x; (ofInt 8 v, f)
  else roundElem fmt md sat x

/-- The OPID of a context: partition, then context number (R334). -/
def opidOf (k : CtxId) (c : Ctx) : BitVec 6 := BitVec.ofNat 6 (4 * c.csr.partn.val + (numOf k).val)

/-- A plane emptied for a context: its stamp is the context's OPID all the same (R431). -/
def OPlane.cleared (opid : BitVec 6) : OPlane := { OPlane.empty with stamp := opid }

/-- An unloaded slot of a context. -/
def OSlot.cleared (opid : BitVec 6) : OSlot := { OSlot.empty with planes := Vector.replicate 2 (OPlane.cleared opid) }

/-- A value that the epilogue hands on: FP32 through the graph, where there is one (R255). `lane` numbers the elements of the
entry, for the free values of discarded operands (R334). -/
def epilogue (g : Option OPlane) (opidOk : Bool) (md : RMode) (draw lane : Nat) (x : Num) (p : Bool) : Num × Flags × Bool :=
  match g with
  | none => (x, 0, p)
  | some pl =>
    let (b, f) := roundFp fp32 md false x
    if opidOk then
      let (o, _, f2) := evalGraph pl.graph [(BitVec.ofNat 32 b, p)]
      (num32 o.1, f ||| f2, o.2)
    else (num32 (Config.discardedLane draw lane), f, true)

/-- One row of an mdrain to MXINT8: each block of 32 quantised, its scale byte stored at `sc` (R253, R254). Values that come
from a graph are FP32 already. -/
def drainBlocks (m : EMem) (h : Shape) (i sc : Nat) (md : RMode) (graph : Bool) (xs : List (Num × Bool)) : EMem × Flags :=
  (List.range (h.cols / 32)).foldl (fun (acc : EMem × Flags) q =>
    let blk := (xs.drop (32 * q)).take 32
    let fs : List (Num × Flags) := blk.map (fun x =>
      if graph then (x.1, 0) else let (b, f) := roundFp fp32 md false x.1; (decodeFp fp32 b, f))
    let (e, els, g) := quantise 12 (fs.map (·.1))
    let p := blk.any (·.2)
    let m1 := acc.1.setRow h i ((List.range 32).map (fun j => (32 * q + j, els.getD j 0, p)))
    ({ m1 with pool := m1.pool.write (m1.scr + sc + i * (h.cols / 32) + q) (pbytes p (leBytes 1 e)) },
      fs.foldl (fun f x => f ||| x.2) (acc.2 ||| g))) (m, 0)

/-- mdrain runs (R253 to R255). A captured plane that is bad leaves the destination unwritten and raises no flag (R328). -/
def runMdrain (k : CtxId) (draw : Nat) (m : EMem) (c : Ctx) (mode : BitVec 2) (sat : Bool) (epi : Option (Fin 16 × Fin 2))
    (a b : ShapeRec) : Ran :=
  let ha := shapeFields a
  let hb := shapeFields b
  let md := rmode mode
  let d := mxcfgD c.mxcfg
  let plane := epi.map (fun x => (c.oslots[x.1.val]).planes[x.2.val])
  let bad := match plane with | some p => decide (p.st ≠ OState.loaded) | none => false
  let opidOk := match plane with | some p => p.stamp == opidOf k c | none => true
  if bad then ranOk m c 0
  else
    let r := (List.range ha.rows).foldl (fun (acc : EMem × Flags) i =>
      let old := m.row hb i hb.cols
      if ha.fmt = 13 then
        let ys := old.map (fun x => (toFrame 2 (pairHi x.1) (pairLo x.1), x.2))
        (acc.1.setRow ha i (withCols (ys.map (fun y => (y.1.1, y.2)))), ys.foldl (fun f y => f ||| y.1.2) acc.2)
      else
        let xs := ((List.range ha.cols).zip old).map (fun y =>
          let (x, f) := drainValue md hb.fmt y.2.1 d
          let (z, g, p) := epilogue plane opidOk md draw (ha.cols * i + y.1) x y.2.2
          ((z, p), f ||| g))
        let f0 := xs.foldl (fun f y => f ||| y.2) acc.2
        if ha.fmt = 12 then
          let (m1, f1) := drainBlocks acc.1 ha i (mxcfgScoff c.mxcfg) md plane.isSome (xs.map (·.1))
          (m1, f0 ||| f1)
        else
          let ys := xs.map (fun y => (convertTo ha.fmt md sat y.1.1, y.1.2))
          (acc.1.setRow ha i (withCols (ys.map (fun y => (y.1.1, y.2)))), ys.foldl (fun f y => f ||| y.1.2) f0)) (m, 0)
    { mem := r.1, ctx := c, flags := r.2, report := if opidOk then none else some (.opidMismatch, 0) }

end Sys2Proof.Machine
end

