-- ==== Sys2Proof/Machine/Scan.lean ====
section
/-!
DEFINITION. The scan engine: its instructions' checks at dispatch (R234 to R236, R257 to R266) and what its entries do when they
run (R76 to R78, R239, R259 to R266).
-/
namespace Sys2Proof.Machine

/-! ## Checks -/

/-- TLEN and N of SQCFG (R258). -/
def sqTlen (v : Word) : Nat := fldN v 16 8
def sqN (v : Word) : Nat := fldN v 8 8
/-- The limits of SQCFG (R258). -/
def sqcfgOk (v : Word) : Bool :=
  fldN v 24 40 == 0 && fldN v 0 8 == 0 && decide (1 ≤ sqTlen v) && decide (sqTlen v ≤ 64)
    && decide (1 ≤ sqN v) && decide (sqN v ≤ 128)

/-- scfg (R258): the limits come before the comparison. -/
def execScfg (e : Dep) (a : Reg5) (s : State) : Out :=
  dispatch .sq e (do
    let v ← src s a
    operandOk s (sqcfgOk v)
    if v = (s.ctx s.cur).mview.sqcfg then .ok (plainOp .relay)
    else .ok { op := .scfg v, view := fun c => { c with mview := { c.mview with sqcfg := v } }, waitVx := none }) s

/-- sdecay (R260). -/
def execSdecay (e : Dep) (a b : Reg4) (c : Reg5) (s : State) : Out :=
  dispatch .sq e (do
    let al ← src s c
    let ha ← record s a true
    let hb ← record s b false
    agree s a (ha.linear && ha.fmt == 14 && ha.cols == 1)
    agree s b (hb.linear && hb.fmt == 0 && hb.cols == 1 && hb.rows == ha.rows)
    operandOk s (!ha.overlaps hb)
    .ok (plainOp (.sdecay (rawShape s a) (rawShape s b) (fld al 0 32)))) s

/-- SQCFG is not 0 in the view (R258): its TLEN and N. -/
def scanConfig (s : State) (a : Reg4) : Res (Nat × Nat) := do
  let v := (s.ctx s.cur).mview.sqcfg
  agree s a (v != 0)
  .ok (sqTlen v, sqN v)

/-- A state record (R257); one whose ILV is not 0 is none, nor is such an output record (DESIGN CHOICE, log 110). -/
def isState (h : Shape) (n : Nat) : Bool := h.fmt == 13 && h.rows == 64 && h.cols == n && h.ilv == 0
/-- An input record (R257). -/
def isInput (h : Shape) (n : Nat) : Bool := h.linear && h.fmt == 0 && h.cols == 65 + 2 * n
/-- An output record of `m` rows (R257). -/
def isOutput (h : Shape) (m : Nat) : Bool := h.fmt == 0 && h.cols == 64 && h.ilv == 0 && h.rows == m

/-- schunk (R257, R262). -/
def execSchunk (e : Dep) (a b c : Reg4) (s : State) : Out :=
  dispatch .sq e (do
    let ha ← record s a true
    let hb ← record s b false
    let hc ← record s c true
    let (t, n) ← scanConfig s a
    agree s a (isState ha n)
    agree s b (isInput hb n && hb.rows == t)
    agree s c (isOutput hc t)
    operandOk s (!hc.overlaps ha && !hc.overlaps hb && !ha.overlaps hb)
    .ok (plainOp (.schunk (rawShape s a) (rawShape s b) (rawShape s c)))) s

/-- sstep (R257, R261). -/
def execSstep (e : Dep) (a b c : Reg4) (s : State) : Out :=
  dispatch .sq e (do
    let ha ← record s a true
    let hb ← record s b false
    let hc ← record s c true
    let (_, n) ← scanConfig s a
    agree s a (isState ha n)
    agree s b (isInput hb n && decide (hb.rows ≤ 64))
    agree s c (isOutput hc hb.rows)
    operandOk s (!hc.overlaps ha && !hc.overlaps hb && !ha.overlaps hb)
    .ok (plainOp (.sstep (rawShape s a) (rawShape s b) (rawShape s c)))) s

/-- sout (R257, R263). -/
def execSout (e : Dep) (a b c : Reg4) (s : State) : Out :=
  dispatch .sq e (do
    let ha ← record s a false
    let hb ← record s b false
    let hc ← record s c true
    let (_, n) ← scanConfig s a
    agree s a (isState ha n)
    agree s b (hb.linear && hb.fmt == 0 && hb.cols == n && decide (hb.rows ≤ 64))
    agree s c (isOutput hc hb.rows)
    operandOk s (!hc.overlaps ha && !hc.overlaps hb)
    .ok (plainOp (.sout (rawShape s a) (rawShape s b) (rawShape s c)))) s

/-- V of a version store; none when the shape is no store (R265). -/
def storeVersions (h : Shape) : Option Nat :=
  if h.linear && h.fmt == 13 && h.rows % 64 == 1 && decide (65 ≤ h.rows) && decide (h.rows ≤ 513) then some (h.rows / 64)
  else none

/-- The checks of ssnap, sfork and sroll (R265): `toStore` for ssnap. -/
def versionChecked (s : State) (toStore : Bool) (a b : Reg4) (c : Reg5) : Res Nat := do
  let k ← src s c
  let ha ← record s a toStore
  let hb ← record s b (!toStore)
  let (_, n) ← scanConfig s a
  agree s a ((storeVersions ha).isSome && ha.cols == n)
  agree s b (isState hb n && !hb.overlaps ha)
  operandOk s (decide (k.toNat < (storeVersions ha).getD 0))
  .ok k.toNat

/-- ssnap (R265). -/
def execSsnap (e : Dep) (a b : Reg4) (c : Reg5) (s : State) : Out :=
  dispatch .sq e (do
    let k ← versionChecked s true a b c
    .ok (plainOp (.ssnap (rawShape s a) (rawShape s b) k))) s

/-- sfork (R265). -/
def execSfork (e : Dep) (a b : Reg4) (c : Reg5) (s : State) : Out :=
  dispatch .sq e (do
    let k ← versionChecked s false a b c
    .ok (plainOp (.sfork (rawShape s a) (rawShape s b) k))) s

/-- sroll (R265). -/
def execSroll (e : Dep) (a b : Reg4) (c : Reg5) (s : State) : Out :=
  dispatch .sq e (do
    let k ← versionChecked s false a b c
    .ok (plainOp (.sroll (rawShape s a) (rawShape s b) k))) s

/-- scommit (R265). -/
def execScommit (e : Dep) (a : Reg4) (s : State) : Out :=
  dispatch .sq e (do
    let ha ← record s a true
    agree s a (storeVersions ha).isSome
    .ok (plainOp (.scommit (rawShape s a)))) s

/-- The destination format of spair (R264). -/
def pairFmtCode (f : PairFmt) : Nat := match f with | .bf16 => 1 | .fp32 => 0 | .pair => 13

/-- spair (R264): ROWS or COLS of a and b that differ are an ILLEGAL_OPERAND; spair.pair may work in place. A record whose ILV is not 0
has the wrong shape (DESIGN CHOICE, log 111). -/
def spairChecked (f : PairFmt) (e : Dep) (a b : Reg4) (s : State) : Out :=
  dispatch .sq e (do
    let ha ← record s a true
    let hb ← record s b false
    agree s a (ha.ilv == 0 && ha.fmt == pairFmtCode f)
    agree s b (hb.ilv == 0 && (hb.fmt == 0 || hb.fmt == 1 || hb.fmt == 13))
    operandOk s (ha.rows == hb.rows && ha.cols == hb.cols && decide (ha.rows * ha.cols ≤ 524288))
    operandOk s (!ha.overlaps hb || (f == .pair && rawShape s a == rawShape s b))
    .ok (plainOp (.spair f (rawShape s a) (rawShape s b)))) s

def execSpairBf16 (e : Dep) (a b : Reg4) (s : State) : Out := spairChecked .bf16 e a b s
def execSpairFp32 (e : Dep) (a b : Reg4) (s : State) : Out := spairChecked .fp32 e a b s
def execSpairPair (e : Dep) (a b : Reg4) (s : State) : Out := spairChecked .pair e a b s

/-! ## Running -/

/-- A value with the flags that formed it. -/
abbrev FNum := Num × Flags
/-- An exact product and its flags (R64). -/
def FNum.times (a b : FNum) : FNum := let (x, f) := a.1.mul b.1; (x, a.2 ||| b.2 ||| f)
/-- FP32 bits as such a value. -/
def fnum (b : Nat) : FNum := (num32 (BitVec.ofNat 32 b), 0)
/-- A pair's bits as such a value: hi + lo (R68). -/
def fpair (b : Nat) : FNum := pairSum (pairHi b) (pairLo b)

/-- A pair with the flags that formed it. -/
abbrev FPair := (BitVec 32 × BitVec 32) × Flags
/-- comp_fma on a running pair (R69). -/
def FPair.fma (p : FPair) (a : BitVec 32) (u : FNum) : FPair :=
  let (q, f) := compFma p.1.1 p.1.2 a u.1
  (q, p.2 ||| u.2 ||| f)
/-- cdot (R259) of exact products. -/
def cdot (ps : List FNum) : FPair := ps.foldl (fun p u => p.fma one32 u) ((0, 0), 0)
/-- round_rne_fp32(h + l). -/
def FPair.round (p : FPair) : BitVec 32 × Flags := let (b, f) := add32 p.1.1 p.1.2; (b, p.2 ||| f)

/-- Products of two rows. -/
def dotTerms (us vs : List FNum) : List FNum := (us.zip vs).map (fun x => x.1.times x.2)

/-- All flags of a list. -/
def flagsOf {α : Type} (l : List (α × Flags)) : Flags := l.foldl (fun f x => f ||| x.2) 0

/-- One sum of the cumulative log-decay: a NaN gives NaN with NV (R76; DEDUCED against R64, log 120). -/
def sumDecay (x y : BitVec 32) : BitVec 32 × Flags :=
  let (v, f) := add32 x y
  (v, f ||| flagIf (isNan32 x || isNan32 y) NV)

/-- sdecay runs (R260). -/
def runSdecay (m : EMem) (c : Ctx) (a b : ShapeRec) (al : BitVec 32) : Ran :=
  let ha := shapeFields a
  let hb := shapeFields b
  let r := (List.range hb.rows).foldl (fun (acc : EMem × Flags × Option (BitVec 32) × Bool) t =>
    let (mem, fl, cum, p) := acc
    let x := mem.get hb t 0
    let (l, f) := mul32 (BitVec.ofNat 32 x.1) al
    let (n, g) := match cum with
      | none => (l, 0)
      | some y => sumDecay y l
    let q := p || x.2
    (mem.setRow ha t [(0, n.toNat, q)], fl ||| f ||| g, some n, q)) (m, 0, none, false)
  ranOk r.1 c r.2.1

/-- An element of a list of bits with poison. -/
def bitsAt (l : List (Nat × Bool)) (i : Nat) : Nat × Bool := l.getD i (0, false)

/-- The rows of a state record: bits of the pairs and poison. -/
def stateRows (m : EMem) (h : Shape) : List (List (Nat × Bool)) := (List.range 64).map (fun p => m.row h p h.cols)
/-- State rows written back. -/
def putRows (m : EMem) (h : Shape) (rows : List (List (Nat × Bool))) : EMem :=
  ((List.range rows.length).zip rows).foldl (fun m r => m.setRow h r.1 (withCols r.2)) m

/-- A state element after one token (R261). -/
def stepElem (af : BitVec 32) (x b : Nat × Bool) (ap : Bool) (old : Nat × Bool) : (Nat × Bool) × Flags :=
  let p : FPair := ((pairHi old.1, pairLo old.1), 0)
  let q := p.fma af ((fnum x.1).times (fnum b.1))
  ((pairBits q.1, old.2 || ap || x.2 || b.2), q.2)

/-- One output element: a row of the state against C. -/
def outElem (st cs : List (Nat × Bool)) : (Nat × Bool) × Flags :=
  let (b, f) := (cdot (dotTerms (st.map (fun x => fpair x.1)) (cs.map (fun x => fnum x.1)))).round
  ((b.toNat, st.any (·.2) || cs.any (·.2)), f)

/-- sstep runs (R261). -/
def runSstep (m : EMem) (c : Ctx) (a b o : ShapeRec) : Ran :=
  let ha := shapeFields a
  let hb := shapeFields b
  let ho := shapeFields o
  let n := ha.cols
  let r := (List.range hb.rows).foldl (fun (acc : EMem × Flags × List (List (Nat × Bool))) t =>
    let (mem, fl, st) := acc
    let row := mem.row hb t hb.cols
    let lv := bitsAt row 0
    let (af, f0) := fade (BitVec.ofNat 32 lv.1)
    let bs := (row.drop 65).take n
    let cs := (row.drop (65 + n)).take n
    let st1 := (((row.drop 1).take 64).zip st).map (fun r =>
      (r.2.zip bs).map (fun y => stepElem af r.1 y.2 lv.2 y.1))
    let fl1 := st1.foldl (fun f r => f ||| flagsOf r) (fl ||| f0)
    let st2 := st1.map (fun r => r.map (·.1))
    let outs := st2.map (fun r => outElem r cs)
    (mem.setRow ho t (withCols (outs.map (·.1))), fl1 ||| flagsOf outs, st2)) (m, 0, stateRows m ha)
  ranOk (putRows r.1 ha r.2.2) c r.2.1

/-- pf(c, t, s) (R259), with its flags; `ct` and `cs` are the cumulative log-decays. -/
def pairFactor (ct cs : BitVec 32) (same : Bool) : BitVec 32 × Flags :=
  if same then (one32, 0)
  else if num32 cs = .inf true then (0, FD)
  else
    let (d, f) := sub32 ct cs
    let (x, g) := fade d
    (x, f ||| g)

/-- A row of an input record taken apart (R257). -/
structure ScanRow where
  cum : Nat × Bool
  x : List (Nat × Bool)
  b : List (Nat × Bool)
  c : List (Nat × Bool)

/-- The fields of an input row. -/
def scanRow (n : Nat) (row : List (Nat × Bool)) : ScanRow :=
  { cum := bitsAt row 0, x := (row.drop 1).take 64, b := (row.drop 65).take n, c := (row.drop (65 + n)).take n }

/-- The rows' cumulative value as bits. -/
def ScanRow.cumBits (r : ScanRow) : BitVec 32 := BitVec.ofNat 32 r.cum.1

/-- One output element of schunk: `g` are the factors G[t][s] * pf for the rows up to t (R262). -/
def chunkOut (st : List (Nat × Bool)) (rt : ScanRow) (rows : List ScanRow) (g : List FNum) (gp : Bool) (p : Nat) :
    (Nat × Bool) × Flags :=
  let h0 := cdot (dotTerms (st.map (fun x => fpair x.1)) (rt.c.map (fun x => fnum x.1)))
  let (fa, ff) := fade rt.cumBits
  let h1 := h0.fma fa (.fin false 0 0, ff)
  let h2 := (g.zip rows).foldl (fun h y => h.fma one32 (y.1.times (fnum (bitsAt y.2.x p).1))) h1
  let (v, f) := h2.round
  ((v.toNat, gp || st.any (·.2) || rows.any (fun r => (bitsAt r.x p).2)), f)

/-- One row of schunk's outputs. -/
def chunkRow (st : List (List (Nat × Bool))) (rows : List ScanRow) (rt : ScanRow) : List ((Nat × Bool) × Flags) :=
  let last := rows.length - 1
  let g := ((List.range rows.length).zip rows).map (fun y =>
    let (gv, gf) := (cdot (dotTerms (rt.c.map (fun x => fnum x.1)) (y.2.b.map (fun x => fnum x.1)))).round
    let (pv, pg) := pairFactor rt.cumBits y.2.cumBits (y.1 == last)
    FNum.times (num32 gv, gf) (num32 pv, pg))
  let gp := rt.c.any (·.2) || rows.any (fun r => r.cum.2 || r.b.any (·.2))
  ((List.range 64).zip st).map (fun y => chunkOut y.2 rt rows g gp y.1)

/-- A final state element of schunk (R262). -/
def chunkElem (fT : BitVec 32 × Flags) (rows : List (ScanRow × (BitVec 32 × Flags))) (p n : Nat) (old : Nat × Bool) :
    (Nat × Bool) × Flags :=
  let h0 : FPair := ((pairHi old.1, pairLo old.1), 0)
  let h1 := h0.fma fT.1 (.fin false 0 0, fT.2)
  let h2 := rows.foldl (fun h y =>
    h.fma one32 (((fnum (bitsAt y.1.x p).1).times (fnum (bitsAt y.1.b n).1)).times (num32 y.2.1, y.2.2))) h1
  ((pairBits h2.1, old.2 || rows.any (fun y => y.1.cum.2 || (bitsAt y.1.x p).2 || (bitsAt y.1.b n).2)), h2.2)

/-- schunk runs (R262). -/
def runSchunk (m : EMem) (c : Ctx) (a b o : ShapeRec) : Ran :=
  let ha := shapeFields a
  let hb := shapeFields b
  let ho := shapeFields o
  let n := ha.cols
  let st := stateRows m ha
  let rows := (List.range hb.rows).map (fun t => scanRow n (m.row hb t hb.cols))
  let r1 := ((List.range hb.rows).zip rows).foldl (fun (acc : EMem × Flags) y =>
    let outs := chunkRow st (rows.take (y.1 + 1)) y.2
    (acc.1.setRow ho y.1 (withCols (outs.map (·.1))), acc.2 ||| flagsOf outs)) (m, 0)
  match rows.getLast? with
  | none => ranOk r1.1 c r1.2
  | some rl =>
    let last := rows.length - 1
    let fT := fade rl.cumBits
    let rf := ((List.range rows.length).zip rows).map (fun y =>
      (y.2, pairFactor rl.cumBits y.2.cumBits (y.1 == last)))
    let fin := ((List.range 64).zip st).map (fun y =>
      ((List.range n).zip y.2).map (fun z => chunkElem fT rf y.1 z.1 z.2))
    ranOk (putRows r1.1 ha (fin.map (fun r => r.map (·.1)))) c (fin.foldl (fun f r => f ||| flagsOf r) r1.2)

/-- sout runs (R263). -/
def runSout (m : EMem) (c : Ctx) (a b o : ShapeRec) : Ran :=
  let ha := shapeFields a
  let hb := shapeFields b
  let ho := shapeFields o
  let st := stateRows m ha
  let r := (List.range hb.rows).foldl (fun (acc : EMem × Flags) t =>
    let cs := m.row hb t hb.cols
    let outs := st.map (fun row => outElem row cs)
    (acc.1.setRow ho t (withCols (outs.map (·.1))), acc.2 ||| flagsOf outs)) (m, 0)
  ranOk r.1 c r.2

/-- 64 rows of pairs copied with their bits and poison (R239, R266). -/
def copyState (m : EMem) (src : Shape) (s0 : Nat) (dst : Shape) (d0 : Nat) : EMem :=
  (List.range 64).foldl (fun m p => m.setRow dst (d0 + p) (withCols (m.row src (s0 + p) src.cols))) m

/-- The version word's bytes (R265). -/
def versionWord (m : EMem) (h : Shape) : List PByte := m.pool.read (m.scr + h.base) 8
/-- The version word written: reserved bits 0, VALID with the poison of the byte it comes from. -/
def setVersion (m : EMem) (h : Shape) (valid : Nat) (p : Bool) : EMem :=
  { m with pool := m.pool.write (m.scr + h.base) ((pbytes p (leBytes 1 valid)) ++ natBytes 7 0) }
/-- VALID and its poison. -/
def versionValid (m : EMem) (h : Shape) : Nat × Bool := poolNat m.pool (m.scr + h.base) 1

/-- ssnap runs (R266). -/
def runSsnap (m : EMem) (c : Ctx) (a b : ShapeRec) (k : Nat) : Ran :=
  let ha := shapeFields a
  let hb := shapeFields b
  let (v, p) := versionValid m ha
  ranOk (setVersion (copyState m hb 0 ha (1 + 64 * k)) ha (if v / 2 ^ k % 2 = 1 then v else v + 2 ^ k) p) c 0

/-- sroll and sfork find the version word invalid (R266). -/
def versionBad (m : EMem) (h : Shape) (k : Nat) : Bool :=
  let w := bytesNat (versionWord m h)
  w / 2 ^ k % 2 == 0 || decide (256 ≤ w)

/-- sfork runs (R266). -/
def runSfork (m : EMem) (c : Ctx) (a b : ShapeRec) (k : Nat) : Ran :=
  let ha := shapeFields a
  if versionBad m ha k then { mem := m, ctx := c, flags := 0, report := some (.versionInvalid, 0) }
  else ranOk (copyState m ha (1 + 64 * k) (shapeFields b) 0) c 0

/-- sroll runs (R266). -/
def runSroll (m : EMem) (c : Ctx) (a b : ShapeRec) (k : Nat) : Ran :=
  let ha := shapeFields a
  if versionBad m ha k then { mem := m, ctx := c, flags := 0, report := some (.versionInvalid, 0) }
  else
    let (v, p) := versionValid m ha
    ranOk (setVersion (copyState m ha (1 + 64 * k) (shapeFields b) 0) ha (v % 2 ^ (k + 1)) p) c 0

/-- scommit runs (R266). -/
def runScommit (m : EMem) (c : Ctx) (a : ShapeRec) : Ran := ranOk (setVersion m (shapeFields a) 0 false) c 0

/-- spair runs (R264). -/
def runSpair (m : EMem) (c : Ctx) (f : PairFmt) (a b : ShapeRec) : Ran :=
  let ha := shapeFields a
  let hb := shapeFields b
  let code := match f with | .bf16 => 0 | .fp32 => 1 | .pair => 2
  let r := (List.range hb.rows).foldl (fun (acc : EMem × Flags) t =>
    let ys := (acc.1.row hb t hb.cols).map (fun x =>
      let (hi, lo) := if hb.fmt = 13 then (pairHi x.1, pairLo x.1)
        else if hb.fmt = 1 then (widen32 1 x.1, 0) else (BitVec.ofNat 32 x.1, 0)
      let (v, g) := toFrame code hi lo
      ((v, x.2), g))
    (acc.1.setRow ha t (withCols (ys.map (·.1))), acc.2 ||| flagsOf ys)) (m, 0)
  ranOk r.1 c r.2

end Sys2Proof.Machine
end

