-- ==== Sys2Proof/Machine/Vector.lean ====
section
/-!
DEFINITION. The vector engine: loads and stores, lane arithmetic, compares, masks, moves, reductions, and parking: checks at
dispatch (R269, R270, R273 to R284, R292, R99) and what the entries do when they run (R89, R271).
-/
namespace Sys2Proof.Machine

/-! ## Checks shared by the forms -/

/-- A VX instruction: tile names (check 7 of R159), then the form's own checks give its operation. -/
def vxForm (i : Instr) (e : Dep) (tiles : List Reg5) (chk : Res EngineOp) (s : State) : Out :=
  dispatch .vx e (do
    tilesOk s i tiles
    let op ← chk
    .ok (plainOp op)) s

/-- Physical tile and mask of a name in the executing context (R91). -/
def physT (s : State) (r : Reg5) : Nat := (s.ctx s.cur).physTile r
def physM (s : State) (m : Reg3) : Nat := (s.ctx s.cur).physMask m

/-- Two-source lane forms. -/
def lane3 (op : LaneOp) (i : Instr) (e : Dep) (d a b : Reg5) (m : Reg3) (s : State) : Out :=
  vxForm i e [d, a, b] (.ok (.lane op (physT s d) (physT s a) (physT s b) (physM s m))) s
/-- One-source lane forms. -/
def lane2 (op : LaneOp) (i : Instr) (e : Dep) (d a : Reg5) (m : Reg3) (s : State) : Out :=
  vxForm i e [d, a] (.ok (.lane op (physT s d) (physT s a) (physT s a) (physM s m))) s
/-- Compares. -/
def cmp3 (op : CmpOp) (i : Instr) (e : Dep) (d : Reg3) (a b : Reg5) (m : Reg3) (s : State) : Out :=
  vxForm i e [a, b] (.ok (.vcmp op (physM s d) (physT s a) (physT s b) (physM s m))) s
/-- Mask operations. -/
def mask3 (op : MaskOp) (i : Instr) (e : Dep) (d a b m : Reg3) (s : State) : Out :=
  vxForm i e [] (.ok (.mask op (physM s d) (physM s a) (physM s b) (physM s m))) s
/-- Moves with a scalar (R281, R283). -/
def move2 (lim : Option Nat) (op : Nat → MoveOp) (i : Instr) (e : Dep) (d a : Reg5) (b : Reg5) (m : Reg3) (s : State) : Out :=
  vxForm i e [d, a] (do
    let k ← src s b
    operandOk s (match lim with | some n => decide (k.toNat < n) | none => true)
    .ok (.move (op k.toNat) (physT s d) (physT s a) (physM s m))) s

/-! ## Loads and stores (R273 to R275) -/

/-- The window's origin in a scalar (R273): first row and column. -/
def windowOk (v : Word) (h : Shape) : Bool :=
  fldN v 49 15 == 0 && fldN v 11 21 == 0 && fldN v 32 17 % 64 == 0 && decide (fldN v 32 17 < h.cols)
    && decide (fldN v 0 11 < h.rows)

/-- The records vld and vst take (R273). -/
def vecRecord (h : Shape) : Bool :=
  if h.inScr then h.ilv == 0 && (h.fmt ≤ 7 || isMX h.fmt || h.fmt == 14) else h.fmt == 0 || h.fmt == 7

def execVld (e : Dep) (d : Reg5) (a : Reg4) (b : Reg5) (m : Reg3) (s : State) : Out :=
  vxForm (.vld e d a b m) e [d] (do
    let v ← src s b
    let h ← record s a false
    agree s a (vecRecord h)
    operandOk s (windowOk v h)
    .ok (.vld (physT s d) (rawShape s a) (fldN v 0 11) (fldN v 32 17) (physM s m))) s

def execVst (e : Dep) (d : Reg5) (a : Reg4) (b : Reg5) (m : Reg3) (sat : BitVec 1) (r : BitVec 2) (s : State) : Out :=
  vxForm (.vst e d a b m sat r) e [d] (do
    let v ← src s b
    let h ← record s a true
    agree s a (vecRecord h)
    operandOk s (windowOk v h)
    .ok (.vst (physT s d) (rawShape s a) (fldN v 0 11) (fldN v 32 17) (physM s m) (decide (sat = 1)) r)) s

/-! ## Lane arithmetic (R276 to R278) -/

def execVaddF (e : Dep) (d a b : Reg5) (m : Reg3) (s : State) : Out := lane3 .addF (.vaddF e d a b m) e d a b m s
def execVsubF (e : Dep) (d a b : Reg5) (m : Reg3) (s : State) : Out := lane3 .subF (.vsubF e d a b m) e d a b m s
def execVmulF (e : Dep) (d a b : Reg5) (m : Reg3) (s : State) : Out := lane3 .mulF (.vmulF e d a b m) e d a b m s
def execVfmaF (e : Dep) (d a b : Reg5) (m : Reg3) (s : State) : Out := lane3 .fmaF (.vfmaF e d a b m) e d a b m s
def execVfnmaF (e : Dep) (d a b : Reg5) (m : Reg3) (s : State) : Out := lane3 .fnmaF (.vfnmaF e d a b m) e d a b m s
def execVminF (e : Dep) (d a b : Reg5) (m : Reg3) (s : State) : Out := lane3 .minF (.vminF e d a b m) e d a b m s
def execVmaxF (e : Dep) (d a b : Reg5) (m : Reg3) (s : State) : Out := lane3 .maxF (.vmaxF e d a b m) e d a b m s
def execVabsF (e : Dep) (d a : Reg5) (m : Reg3) (s : State) : Out := lane2 .absF (.vabsF e d a m) e d a m s
def execVnegF (e : Dep) (d a : Reg5) (m : Reg3) (s : State) : Out := lane2 .negF (.vnegF e d a m) e d a m s
def execVcadd (e : Dep) (d a b : Reg5) (m : Reg3) (s : State) : Out := lane3 .cadd (.vcadd e d a b m) e d a b m s
def execVcmul (e : Dep) (d a b : Reg5) (m : Reg3) (s : State) : Out := lane3 .cmul (.vcmul e d a b m) e d a b m s
def execVaddI (e : Dep) (d a b : Reg5) (m : Reg3) (s : State) : Out := lane3 .addI (.vaddI e d a b m) e d a b m s
def execVsubI (e : Dep) (d a b : Reg5) (m : Reg3) (s : State) : Out := lane3 .subI (.vsubI e d a b m) e d a b m s
def execVmulI (e : Dep) (d a b : Reg5) (m : Reg3) (s : State) : Out := lane3 .mulI (.vmulI e d a b m) e d a b m s
def execVand (e : Dep) (d a b : Reg5) (m : Reg3) (s : State) : Out := lane3 .andI (.vand e d a b m) e d a b m s
def execVor (e : Dep) (d a b : Reg5) (m : Reg3) (s : State) : Out := lane3 .orI (.vor e d a b m) e d a b m s
def execVxor (e : Dep) (d a b : Reg5) (m : Reg3) (s : State) : Out := lane3 .xorI (.vxor e d a b m) e d a b m s
def execVsll (e : Dep) (d a b : Reg5) (m : Reg3) (s : State) : Out := lane3 .sllI (.vsll e d a b m) e d a b m s
def execVsrl (e : Dep) (d a b : Reg5) (m : Reg3) (s : State) : Out := lane3 .srlI (.vsrl e d a b m) e d a b m s
def execVsra (e : Dep) (d a b : Reg5) (m : Reg3) (s : State) : Out := lane3 .sraI (.vsra e d a b m) e d a b m s
def execVminI (e : Dep) (d a b : Reg5) (m : Reg3) (s : State) : Out := lane3 .minI (.vminI e d a b m) e d a b m s
def execVmaxI (e : Dep) (d a b : Reg5) (m : Reg3) (s : State) : Out := lane3 .maxI (.vmaxI e d a b m) e d a b m s
def execVaddsI (e : Dep) (d a b : Reg5) (m : Reg3) (s : State) : Out := lane3 .addsI (.vaddsI e d a b m) e d a b m s
def execVsubsI (e : Dep) (d a b : Reg5) (m : Reg3) (s : State) : Out := lane3 .subsI (.vsubsI e d a b m) e d a b m s

/-! ## Compares, selects, masks (R279, R280) -/

def execVcmpEqF (e : Dep) (d : Reg3) (a b : Reg5) (m : Reg3) (s : State) : Out := cmp3 .eqF (.vcmpEqF e d a b m) e d a b m s
def execVcmpLtF (e : Dep) (d : Reg3) (a b : Reg5) (m : Reg3) (s : State) : Out := cmp3 .ltF (.vcmpLtF e d a b m) e d a b m s
def execVcmpLeF (e : Dep) (d : Reg3) (a b : Reg5) (m : Reg3) (s : State) : Out := cmp3 .leF (.vcmpLeF e d a b m) e d a b m s
def execVcmpUnF (e : Dep) (d : Reg3) (a b : Reg5) (m : Reg3) (s : State) : Out := cmp3 .unF (.vcmpUnF e d a b m) e d a b m s
def execVcmpEqI (e : Dep) (d : Reg3) (a b : Reg5) (m : Reg3) (s : State) : Out := cmp3 .eqI (.vcmpEqI e d a b m) e d a b m s
def execVcmpLtI (e : Dep) (d : Reg3) (a b : Reg5) (m : Reg3) (s : State) : Out := cmp3 .ltI (.vcmpLtI e d a b m) e d a b m s
def execVcmpLtuI (e : Dep) (d : Reg3) (a b : Reg5) (m : Reg3) (s : State) : Out := cmp3 .ltuI (.vcmpLtuI e d a b m) e d a b m s
def execVsel (e : Dep) (d a b : Reg5) (m : Reg3) (s : State) : Out :=
  vxForm (.vsel e d a b m) e [d, a, b] (.ok (.vsel (physT s d) (physT s a) (physT s b) (physM s m))) s
def execMand (e : Dep) (d a b m : Reg3) (s : State) : Out := mask3 .and (.mand e d a b m) e d a b m s
def execMor (e : Dep) (d a b m : Reg3) (s : State) : Out := mask3 .or (.mor e d a b m) e d a b m s
def execMxor (e : Dep) (d a b m : Reg3) (s : State) : Out := mask3 .xor (.mxor e d a b m) e d a b m s
def execMnot (e : Dep) (d a m : Reg3) (s : State) : Out := mask3 .not (.mnot e d a m) e d a a m s

/-! ## Moves and reductions (R281 to R284) -/

def execVrotr (e : Dep) (d a b : Reg5) (m : Reg3) (s : State) : Out := move2 none .rotr (.vrotr e d a b m) e d a b m s
def execVbcr (e : Dep) (d a b : Reg5) (m : Reg3) (s : State) : Out := move2 (some 64) .bcr (.vbcr e d a b m) e d a b m s
def execVrotc (e : Dep) (d a b : Reg5) (m : Reg3) (s : State) : Out := move2 none .rotc (.vrotc e d a b m) e d a b m s
def execVbcc (e : Dep) (d a b : Reg5) (m : Reg3) (s : State) : Out := move2 (some 16) .bcc (.vbcc e d a b m) e d a b m s
def execVxchC (e : Dep) (d a b : Reg5) (m : Reg3) (s : State) : Out := move2 (some 64) .xchC (.vxchC e d a b m) e d a b m s
def execVxchR (e : Dep) (d a b : Reg5) (m : Reg3) (s : State) : Out := move2 (some 16) .xchR (.vxchR e d a b m) e d a b m s

/-- A reduction along rows or columns. -/
def red2 (row : Bool) (op : RedOp) (i : Instr) (e : Dep) (d a : Reg5) (m : Reg3) (s : State) : Out :=
  vxForm i e [d, a] (.ok (if row then .redr op (physT s d) (physT s a) (physM s m)
    else .redc op (physT s d) (physT s a) (physM s m))) s

def execVredrAdd (e : Dep) (d a : Reg5) (m : Reg3) (s : State) : Out := red2 true .add (.vredrAdd e d a m) e d a m s
def execVredrMax (e : Dep) (d a : Reg5) (m : Reg3) (s : State) : Out := red2 true .max (.vredrMax e d a m) e d a m s
def execVredrMin (e : Dep) (d a : Reg5) (m : Reg3) (s : State) : Out := red2 true .min (.vredrMin e d a m) e d a m s
def execVredcAdd (e : Dep) (d a : Reg5) (m : Reg3) (s : State) : Out := red2 false .add (.vredcAdd e d a m) e d a m s
def execVredcMax (e : Dep) (d a : Reg5) (m : Reg3) (s : State) : Out := red2 false .max (.vredcMax e d a m) e d a m s
def execVredcMin (e : Dep) (d a : Reg5) (m : Reg3) (s : State) : Out := red2 false .min (.vredcMin e d a m) e d a m s

/-- The index s_b + j, an unsigned 64-bit sum within its limit (R284). -/
def laneIndex (s : State) (b : Reg5) (j : BitVec 3) (most : Nat) : Res Nat := do
  let v ← src s b
  operandOk s (decide ((v + zext64 j).toNat ≤ most))
  .ok (v + zext64 j).toNat

/-- The tile after a named one, implied by a form (R269): n = 31 is ILLEGAL_INSTRUCTION before any tile is checked. -/
def withImplied (i : Instr) (q : EngineQ) (e : Dep) (n : Reg5) (s : State) (f : State → Out) : Out :=
  if n = 31 then dispatch q e (illegal s i) s else f s

def execVslice (e : Dep) (d a b : Reg5) (j : BitVec 3) (s : State) : Out :=
  withImplied (.vslice e d a b j) .vx e a s (vxForm (.vslice e d a b j) e [d, a, a + 1] (do
    let n ← laneIndex s b j 64
    .ok (.vslice (physT s d) (physT s a) (physT s (a + 1)) n)))
def execVins (e : Dep) (d a b : Reg5) (j : BitVec 3) (s : State) : Out :=
  vxForm (.vins e d a b j) e [d, a] (do
    let n ← laneIndex s b j 15
    .ok (.vins (physT s d) (physT s a) n)) s
def execVext (e : Dep) (d a b : Reg5) (j : BitVec 3) (s : State) : Out :=
  vxForm (.vext e d a b j) e [d, a] (do
    let n ← laneIndex s b j 1023
    .ok (.vext (physT s d) (physT s a) n)) s

/-! ## Parking (R99, R292) -/

def execVpark (e : Dep) (k a : Reg5) (s : State) : Out :=
  dispatch .vx e (do
    tilesOk s (.vpark e k a) [a]
    need s (decide (k.toNat < s.npark s.cur)) .illegalRegister (wordOf (.vpark e k a))
    .ok { op := .vpark k.toNat (physT s a),
          view := fun c => { c with csr := { c.csr with parkocc := c.csr.parkocc ||| (1#32 <<< k.toNat) } }, waitVx := none }) s

def execVunpark (e : Dep) (d k : Reg5) (s : State) : Out :=
  dispatch .vx e (do
    tilesOk s (.vunpark e d k) [d]
    need s (decide (k.toNat < s.npark s.cur) && (s.ctx s.cur).csr.parkocc.getLsbD k.toNat) .illegalRegister
      (wordOf (.vunpark e d k))
    .ok { op := .vunpark (physT s d) k.toNat,
          view := fun c => { c with csr := { c.csr with parkocc := c.csr.parkocc &&& ~~~(1#32 <<< k.toNat) } }, waitVx := none }) s

/-! ## Running -/

/-- Lanes written under a mask (R89): the lanes of the tile and the flags of the written ones. -/
def laneRun (c : Ctx) (d m : Nat) (f : Nat → Nat → Lane × Flags) : Ctx × Flags :=
  let old := c.tile d
  let mk := c.mask m
  let rs : Vector (Lane × Flags) 1024 :=
    Vector.ofFn (fun i : Fin 1024 => if mk.getLsbD i.val then f (i.val / 64) (i.val % 64) else (old[i.val], 0))
  (c.setTile d (rs.map (·.1)), rs.toList.foldl (fun acc x => acc ||| x.2) 0)

/-- A run that changes only the context. -/
def ranCtx (m : EMem) (x : Ctx × Flags) : Ran := ranOk m x.1 x.2

/-- A lane's value without flags. -/
def laneVal (b : BitVec 32) (p : Bool) : Lane × Flags := ({ bits := b, poison := p }, 0)

/-- The lane value of an element (R274). -/
def vldValue (fmt bits : Nat) : BitVec 32 :=
  match fmt with
  | 0 | 7 | 14 => BitVec.ofNat 32 bits
  | 6 => (BitVec.ofNat 8 bits).signExtend 32
  | _ => widen32 fmt bits

/-- vld runs (R274). -/
def runVld (m : EMem) (c : Ctx) (d : Nat) (a : ShapeRec) (row col mk : Nat) : Ran :=
  let h := shapeFields a
  ranCtx m (laneRun c d mk (fun r q =>
    if row + r < h.rows ∧ col + q < h.cols then
      let x := m.get h (row + r) (col + q)
      laneVal (vldValue h.fmt x.1) x.2
    else laneVal 0 false))

/-- INT32 clamped to INT8 (R275, R287): SA on a clamp. -/
def clampI8 (b : BitVec 32) : Int × Flags :=
  let v := b.toInt
  if v < -128 then (-128, SA) else if 127 < v then (127, SA) else (v, 0)

/-- The element a lane stores (R275). -/
def vstElem (fmt : Nat) (sat : Bool) (md : RMode) (b : BitVec 32) : Nat × Flags :=
  match fmt with
  | 0 | 7 | 14 => (b.toNat, 0)
  | 6 => if sat then let (v, f) := clampI8 b; (ofInt 8 v, f) else (fldN b 0 8, 0)
  | 12 => let (v, f) := toIntClamp md (-128) 127 ((num32 b).scale 6); (ofInt 8 v, f)
  | _ => roundElem fmt md sat (num32 b)

/-- vst runs (R275). -/
def runVst (m : EMem) (c : Ctx) (d : Nat) (a : ShapeRec) (row col mk : Nat) (sat : Bool) (mode : BitVec 2) : Ran :=
  let h := shapeFields a
  let t := c.tile d
  let k := c.mask mk
  let r := (List.range (min 16 (h.rows - row))).foldl (fun (acc : EMem × Flags) i =>
    let els := ((List.range (min 64 (h.cols - col))).filter (fun q => maskBit k i q)).map (fun q =>
      let x := laneAt t i q
      let (v, f) := vstElem h.fmt sat (rmode mode) x.bits
      ((col + q, v, x.poison), f))
    (acc.1.setRow h (row + i) (els.map (·.1)), acc.2 ||| flagsOf els)) (m, 0)
  ranOk r.1 c r.2

/-- A sum of exact terms rounded once, with every flag (R277, R282). -/
def roundSum (l : List Num) : BitVec 32 × Flags :=
  let (x, f) := groupSum l
  let (b, g) := round32 x
  (b, f ||| g)

/-- An INT32 result clamped (R278). -/
def clampI32 (v : Int) : BitVec 32 × Flags :=
  if v < -2147483648 then (0x80000000, SA) else if 2147483647 < v then (0x7FFFFFFF, SA) else (BitVec.ofInt 32 v, 0)

/-- Lane operations of one lane, from the old destination, `a` and `b` (R276, R278); the complex forms are not among them. -/
def laneFn (op : LaneOp) (d a b : BitVec 32) : BitVec 32 × Flags :=
  match op with
  | .addF => add32 a b
  | .subF => sub32 a b
  | .mulF => mul32 a b
  | .fmaF => fma32 a b d
  | .fnmaF => fnma32 a b d
  | .minF => (min32 a b, 0)
  | .maxF => (max32 a b, 0)
  | .absF => (if isNan32 a then nan32 else a &&& 0x7FFFFFFF, 0)
  | .negF => (if isNan32 a then nan32 else a ^^^ 0x80000000, 0)
  | .cadd | .cmul => (0, 0)
  | .addI => (a + b, 0)
  | .subI => (a - b, 0)
  | .mulI => (a * b, 0)
  | .andI => (a &&& b, 0)
  | .orI => (a ||| b, 0)
  | .xorI => (a ^^^ b, 0)
  | .sllI => (a <<< fldN b 0 5, 0)
  | .srlI => (a >>> fldN b 0 5, 0)
  | .sraI => (a.sshiftRight (fldN b 0 5), 0)
  | .minI => (if a.slt b then a else b, 0)
  | .maxI => (if a.slt b then b else a, 0)
  | .addsI => clampI32 (a.toInt + b.toInt)
  | .subsI => clampI32 (a.toInt - b.toInt)

/-- The operation reads its old destination. -/
def LaneOp.readsD (op : LaneOp) : Bool := op == .fmaF || op == .fnmaF

/-- A lane of a complex form (R277). -/
def complexLane (op : LaneOp) (ta tb : Tile) (r q : Nat) : Lane × Flags :=
  let re := q / 2 * 2
  let ar := laneAt ta r re
  let ai := laneAt ta r (re + 1)
  let br := laneAt tb r re
  let bi := laneAt tb r (re + 1)
  let imag := q % 2 == 1
  match op with
  | .cadd =>
    if imag then let (v, f) := add32 ai.bits br.bits; ({ bits := v, poison := ai.poison || br.poison }, f)
    else let (v, f) := sub32 ar.bits bi.bits; ({ bits := v, poison := ar.poison || bi.poison }, f)
  | _ =>
    let pr := fun (x y : Lane) => ((num32 x.bits).mul (num32 y.bits)).1
    let (v, f) := if imag then roundSum [pr ar bi, pr ai br] else roundSum [pr ar br, (pr ai bi).neg]
    ({ bits := v, poison := ar.poison || ai.poison || br.poison || bi.poison }, f)

/-- Lane arithmetic runs. -/
def runLane (m : EMem) (c : Ctx) (op : LaneOp) (d a b mk : Nat) : Ran :=
  let ta := c.tile a
  let tb := c.tile b
  let td := c.tile d
  if op == .cadd || op == .cmul then ranCtx m (laneRun c d mk (complexLane op ta tb))
  else ranCtx m (laneRun c d mk (fun r q =>
    let x := laneAt ta r q
    let y := laneAt tb r q
    let z := laneAt td r q
    let (v, f) := laneFn op z.bits x.bits y.bits
    ({ bits := v, poison := x.poison || y.poison || (op.readsD && z.poison) }, f)))

/-- A compare (R279). -/
def cmpFn (op : CmpOp) (a b : BitVec 32) : Bool :=
  match op with
  | .eqF => (num32 a).eqv (num32 b)
  | .ltF => (num32 a).lt (num32 b)
  | .leF => (num32 a).lt (num32 b) || (num32 a).eqv (num32 b)
  | .unF => isNan32 a || isNan32 b
  | .eqI => a == b
  | .ltI => a.slt b
  | .ltuI => a.ult b

/-- Mask bits written under a write mask. -/
def maskRun (c : Ctx) (d m : Nat) (f : Nat → Nat → Bool) : Ctx :=
  let old := c.mask d
  let mk := c.mask m
  c.setMask d (maskOf (fun r q => if maskBit mk r q then f r q else maskBit old r q))

/-- vcmp runs. -/
def runVcmp (m : EMem) (c : Ctx) (op : CmpOp) (d a b mk : Nat) : Ran :=
  let ta := c.tile a
  let tb := c.tile b
  ranOk m (maskRun c d mk (fun r q => cmpFn op (laneAt ta r q).bits (laneAt tb r q).bits)) 0

/-- vsel runs (R280): every lane is written. -/
def runVsel (m : EMem) (c : Ctx) (d a b sel : Nat) : Ran :=
  let ta := c.tile a
  let tb := c.tile b
  let k := c.mask sel
  ranOk m (c.setTile d (tileOf (fun r q => if maskBit k r q then laneAt ta r q else laneAt tb r q))) 0

/-- A mask operation on bits. -/
def maskFn (op : MaskOp) (x y : Bool) : Bool :=
  match op with | .and => x && y | .or => x || y | .xor => x != y | .not => !x

/-- Mask operations run (R280). -/
def runMask (m : EMem) (c : Ctx) (op : MaskOp) (d a b mk : Nat) : Ran :=
  let x := c.mask a
  let y := c.mask b
  ranOk m (maskRun c d mk (fun r q => maskFn op (maskBit x r q) (maskBit y r q))) 0

/-- The source lane of a move (R281, R283). -/
def moveFrom (op : MoveOp) (r q : Nat) : Nat × Nat :=
  match op with
  | .rotr k => (r, (q + k) % 64)
  | .bcr k => (r, k)
  | .rotc k => ((r + k) % 16, q)
  | .bcc k => (k, q)
  | .xchC x => (r, (q ^^^ x) % 64)
  | .xchR x => ((r ^^^ x) % 16, q)

/-- Moves run. -/
def runMove (m : EMem) (c : Ctx) (op : MoveOp) (d a mk : Nat) : Ran :=
  let t := c.tile a
  ranCtx m (laneRun c d mk (fun r q => let (x, y) := moveFrom op r q; (laneAt t x y, 0)))

/-- A place in the order of R84: NaN lowest, then by sign and magnitude, -0 below +0. -/
def rank84 (b : BitVec 32) : Int :=
  if isNan32 b then -4294967296
  else if b.getLsbD 31 then -(Int.ofNat (fldN b 0 31)) - 1 else Int.ofNat (fldN b 0 31)

/-- The best of lanes in rising index, the lower index winning a tie; `less` for the smallest. -/
def bestLane (less : Bool) : List Lane → BitVec 32
  | [] => 0
  | x :: r => r.foldl (fun best y =>
      if (if less then rank84 y.bits < rank84 best else rank84 best < rank84 y.bits) then y.bits else best) x.bits

/-- The result of a reduction over its participating lanes (R282). -/
def reduce (op : RedOp) (l : List Lane) : Lane × Flags :=
  let p := l.any (·.poison)
  match op with
  | .add => let (v, f) := roundSum (l.map (fun x => num32 x.bits)); ({ bits := v, poison := p }, f)
  | .max => laneVal (bestLane false l) p
  | .min => laneVal (bestLane true l) p

/-- vredr runs (R282). -/
def runRedr (m : EMem) (c : Ctx) (op : RedOp) (d a mk : Nat) : Ran :=
  let t := c.tile a
  let k := c.mask mk
  let rs := (List.range 16).map (fun r =>
    reduce op (((List.range 64).filter (fun q => maskBit k r q)).map (fun q => laneAt t r q)))
  ranCtx m (laneRun c d mk (fun r _ => rs.getD r (Lane.zero, 0)))

/-- vredc runs (R282). -/
def runRedc (m : EMem) (c : Ctx) (op : RedOp) (d a mk : Nat) : Ran :=
  let t := c.tile a
  let k := c.mask mk
  let rs := (List.range 64).map (fun q =>
    reduce op (((List.range 16).filter (fun r => maskBit k r q)).map (fun r => laneAt t r q)))
  ranCtx m (laneRun c d mk (fun _ q => rs.getD q (Lane.zero, 0)))

/-- vslice runs (R284). -/
def runVslice (m : EMem) (c : Ctx) (d a a1 i : Nat) : Ran :=
  let t := c.tile a
  let u := c.tile a1
  ranOk m (c.setTile d (tileOf (fun r q => if q + i < 64 then laneAt t r (q + i) else laneAt u r (q + i - 64)))) 0

/-- vins runs (R284). -/
def runVins (m : EMem) (c : Ctx) (d a i : Nat) : Ran :=
  let t := c.tile a
  let old := c.tile d
  ranOk m (c.setTile d (tileOf (fun r q => if r = i then laneAt t 0 q else laneAt old r q))) 0

/-- vext runs (R284). -/
def runVext (m : EMem) (c : Ctx) (d a i : Nat) : Ran :=
  let t := c.tile a
  ranOk m (c.setTile d (tileOf (fun _ _ => laneAt t (i / 64) (i % 64)))) 0

/-- The address of a park position's first byte in the accumulator memory (R99): row 64 D + 16 k. -/
def parkAddr (m : EMem) (c : Ctx) (pos : Nat) : Nat := accAddr m.row0 (64 * c.csr.dslots + 16 * pos) 0

/-- vpark runs (R292). -/
def runVpark (m : EMem) (c : Ctx) (pos a : Nat) : Ran :=
  let t := c.tile a
  let a0 := parkAddr m c pos
  ranOk ((List.range 1024).foldl (fun (m : EMem) i =>
    let x := laneAt t (i / 64) (i % 64)
    { m with acc := m.acc.write (a0 + 4 * i) (pbytes x.poison (leBytes 4 x.bits.toNat)) }) m) c 0

/-- vunpark runs (R292). -/
def runVunpark (m : EMem) (c : Ctx) (d pos : Nat) : Ran :=
  let a0 := parkAddr m c pos
  ranOk m (c.setTile d (tileOf (fun r q =>
    let (v, p) := poolNat m.acc (a0 + 4 * (64 * r + q)) 4
    { bits := BitVec.ofNat 32 v, poison := p }))) 0

end Sys2Proof.Machine
end

