-- ==== Sys2Proof/Machine/VectorSpecial.lean ====
section
/-!
DEFINITION. The vector engine's special functions, RMS, conversions, quantisation, selection, grammar masks and random draws:
checks at dispatch (R269, R270, R285 to R291) and what the entries do when they run.
-/
namespace Sys2Proof.Machine

/-! ## Special functions (R285) -/

/-- A vsf form. -/
def vsfForm (f : SfOp) (i : Instr) (e : Dep) (d a : Reg5) (m : Reg3) (s : State) : Out :=
  vxForm i e [d, a] (.ok (.vsf f (physT s d) (physT s a) (physM s m))) s

def execVsfExp2 (e : Dep) (d a : Reg5) (m : Reg3) (s : State) : Out := vsfForm .exp2 (.vsfExp2 e d a m) e d a m s
def execVsfExp (e : Dep) (d a : Reg5) (m : Reg3) (s : State) : Out := vsfForm .exp (.vsfExp e d a m) e d a m s
def execVsfLog2 (e : Dep) (d a : Reg5) (m : Reg3) (s : State) : Out := vsfForm .log2 (.vsfLog2 e d a m) e d a m s
def execVsfLn (e : Dep) (d a : Reg5) (m : Reg3) (s : State) : Out := vsfForm .ln (.vsfLn e d a m) e d a m s
def execVsfSigmoid (e : Dep) (d a : Reg5) (m : Reg3) (s : State) : Out := vsfForm .sigmoid (.vsfSigmoid e d a m) e d a m s
def execVsfTanh (e : Dep) (d a : Reg5) (m : Reg3) (s : State) : Out := vsfForm .tanh (.vsfTanh e d a m) e d a m s
def execVsfSilu (e : Dep) (d a : Reg5) (m : Reg3) (s : State) : Out := vsfForm .silu (.vsfSilu e d a m) e d a m s
def execVsfSoftplus (e : Dep) (d a : Reg5) (m : Reg3) (s : State) : Out := vsfForm .softplus (.vsfSoftplus e d a m) e d a m s
def execVsfSinpi (e : Dep) (d a : Reg5) (m : Reg3) (s : State) : Out := vsfForm .sinpi (.vsfSinpi e d a m) e d a m s
def execVsfCospi (e : Dep) (d a : Reg5) (m : Reg3) (s : State) : Out := vsfForm .cospi (.vsfCospi e d a m) e d a m s

def execVrcp (e : Dep) (d a : Reg5) (m : Reg3) (s : State) : Out :=
  vxForm (.vrcp e d a m) e [d, a] (.ok (.vrcp (physT s d) (physT s a) (physM s m))) s
def execVrsq (e : Dep) (d a : Reg5) (m : Reg3) (s : State) : Out :=
  vxForm (.vrsq e d a m) e [d, a] (.ok (.vrsq (physT s d) (physT s a) (physM s m))) s

/-! ## RMS (R286) -/

def execVrmsPart (e : Dep) (d a : Reg5) (s : State) : Out :=
  vxForm (.vrmsPart e d a) e [d, a] (.ok (.vrmsPart (physT s d) (physT s a))) s
def execVrms (e : Dep) (d a b : Reg5) (s : State) : Out :=
  vxForm (.vrms e d a b) e [d, a] (do
    let v ← src s b
    operandOk s (fldN v 32 32 != 0)
    .ok (.vrms (physT s d) (physT s a) (fldN v 32 32) (fld v 0 32))) s

/-! ## Conversion and quantisation (R287, R288) -/

/-- vcvt: K from 9 to 31 is reserved (R287). -/
def execVcvt (e : Dep) (d a : Reg5) (k : BitVec 5) (m : Reg3) (sat : BitVec 1) (r : BitVec 2) (s : State) : Out :=
  if 9 ≤ k.toNat then dispatch .vx e (illegal s (.vcvt e d a k m sat r)) s
  else vxForm (.vcvt e d a k m sat r) e [d, a]
    (.ok (.vcvt k.toNat (decide (sat = 1)) r (physT s d) (physT s a) (physM s m))) s

def execVqmx (e : Dep) (d a : Reg5) (q : BitVec 2) (s : State) : Out :=
  withImplied (.vqmx e d a q) .vx e d s (vxForm (.vqmx e d a q) e [d, a, d + 1]
    (.ok (.vqmx q (physT s d) (physT s (d + 1)) (physT s a))))

/-! ## Selection, masks, draws (R289 to R291) -/

def execVbkt (e : Dep) (d : Reg4) (a b : Reg5) (m : Reg3) (s : State) : Out :=
  vxForm (.vbkt e d a b m) e [a] (do
    let v ← src s b
    let h ← record s d true
    agree s d (h.linear && h.fmt == 8 && h.rows == 1)
    let lgb := fldN v 32 4
    operandOk s (fldN v 36 28 == 0 && decide (8 ≤ lgb) && decide (lgb ≤ 13) && decide (fldN v 0 32 ≤ 4294966272)
      && h.cols == 2 ^ lgb)
    .ok (.vbkt (rawShape s d) (physT s a) lgb (fldN v 0 32) (physM s m))) s

def execVmsk (e : Dep) (d a b : Reg5) (m : Reg3) (s : State) : Out :=
  vxForm (.vmsk e d a b m) e [d, a] (do
    let p ← src s b
    let o ← ownPointer s p 128 8
    .ok (.vmsk (physT s d) (physT s a) (BitVec.ofNat 64 o) (physM s m))) s

def execVrand (e : Dep) (d a b : Reg5) (m : Reg3) (s : State) : Out :=
  vxForm (.vrand e d a b m) e [d] (do
    let key ← src s a
    let v ← src s b
    .ok (.vrand (physT s d) key v (physM s m))) s

/-! ## Running -/

/-- A function of each lane, under the mask. -/
def runUnary (m : EMem) (c : Ctx) (f : BitVec 32 → BitVec 32 × Flags) (d a mk : Nat) : Ran :=
  let t := c.tile a
  ranCtx m (laneRun c d mk (fun r q =>
    let x := laneAt t r q
    let (v, g) := f x.bits
    ({ bits := v, poison := x.poison }, g)))

/-- vrms.part runs (R286). -/
def runVrmsPart (m : EMem) (c : Ctx) (d a : Nat) : Ran :=
  let t := c.tile a
  let old := c.tile d
  let rows := (List.range 16).map (fun r =>
    let xs := (List.range 64).map (fun q => laneAt t r q)
    let h := laneAt old r 0
    let l := laneAt old r 1
    let p : FPair := xs.foldl (fun p x => p.fma one32 (FNum.times (num32 x.bits, 0) (num32 x.bits, 0))) ((h.bits, l.bits), 0)
    (p, h.poison || l.poison || xs.any (·.poison)))
  let nt := tileOf (fun r q =>
    match rows[r]? with
    | some (p, x) =>
      if q = 0 then { bits := p.1.1, poison := x } else if q = 1 then { bits := p.1.2, poison := x } else laneAt old r q
    | none => laneAt old r q)
  ranOk m (c.setTile d nt) (rows.foldl (fun f y => f ||| y.1.2) 0)

/-- One row of vrms from its pair (R83, R286). -/
def rmsRow (hi lo : BitVec 32) (n : Nat) (eps : BitVec 32) : BitVec 32 × Flags :=
  let (v, f0) := pairSum hi lo
  let quot := match v with
    | .fin _ _ _ => v.divSticky (intNum (Int.ofNat n))
    | x => x
  let (q, f1) := round32 quot
  let (t, f2) := add32 q eps
  let (y, f3) := vrsq32 t
  (y, f0 ||| f1 ||| f2 ||| f3)

/-- vrms runs (R286). -/
def runVrms (m : EMem) (c : Ctx) (d a n : Nat) (eps : BitVec 32) : Ran :=
  let t := c.tile a
  let rows := (List.range 16).map (fun r =>
    let h := laneAt t r 0
    let l := laneAt t r 1
    let (v, f) := rmsRow h.bits l.bits n eps
    (({ bits := v, poison := h.poison || l.poison } : Lane), f))
  ranOk m (c.setTile d (tileOf (fun r _ => (rows.getD r (Lane.zero, 0)).1))) (flagsOf rows)

/-- The conversions of vcvt (R287). -/
def vcvtFn (k : Nat) (sat : Bool) (md : RMode) (b : BitVec 32) : BitVec 32 × Flags :=
  let held := fun (f : Nat) =>
    let (e, g) := roundElem f md sat (num32 b)
    (widen32 f e, g)
  match k with
  | 0 => let (v, f) := toIntClamp md (-2147483648) 2147483647 (num32 b); (BitVec.ofInt 32 v, f)
  | 1 => let (v, f) := roundFp fp32 md false (intNum b.toInt); (BitVec.ofNat 32 v, f)
  | 2 => held 1
  | 3 => held 2
  | 4 => held 3
  | 5 => held 4
  | 6 => held 5
  | 7 => let (v, f) := toIntClamp md (-128) 127 (num32 b); (BitVec.ofInt 32 v, f)
  | _ => let (v, f) := clampI8 b; (BitVec.ofInt 32 v, f)

/-- The MX element format of a code Q (R288). -/
def mxOfQ (q : BitVec 2) : Nat := 9 + q.toNat

/-- vqmx runs (R288): the two blocks of each row. -/
def runVqmx (m : EMem) (c : Ctx) (q : BitVec 2) (d d1 a : Nat) : Ran :=
  let t := c.tile a
  let f := mxOfQ q
  let blocks := (List.range 32).map (fun i =>
    let xs := (List.range 32).map (fun j => laneAt t (i / 2) (32 * (i % 2) + j))
    (quantise f (xs.map (fun x => num32 x.bits)), xs.any (·.poison)))
  let blk := fun r h => blocks[2 * r + h]?
  let nt := tileOf (fun r q =>
    match blk r (q / 32) with
    | some ((_, els, _), p) => { bits := widen32 f (els.getD (q % 32) 0), poison := p }
    | none => Lane.zero)
  let ns := tileOf (fun r q =>
    if q < 2 then match blk r q with
      | some ((e, _, _), p) => { bits := BitVec.ofNat 32 e, poison := p }
      | none => Lane.zero
    else Lane.zero)
  ranOk m ((c.setTile d nt).setTile d1 ns) (blocks.foldl (fun g b => g ||| b.1.2.2) 0)

/-- vbkt runs (R289): each competing lane meets its bucket's entry. -/
def runVbkt (m : EMem) (c : Ctx) (a : ShapeRec) (t lgb ibase mk : Nat) : Ran :=
  let h := shapeFields a
  let tl := c.tile t
  let k := c.mask mk
  let r := ((List.range 1024).filter (fun i => k.getLsbD i)).foldl (fun (m : EMem) i =>
    let x := laneAt tl (i / 64) (i % 64)
    let v := ibase + i
    let q := v % 2 ^ lgb
    let (old, p) := m.get h 0 q
    let ob := BitVec.ofNat 32 old
    let oi := old / 2 ^ 32
    let win := decide (rank84 ob < rank84 x.bits) || (decide (rank84 ob = rank84 x.bits) && decide (v < oi))
    m.set h 0 q (if win then x.bits.toNat + v * 2 ^ 32 else old) (p || x.poison)) m
  ranOk r c 0

/-- vmsk runs (R290). -/
def runVmsk (m : EMem) (c : Ctx) (d a : Nat) (o : Nat) (mk : Nat) : Ran :=
  let t := c.tile a
  let bs := m.pool.read (m.scr + o) 128
  ranCtx m (laneRun c d mk (fun r q =>
    let i := 64 * r + q
    let b := bs.getD (i / 8) { val := 0, poison := false }
    let x := laneAt t r q
    if b.val.getLsbD (i % 8) then ({ x with poison := x.poison || b.poison }, 0) else laneVal 0xFF800000 b.poison))

/-- One round of philox (R291): keys and counters. -/
def philoxRound (x : (BitVec 32 × BitVec 32) × List (BitVec 32)) : (BitVec 32 × BitVec 32) × List (BitVec 32) :=
  let (k0, k1) := x.1
  let c := fun i => x.2.getD i 0
  let p0 : BitVec 64 := 0xD2511F53#64 * zext64 (c 0)
  let p1 : BitVec 64 := 0xCD9E8D57#64 * zext64 (c 2)
  ((k0 + 0x9E3779B9, k1 + 0xBB67AE85),
   [fld p1 32 32 ^^^ c 1 ^^^ k0, fld p1 0 32, fld p0 32 32 ^^^ c 3 ^^^ k1, fld p0 0 32])

/-- philox (R291). -/
def philox (k0 k1 : BitVec 32) (c : List (BitVec 32)) : List (BitVec 32) := ((List.range 10).foldl (fun x _ => philoxRound x) ((k0, k1), c)).2

/-- The draw of index `d` (R291): (w >> 8) x 2^-24 in FP32. -/
def drawOf (key : Word) (pos : BitVec 40) (d : Nat) : BitVec 32 :=
  let w := (philox (fld key 0 32) (fld key 32 32)
    [fld pos 0 32, (fld pos 32 8).setWidth 32, BitVec.ofNat 32 (d / 4), 0]).getD (d % 4) 0
  (round32 (.fin false (fldN w 8 24) (-24))).1

/-- vrand runs (R291). -/
def runVrand (m : EMem) (c : Ctx) (d : Nat) (key b : Word) (mk : Nat) : Ran :=
  ranCtx m (laneRun c d mk (fun r q => laneVal (drawOf key (fld b 0 40) (fldN b 40 24 + 64 * r + q)) false))

end Sys2Proof.Machine
end

