-- ==== Sys2Proof/Machine/Ochre.lean ====
section
/-!
DEFINITION. The custom forms ox0 to ox15 and the management forms oload, ounld, ostat (R324 to R334): checks at dispatch and what
the entries do when they run.
-/
namespace Sys2Proof.Machine

/-- The dispatch view of a slot (R325). -/
def Ctx.view (c : Ctx) (n : Reg4) : OView := c.oview[n.toNat]'(by omega)
/-- A slot's view replaced. -/
def Ctx.setView (c : Ctx) (n : Reg4) (v : OView) : Ctx := { c with oview := c.oview.set n.toNat v (by omega) }
/-- A slot. -/
def Ctx.slot (c : Ctx) (n : Fin 16) : OSlot := c.oslots[n.val]
/-- A slot replaced. -/
def Ctx.setSlot (c : Ctx) (n : Fin 16) (x : OSlot) : Ctx := { c with oslots := c.oslots.set n.val x }
/-- A slot number of a field. -/
def slotNo (n : Reg4) : Fin 16 := ⟨n.toNat, by omega⟩

/-- The checks of an OX form on a loaded slot (R331): an unbound vb, the implied names of 31, the implied names beyond T. -/
def oxImplied (s : State) (i : Instr) (v : OView) (d a b : Reg5) : Res Unit := do
  operandOk s (!(v.nin == 1 && b != 0))
  let names := (if 3 ≤ v.nin then [a] else []) ++ (if 4 ≤ v.nin then [b] else []) ++ (if v.nout = 2 then [d] else [])
  if names.contains 31 then illegal s i
  else tilesOk s i (names.map (· + 1))

/-- ox0 to ox15 (R331): the slot's current plane in the view is captured (R325). -/
def execOx (e : Dep) (d a b : Reg5) (m : Reg3) (n : Reg4) (s : State) : Out :=
  dispatch .vx e (do
    let i : Instr := .ox e d a b m n
    let c := s.ctx s.cur
    let v := c.view n
    tilesOk s i (if v.loaded && 2 ≤ v.nin then [d, a, b] else [d, a])
    need s v.loaded .unloadedOpcode 0
    oxImplied s i v d a b
    .ok { op := .ox (slotNo n) v.cur v.nin v.nout (physT s d) (physT s (d + 1)) (physT s a) (physT s b) (physT s (a + 1))
            (physT s (b + 1)) (physM s m),
          view := id, waitVx := c.oloadFor (slotNo n) v.cur }) s

/-- Both planes of a slot are empty as they will stand when the next VX entry runs (R325, R328). -/
def Ctx.slotEmpty (c : Ctx) (n : Fin 16) : Bool :=
  (c.queue .vx).entries.foldl (fun b e =>
    if e.done then b
    else match e.op with
      | .oload k _ _ _ _ _ => if k = n then false else b
      | .ounld k => if k = n then true else b
      | _ => b) ((c.slot n).planes.toList.all (fun p => p.st == .empty))

/-- oload (R327, R328). -/
def execOload (e : Dep) (n : Reg4) (a b : Reg5) (s : State) : Out :=
  dispatch .vx e (do
    let p ← src s a
    let d ← src s b
    let lat := fldN d 16 8
    let nin := fldN d 8 8
    let nout := fldN d 0 8
    operandOk s (fldN d 24 40 == 0 && decide (1 ≤ lat) && decide (lat ≤ 64) && decide (1 ≤ nin) && decide (nin ≤ 4)
      && (nout == 1 || nout == 2))
    let o ← ownPointer s p 16 16
    let c := s.ctx s.cur
    let t : Fin 2 := if c.slotEmpty (slotNo n) then 0 else 1 - (c.view n).cur
    .ok { op := .oload (slotNo n) t (BitVec.ofNat 64 o) lat nin nout,
          view := fun c => c.setView n { loaded := true, cur := t, nin := nin, nout := nout }, waitVx := none }) s

/-- ounld (R329). -/
def execOunld (e : Dep) (n : Reg4) (s : State) : Out :=
  dispatch .vx e (
    let v := (s.ctx s.cur).view n
    if !v.loaded then .ok (plainOp .relay)
    else .ok { op := .ounld (slotNo n), view := fun c => c.setView n { v with loaded := false }, waitVx := none }) s

/-- ostat (R330). -/
def execOstat (e : Dep) (d : Reg5) (s : State) : Out :=
  vxForm (.ostat e d) e [d] (.ok (.ostat (physT s d))) s

/-! ## Running -/

/-- The plane an entry has captured (R325, R328). -/
def EngineOp.plane (op : EngineOp) : Option (Fin 16 × Fin 2) :=
  match op with
  | .ox n t _ _ _ _ _ _ _ _ _ => some (n, t)
  | .mdrain _ _ epi _ _ => epi
  | .oload n t _ _ _ _ => some (n, t)
  | _ => none

/-- The use count of a plane by entries dispatched before `ord` (R324, R328). -/
def Ctx.uses (c : Ctx) (n : Fin 16) (t : Fin 2) (ord : Nat) : Nat :=
  ((allQueues.map (fun q => (c.queue q).entries)).flatten.filter
    (fun e => decide (e.ord < ord) && e.op.plane == some (n, t))).length

/-- The use count of a plane by every entry. -/
def Ctx.usesAll (c : Ctx) (n : Fin 16) (t : Fin 2) : Nat := c.uses n t c.dispatched

/-- An oload or ounld waits for the entries that use what it replaces (R328, R329). -/
def Ctx.planeFree (c : Ctx) (e : Entry) : Bool :=
  match e.op with
  | .oload n t _ _ _ _ => c.uses n t e.ord == 0
  | .ounld n => c.uses n 0 e.ord == 0 && c.uses n 1 e.ord == 0
  | _ => true

/-- ox runs (R331): a captured plane that is bad leaves every destination unwritten (R328); a plane with another context's stamp
discards the operands and poisons the lanes (R334). -/
def runOx (k : CtxId) (draw : Nat) (m : EMem) (c : Ctx) (n : Fin 16) (t : Fin 2) (nin nout d d1 a b a1 b1 mk : Nat) : Ran :=
  let pl := (c.slot n).planes[t.val]
  if pl.st ≠ .loaded then ranOk m c 0
  else
    let srcs := ([a, b, a1, b1].take nin).map c.tile
    let msk := c.mask mk
    let good := pl.stamp == opidOf k c
    let rs : Vector (OVal × OVal × Flags) 1024 := Vector.ofFn (fun i : Fin 1024 =>
      if msk.getLsbD i.val then
        if good then evalGraph pl.graph (srcs.map (fun x => (x[i.val].bits, x[i.val].poison)))
        else ((Config.discardedLane draw i.val, true), (Config.discardedLane draw i.val, true), 0)
      else ((0, false), (0, false), 0))
    let put := fun (c : Ctx) (dst : Nat) (f : OVal × OVal × Flags → OVal) =>
      let old := c.tile dst
      c.setTile dst (Vector.ofFn (fun i : Fin 1024 =>
        if msk.getLsbD i.val then { bits := (f rs[i.val]).1, poison := (f rs[i.val]).2 } else old[i.val]))
    let c1 := put c d (·.1)
    { mem := m, ctx := if nout = 2 then put c1 d1 (·.2.1) else c1,
      flags := rs.toList.foldl (fun f x => f ||| x.2.2) 0,
      report := if good then none else some (.opidMismatch, 0) }

/-- The image at a scratchpad-part offset: a body that passes the end of the part is no image (R320, R323). -/
def imageAt (m : EMem) (c : Ctx) (o lat nin nout : Nat) : Option OGraph :=
  let size := imageSize (m.pool.read (m.scr + o) 16)
  if c.scrSize < o + 16 + size then none else parseGraph (m.pool.read (m.scr + o) (16 + size)) lat nin nout

/-- oload runs (R328): a failed one leaves the slot unloaded and its CUR at the bad plane in state and view. -/
def runOload (k : CtxId) (m : EMem) (c : Ctx) (n : Fin 16) (t : Fin 2) (o lat nin nout : Nat) : Ran :=
  let x := c.slot n
  match imageAt m c o lat nin nout with
  | some g =>
    let pl : OPlane := { st := .loaded, graph := g, lat := lat, nin := nin, nout := nout, stamp := opidOf k c }
    ranOk m (c.setSlot n { cur := t, bad := false, planes := x.planes.set t.val pl }) 0
  | none =>
    let c1 := c.setSlot n { cur := t, bad := true, planes := x.planes.set t.val { OPlane.cleared (opidOf k c) with st := .bad } }
    let r : Reg4 := BitVec.ofNat 4 n.val
    { mem := m, ctx := c1.setView r { c1.view r with loaded := false, cur := t },
      flags := 0, report := some (.graphInvalid, BitVec.ofNat 64 n.val) }

/-- ounld runs (R329). -/
def runOunld (k : CtxId) (m : EMem) (c : Ctx) (n : Fin 16) : Ran :=
  ranOk m (c.setSlot n { c.slot n with planes := Vector.replicate 2 (OPlane.cleared (opidOf k c)) }) 0

/-- The status of a slot (R330). -/
def slotStatus (x : OSlot) : BitVec 32 :=
  let p := x.planes[x.cur.val]
  BitVec.ofNat 32 ((if p.st = .loaded then 2 ^ 31 else 0) + (if x.bad then 2 ^ 30 else 0) + x.cur.val * 2 ^ 29
    + p.lat * 2 ^ 16 + p.nin * 2 ^ 8 + p.nout)

/-- ostat runs (R330). -/
def runOstat (m : EMem) (c : Ctx) (d : Nat) : Ran :=
  ranOk m (c.setTile d (tileOf (fun r q =>
    if r = 0 ∧ q < 16 then { bits := slotStatus (c.slot (Fin.ofNat 16 q)), poison := false } else Lane.zero))) 0

end Sys2Proof.Machine
end

