-- ==== Sys2Proof/Machine/Snapshot.lean ====
section
/-!
DEFINITION. The common snapshot trigger (R457).
-/
namespace Sys2Proof.Machine

/-- The snapshot registers as they stand. -/
def latchNow (s : State) : Snapshot :=
  let cs := s.ctxs.toList
  { ts := s.tsc
    issues := cs.map (·.issues)
    occupancy := cs.map (fun c => c.queues.toList.map (fun q => q.entries.length))
    tokens := cs.map (fun c => c.tokens.toList)
    gangs := (List.range s.tasks.length).zip s.tasks |>.filterMap (fun x =>
      match x.2.st with
      | .placed | .released | .preempting | .ending =>
        let c := (s.ctx (ctxAt x.2.first x.2.ctx)).csr
        some (x.1, c.nslots.toNat, c.stepn.toNat)
      | _ => none)
    firkin := s.dies.toList.map (·.firkinBytes)
    frames := s.fhFrames.toList
    unsteered := s.unsteered.toList.map (·.toNat)
    drops := s.fhDrops.toList }

/-- A trigger within 100 ns of the previous one is merged into it; the latched set stays until firmware re-arms it (R457). -/
def snapTrigger (s : State) : State :=
  let merged := match s.snapLast with | some t => decide ((s.tsc - t).toNat ≤ 100) | none => false
  if merged then s
  else
    let s1 := { s with snapLast := some s.tsc }
    if s.snapArmed then { s1 with snapshot := latchNow s, snapArmed := false } else s1

/-- Event SNAPSHOT_PIN_EDGE (R457). -/
def execEvSnapshotPinEdge (s : State) : Out := .next (snapTrigger s)

/-- Event SNAPAT_MATCH (R457): the counter stands at SNAPAT; 0 disarms it. -/
def execEvSnapatMatch (s : State) : Out :=
  .next (if s.snapat ≠ 0 ∧ s.tsc = s.snapat then snapTrigger s else s)

end Sys2Proof.Machine
end

