-- ==== Sys2Proof/Machine/Sys.lean ====
section
/-!
DEFINITION. The SYS instructions (R359 to R363, R367 to R371) and the wake of wfi.
-/
namespace Sys2Proof.Machine

/-- The check of R367 that comes before all others: PRIVILEGED in U mode. -/
def inSMode (s : State) (i : Instr) : Res Unit := need s (s.ctx s.cur).csr.sact .privileged (wordOf i)

/-- sret (R362): a report that waited is raised (R373). -/
def execSret (s : State) : Out :=
  finish s (do inSMode s .sret; .ok (raiseHeld (s.modCtx s.cur (·.returnSuper)) s.cur))

/-- escal (R363): the context resumes at the next instruction. -/
def execEscal (a : Reg5) (s : State) : Out :=
  finish s (do
    inSMode s (.escal a)
    let v ← src s a
    .ok (beginDrain (s.modCtx s.cur (·.advance 0)) s.cur (.escal v)))

/-! ## tlbinv (R369, R426, R427) -/

/-- A scope code of tlbinv is DIE or DEV. -/
def tlbScope (c : BitVec 3) : Bool := c == 2 || c == 3

/-- The dies a tlbinv of a context at a scope covers. -/
def diesIn (k : CtxId) (c : BitVec 3) : List DieId := if c = 3 then [0, 1] else [dieOf (coreOf k)]

/-- The contexts of a list of dies. -/
def ctxsOf (ds : List DieId) : List CtxId := (List.finRange 256).filter (fun k => ds.contains (dieOf (coreOf k)))

/-- The tlbinv of a context waits for accesses in flight in its scope. -/
def tlbBlocked (s : State) (ks : List CtxId) : Bool := ks.any (fun k => (s.ctx k).abroad)

/-- Accesses whose translation is complete are performed, those of copies too. -/
def flushAll (s : State) (ks : List CtxId) : State :=
  landPosts ((ks.filter (fun k => !(s.ctx k).sbuf.isEmpty || !(s.ctx k).lateLoads.isEmpty)).foldl flush s) (fun p => ks.contains p.ctx)

/-- Translations and pointers of a partition that a test names are dropped in the caches of some dies. -/
def dropTranslations (s : State) (ds : List DieId) (t : TlbEntry → Bool) (w : WalkEntry → Bool) : State :=
  let s1 := { s with cores := Vector.ofFn (fun i : Fin 64 =>
    let c := s.cores[i.val]
    if ds.contains (dieOf i) then { c with tlb := c.tlb.filter (fun e => !t e) } else c) }
  ds.foldl (fun s d => s.modDie d (fun x =>
    { x with l2tlb := x.l2tlb.filter (fun e => !t e), walkCache := x.walkCache.filter (fun e => !w e) })) s1

/-- Every translation of a partition is dropped (R428). -/
def dropPartition (s : State) (ds : List DieId) (p : Fin 16) : State :=
  dropTranslations s ds (fun e => e.part == p) (fun e => e.part == p)

/-- tlbinv.va and tlbinv.ten after their checks. -/
def tlbinv (k : CtxId) (c : BitVec 3) (t : TlbEntry → Bool) (w : WalkEntry → Bool) (s : State) : State :=
  (dropTranslations (flushAll s (ctxsOf (diesIn k c))) (diesIn k c) t w).modCtx k (·.advance 0)

/-- The scope of a tlbinv holds accesses in flight that it waits for. -/
def tlbinvBlocked (s : State) (k : CtxId) (c : BitVec 3) : Bool :=
  (s.ctx k).csr.sact && tlbScope c && tlbBlocked s (ctxsOf (diesIn k c))

def execTlbinvVa (a : Reg5) (c : BitVec 3) (s : State) : Out :=
  if tlbinvBlocked s s.cur c && !(s.ctx s.cur).regPoison a then .next s
  else finish s (do
    inSMode s (.tlbinvVa a c)
    if !tlbScope c then illegal s (.tlbinvVa a c) else do
      let v ← src s a
      let p := (s.ctx s.cur).csr.partn
      let va := fldN v 0 48
      .ok (tlbinv s.cur c (TlbEntry.hit p va) (WalkEntry.hit p va) s))

def execTlbinvTen (c : BitVec 3) (s : State) : Out :=
  if tlbinvBlocked s s.cur c then .next s
  else finish s (do
    inSMode s (.tlbinvTen c)
    if !tlbScope c then illegal s (.tlbinvTen c) else do
      let p := (s.ctx s.cur).csr.partn
      .ok (tlbinv s.cur c (fun e => e.part == p) (fun e => e.part == p) s))

/-- tlbinv.all waits for the accesses in flight on its core. -/
def tlbinvAllBlocked (s : State) (k : CtxId) : Bool :=
  (s.ctx k).csr.sact && tlbBlocked s ((List.finRange 4).map (ctxAt (coreOf k)))

/-- tlbinv.all: every translation in the executing core's own TLB. -/
def execTlbinvAll (s : State) : Out :=
  if tlbinvAllBlocked s s.cur then .next s
  else finish s (do
    inSMode s .tlbinvAll
    let c := coreOf s.cur
    let s1 := flushAll s ((List.finRange 4).map (ctxAt c))
    .ok ((s1.setCore c { s1.core c with tlb := [] }).modCtx s.cur (·.advance 0)))

/-! ## qdrop, tokset, parkdrop (R370, R371) -/

/-- An entry runs: started, its effects not complete, not parked. -/
def Entry.runs (e : Entry) : Bool := e.started && !e.done && !e.parked

/-- An entry of a queue is running. -/
def Ctx.queueRuns (c : Ctx) (q : EngineQ) : Bool := (c.queue q).entries.any Entry.runs

/-- A queue of a mask is running. -/
def Ctx.maskRuns (c : Ctx) (m : BitVec 5) : Bool := allQueues.any (fun q => m.getLsbD q.idx.val && c.queueRuns q)

/-- The dispatch views are set equal to the state (R235, R325, R370). -/
def Ctx.syncViews (c : Ctx) : Ctx :=
  let shown := fun (p : WPlane) => if p.loaded then some p.fmt else none
  { c with
    mview := { active := shown c.planes[c.activePlane.val], shadow := shown c.planes[(1 - c.activePlane).val],
               scales := c.scaleq.length, mxcfg := c.mxcfg, sqcfg := c.sqcfg }
    oview := Vector.ofFn (fun i : Fin 16 =>
      let x := c.oslots[i.val]
      let p := x.planes[x.cur.val]
      { loaded := decide (p.st = .loaded), cur := x.cur, nin := p.nin, nout := p.nout }) }

/-- Every entry left in the queues of a mask is discarded. -/
def Ctx.discard (c : Ctx) (m : BitVec 5) : Ctx :=
  (allQueues.foldl (fun c q => if m.getLsbD q.idx.val then c.setEntries q [] else c) c).syncViews

/-- qdrop (R370) waits until no entry of a named queue runs. -/
def qdropBlocked (s : State) (k : CtxId) (b : Reg5) : Bool := (s.ctx k).csr.sact && (s.ctx k).maskRuns b

def execQdrop (b : Reg5) (s : State) : Out :=
  if qdropBlocked s s.cur b then .next s
  else finish s (do
    inSMode s (.qdrop b)
    if b = 0 then illegal s (.qdrop b) else
      .ok (s.modCtx s.cur (fun c => (c.discard b).advance 0)))

/-- The queues adjacent to a FIFO, as a mask of CI, MX, SQ, VX, CO in bits 0 to 4 (R368). -/
def fifoQueues (f : Nat) : BitVec 5 :=
  match f % 5 with
  | 0 => 0b00011 | 1 => 0b00110 | 2 => 0b01100 | 3 => 0b11000 | _ => 0b10001

/-- tokset (R371) waits until no entry of an adjacent queue runs. -/
def toksetBlocked (s : State) (k : CtxId) (a : Reg5) (f : BitVec 4) : Bool :=
  let c := s.ctx k
  c.csr.sact && decide (f.toNat < 10) && !c.regPoison a && decide ((c.reg a).toNat ≤ 8) && c.maskRuns (fifoQueues f.toNat)

def execTokset (a : Reg5) (f : BitVec 4) (s : State) : Out :=
  if toksetBlocked s s.cur a f then .next s
  else finish s (do
    inSMode s (.tokset a f)
    if 10 ≤ f.toNat then illegal s (.tokset a f) else do
      let v ← src s a
      operandOk s (decide (v.toNat ≤ 8))
      .ok (s.modCtx s.cur (fun c => (c.setTok (Fin.ofNat 10 f.toNat) v.toNat).advance 0)))

/-- The parked records of a queue that have started are marked DROP. -/
def Ctx.markDrop (c : Ctx) (q : EngineQ) : Ctx :=
  c.setEntries q ((c.queue q).entries.map (fun e => if e.parked && e.started then { e with drop := true } else e))

/-- parkdrop (R370): `o` names CO, `i` names CI. -/
def execParkdrop (o i : BitVec 1) (s : State) : Out :=
  finish s (do
    inSMode s (.parkdrop o i)
    if o = 0 ∧ i = 0 then illegal s (.parkdrop o i) else
      .ok (s.modCtx s.cur (fun c =>
        let c1 := if i = 1 then c.markDrop .ci else c
        (if o = 1 then c1.markDrop .co else c1).advance 0)))

/-! ## wfi, ochinv, poisclr, snaptrig (R368) -/

/-- wfi: NOTE is not cleared. -/
def execWfi (s : State) : Out :=
  finish s (do
    inSMode s .wfi
    .ok (s.modCtx s.cur (fun c => if c.csr.note then c.goOn else { c with run := .waiting .wfi })))

/-- Event WFI_WAKE (R368). -/
def execEvWfiWake (s : State) : Out :=
  let k := s.arg.ctx
  match (s.ctx k).run with
  | .waiting .wfi => if (s.ctx k).csr.note then .next (s.modCtx k (·.goOn)) else .next s
  | _ => .next s

/-- ochinv waits until every use count of the context's slots is 0. -/
def ochinvBlocked (s : State) (k : CtxId) : Bool :=
  (s.ctx k).csr.sact && (List.finRange 16).any (fun n => decide (0 < (s.ctx k).usesAll n 0 + (s.ctx k).usesAll n 1))

/-- ochinv: every slot is unloaded in state and view. -/
def execOchinv (s : State) : Out :=
  if ochinvBlocked s s.cur then .next s
  else finish s (do
    inSMode s .ochinv
    .ok (s.modCtx s.cur (fun c =>
      { c with oslots := Vector.replicate 16 (OSlot.cleared (opidOf s.cur c)), oview := Vector.replicate 16 OView.empty }.advance 0)))

/-- poisclr: the value is unchanged. -/
def execPoisclr (d : Reg5) (s : State) : Out :=
  finish s (do
    inSMode s (.poisclr d)
    if d = 0 then illegal s (.poisclr d) else
      .ok (s.modCtx s.cur (fun c => (c.setReg d (c.reg d)).advance 0)))

/-- snaptrig (R457). -/
def execSnaptrig (s : State) : Out :=
  finish s (do
    inSMode s .snaptrig
    .ok ((snapTrigger s).modCtx s.cur (·.advance 0)))

end Sys2Proof.Machine
end

