-- ==== Sys2Proof/Machine/Scoreboard.lean ====
section
/-!
DEFINITION. The scalar registers an instruction names, as source or destination (R86, R157, R175): an instruction that names the result
of a load still to be performed waits for it, and so does an access behind an acquire from a host window (R120).
-/
namespace Sys2Proof.Machine

/-- Register c + 1 of a `.bar` form (R157). -/
def barName (c : Reg5) (r : BitVec 1) : List Reg5 := if r = 1 then [c + 1] else []

/-- The scalar registers an instruction names; one without any is left to the last arm, a pair's second instruction names its own. -/
def scalarsOf (i : Instr) : List Reg5 :=
  match i with
  | .add d a b => [d, a, b]
  | .sub d a b => [d, a, b]
  | .and d a b => [d, a, b]
  | .or d a b => [d, a, b]
  | .xor d a b => [d, a, b]
  | .andn d a b => [d, a, b]
  | .sll d a b => [d, a, b]
  | .srl d a b => [d, a, b]
  | .sra d a b => [d, a, b]
  | .addw d a b => [d, a, b]
  | .subw d a b => [d, a, b]
  | .min d a b => [d, a, b]
  | .max d a b => [d, a, b]
  | .minu d a b => [d, a, b]
  | .maxu d a b => [d, a, b]
  | .clz d a => [d, a]
  | .ctz d a => [d, a]
  | .popc d a => [d, a]
  | .addi d a _ => [d, a]
  | .andi d a _ => [d, a]
  | .ori d a _ => [d, a]
  | .xori d a _ => [d, a]
  | .slli d a _ => [d, a]
  | .srli d a _ => [d, a]
  | .srai d a _ => [d, a]
  | .addiw d a _ => [d, a]
  | .mul d a b => [d, a, b]
  | .mulh d a b => [d, a, b]
  | .mulhu d a b => [d, a, b]
  | .mulhsu d a b => [d, a, b]
  | .div d a b => [d, a, b]
  | .divu d a b => [d, a, b]
  | .rem d a b => [d, a, b]
  | .remu d a b => [d, a, b]
  | .mulw d a b => [d, a, b]
  | .divw d a b => [d, a, b]
  | .remw d a b => [d, a, b]
  | .cmp _ a b _ => [a, b]
  | .cmpi _ a _ _ => [a]
  | .call _ => [1]
  | .jr a => [a]
  | .callr a => [a, 1]
  | .ret => [1]
  | .loopi d _ => [d]
  | .loopb a _ => [a]
  | .ldB d b _ => [d, b]
  | .ldH d b _ => [d, b]
  | .ldW d b _ => [d, b]
  | .ldD d b _ => [d, b]
  | .ldBu d b _ => [d, b]
  | .ldHu d b _ => [d, b]
  | .ldWu d b _ => [d, b]
  | .ldaq d b _ _ => [d, b]
  | .stB d b _ => [d, b]
  | .stH d b _ => [d, b]
  | .stW d b _ => [d, b]
  | .stD d b _ => [d, b]
  | .strl d b _ _ => [d, b]
  | .amoSwap d a _ _ _ _ => [d, a]
  | .amoAdd d a _ _ _ _ => [d, a]
  | .amoAnd d a _ _ _ _ => [d, a]
  | .amoOr d a _ _ _ _ => [d, a]
  | .amoXor d a _ _ _ _ => [d, a]
  | .amoMax d a _ _ _ _ => [d, a]
  | .amoMin d a _ _ _ _ => [d, a]
  | .amoMaxu d a _ _ _ _ => [d, a]
  | .amoMinu d a _ _ _ _ => [d, a]
  | .cas d a b _ _ _ _ => [d, a, b]
  | .fence d _ => [d]
  | .gbarStep d => [d]
  | .abinit a => [a]
  | .abarm a b => [a, b]
  | .abwait a _ => [a]
  | .slwait d a b => [d, a, b]
  | .slpop d a => [d, a]
  | .slfree a => [a]
  | .lea1 d a b => [d, a, b]
  | .lea2 d a b => [d, a, b]
  | .lea4 d a b => [d, a, b]
  | .lea8 d a b => [d, a, b]
  | .ispace d a => [d, a]
  | .cvspaceOff d a => [d, a]
  | .cvspacePrv d a => [d, a]
  | .cvspaceScr d a => [d, a]
  | .cvspaceDsh d a => [d, a]
  | .wbase d _ => [d]
  | .rdcsr d _ => [d]
  | .wrcsr a _ => [a]
  | .rdts d => [d]
  | .shape _ a b => [a, b]
  | .shrdLo d _ => [d]
  | .shrdHi d _ => [d]
  | .gbind a b => [a, b]
  | .gadv a b => [a, b]
  | .gmask a b c => [a, b, c]
  | .gsnap a b => [a, b]
  | .gfork a b c => [a, b, c]
  | .groll a b => [a, b]
  | .gstat a b => [a, b]
  | .qrd d a b => [d, a, b]
  | .qwr d a b => [d, a, b]
  | .qslot d a => [d, a]
  | .qstop d a b => [d, a, b]
  | .qret a b => [a, b]
  | .qfault a b => [a, b]
  | .escal a => [a]
  | .tlbinvVa a _ => [a]
  | .tokset a _ => [a]
  | .poisclr d => [d]
  | .cin _ a b c r => [a, b, c] ++ barName c r
  | .cnestL _ a b c _ => [a, b, c]
  | .cnestGo _ a b c r => [a, b, c] ++ barName c r
  | .cgath _ a b c r => [a, b, c] ++ barName c r
  | .cpack _ _ b c r => [b, c] ++ barName c r
  | .cunpk _ _ b c r => [b, c] ++ barName c r
  | .cmcast _ a b c r => [a, b, c, a + 1] ++ barName c r
  | .cfill _ a b c r => [a, b, c] ++ barName c r
  | .cout _ a b c r => [a, b, c] ++ barName c r
  | .credAddf _ a b c r => [a, b, c] ++ barName c r
  | .credAddbf _ a b c r => [a, b, c] ++ barName c r
  | .credAddi _ a b c r => [a, b, c] ++ barName c r
  | .credMaxf _ a b c r => [a, b, c] ++ barName c r
  | .credMinf _ a b c r => [a, b, c] ++ barName c r
  | .cstrm _ a b c => [a, b, c]
  | .cnestoL _ a b c _ => [a, b, c]
  | .cnestoGo _ a b c r => [a, b, c] ++ barName c r
  | .mcfg _ a => [a]
  | .mwld _ _ b => [b]
  | .msclA _ a b => [a, b]
  | .msclW _ a => [a]
  | .mma _ _ _ c _ => [c]
  | .scfg _ a => [a]
  | .sdecay _ _ _ c => [c]
  | .ssnap _ _ _ c => [c]
  | .sfork _ _ _ c => [c]
  | .sroll _ _ _ c => [c]
  | .vld _ _ _ b _ => [b]
  | .vst _ _ _ b _ _ _ => [b]
  | .vrotr _ _ _ b _ => [b]
  | .vbcr _ _ _ b _ => [b]
  | .vrotc _ _ _ b _ => [b]
  | .vbcc _ _ _ b _ => [b]
  | .vxchC _ _ _ b _ => [b]
  | .vxchR _ _ _ b _ => [b]
  | .vslice _ _ _ b _ => [b]
  | .vins _ _ _ b _ => [b]
  | .vext _ _ _ b _ => [b]
  | .vrms _ _ _ b => [b]
  | .vbkt _ _ _ b _ => [b]
  | .vmsk _ _ _ b _ => [b]
  | .vrand _ _ a b _ => [a, b]
  | .oload _ _ a b => [a, b]
  | _ => []

/-- The FE itself reads or writes memory, or an object in it (R120). -/
def makesAccess (i : Instr) : Bool :=
  match i with
  | .ldB _ _ _ | .ldH _ _ _ | .ldW _ _ _ | .ldD _ _ _ | .ldBu _ _ _ | .ldHu _ _ _ | .ldWu _ _ _ | .ldaq _ _ _ _
  | .stB _ _ _ | .stH _ _ _ | .stW _ _ _ | .stD _ _ _ | .strl _ _ _ _
  | .amoSwap _ _ _ _ _ _ | .amoAdd _ _ _ _ _ _ | .amoAnd _ _ _ _ _ _ | .amoOr _ _ _ _ _ _ | .amoXor _ _ _ _ _ _
  | .amoMax _ _ _ _ _ _ | .amoMin _ _ _ _ _ _ | .amoMaxu _ _ _ _ _ _ | .amoMinu _ _ _ _ _ _ | .cas _ _ _ _ _ _ _
  | .abinit _ | .abarm _ _ | .abwait _ _ | .slwait _ _ _ | .slpop _ _ | .slfree _ => true
  | _ => false

/-- An instruction waits: a result it names is not there yet (R175), or it makes an access behind an acquire from a host window that is
still to complete (R120). -/
def Ctx.scalarsAwaited (c : Ctx) (i : Instr) : Bool :=
  c.hostLoads.any (fun l => (l.acq && makesAccess i) || (l.d != 0 && (scalarsOf i).contains l.d))
    || c.lateLoads.any (fun l => l.d != 0 && (scalarsOf i).contains l.d)

end Sys2Proof.Machine
end

