-- ==== Sys2Proof/Machine/Arbiter.lean ====
section
/-!
DEFINITION. Readiness, the hold of the deadline class, and the issue arbiter (R26, R38, R39, R41, R42); the next instruction of a
context, fetched and decoded (R159, R182).
-/
namespace Sys2Proof.Machine

/-- What a context's FE meets at its pc. The state carries the fetch's translation fills. -/
inductive Fetched where
  /-- The fetch traps (R182). -/
  | trap (t : Trap) (s : State)
  /-- A word that decodes to nothing (R159). -/
  | bad (w : IWord) (s : State)
  | instr (i : Instr) (s : State)

/-- The next instruction of a context. -/
def fetchNext (s : State) (k : CtxId) : Fetched :=
  match fetchWord s k (s.ctx k).pc with
  | .error (t, s1) => .trap t s1
  | .ok (s1, w) =>
    match decode w with
    | .ok i => .instr i s1
    | .error _ => .bad w s1

/-- The queue a word goes to (R151). -/
def wordQueue (w : IWord) : Option EngineQ := queueOfMaj (fldN w 22 6)

/-- The instruction waits at the FE without an issue slot (R26, R49, R120, R315, R368 to R371). -/
def instrBlocked (s : State) (k : CtxId) (i : Instr) : Bool :=
  match i with
  | .gbarStep _ => gbarStepBlocked s k
  | .yieldExit => yieldExitBlocked s k
  | .gbind _ _ | .gadv _ _ | .gmask _ _ _ | .gsnap _ _ | .gfork _ _ _ | .groll _ _ => gopsFull s k
  | .gstat _ b => gstatBlocked s k b
  | .gbar | .slfree _ => (s.ctx k).abroad
  | .strl _ _ c _ => scopeLegal c && (s.ctx k).abroad
  | .amoSwap _ _ _ _ l c | .amoAdd _ _ _ _ l c | .amoAnd _ _ _ _ l c | .amoOr _ _ _ _ l c | .amoXor _ _ _ _ l c
  | .amoMax _ _ _ _ l c | .amoMin _ _ _ _ l c | .amoMaxu _ _ _ _ l c | .amoMinu _ _ _ _ l c | .cas _ _ _ _ _ l c =>
    atomicBlocked s k l c
  | .tlbinvVa _ c => tlbinvBlocked s k c
  | .tlbinvTen c => tlbinvBlocked s k c
  | .tlbinvAll => tlbinvAllBlocked s k
  | .qdrop b => qdropBlocked s k b
  | .tokset a f => toksetBlocked s k a f
  | .ochinv => ochinvBlocked s k
  | _ =>
    match wordQueue ((encode i).getD 0) with
    | some q => (s.ctx k).qFull q
    | none => false

/-- An instruction waits for loads that are still to be performed (R120, R175); a LIMM issues with the instruction after it. -/
def awaits (s : State) (k : CtxId) (i : Instr) : Bool :=
  if (s.ctx k).hostLoads.isEmpty && (s.ctx k).lateLoads.isEmpty then false
  else match i with
    | .limm _ =>
      match fetchWord s k ((s.ctx k).pc + 4) with
      | .ok (_, w) => (match decode w with | .ok j => (s.ctx k).scalarsAwaited j | .error _ => (s.ctx k).scalarsAwaited i)
      | .error _ => (s.ctx k).scalarsAwaited i
    | _ => (s.ctx k).scalarsAwaited i

/-- What stands at the pc can issue. -/
def nextIssues (s : State) (k : CtxId) : Bool :=
  match fetchNext s k with
  | .trap _ _ => true
  | .bad w _ => match wordQueue w with | some q => !(s.ctx k).qFull q | none => true
  | .instr i _ => !instrBlocked s k i && !awaits s k i

/-- Issue slots are left in the period (R42, R411). -/
def Ctx.inBudget (c : Ctx) : Bool := c.cbud == 0xFFFFFFFF || c.issueLeft != 0

/-- The FE runs: it waits for nothing and is not held by a reclaim. -/
def Ctx.feRuns (c : Ctx) : Bool :=
  !c.csr.hold && (match c.run with | .running => true | _ => false)

/-- Ready and within budget, the hold of R39 apart. -/
def couldIssue (s : State) (k : CtxId) : Bool := (s.ctx k).feRuns && (s.ctx k).inBudget && nextIssues s k

/-- The contexts of a core. -/
def coreCtxs (c : CoreId) : List CtxId := (List.finRange 4).map (ctxAt c)

/-- Held (R39): a reclaim holds the context, or its core's deadline-class context is ready and within budget. -/
def heldNow (s : State) (k : CtxId) : Bool :=
  (s.ctx k).csr.hold ||
  (coreCtxs (coreOf k)).any (fun j => decide (j ≠ k) && (s.ctx j).csr.dlc && couldIssue s j)

/-- The context is ready (R38). -/
def ready (s : State) (k : CtxId) : Bool := couldIssue s k && !heldNow s k

/-- The one that has waited longest; the lower number wins a tie. -/
def longestWaiting (s : State) : List CtxId → Option CtxId
  | [] => none
  | k :: r =>
    match longestWaiting s r with
    | none => some k
    | some j => if (s.ctx k).lastIssue ≤ (s.ctx j).lastIssue then some k else some j

/-- The arbiter's choice on a core (R38, R39). -/
def arbiterPick (s : State) (c : CoreId) : Option CtxId := longestWaiting s ((coreCtxs c).filter (ready s))

/-- A word that decodes to nothing traps: PRIVILEGED for MAJ 0x3D in U mode, else ILLEGAL_INSTRUCTION with the word (R159, R367). -/
def badWord (w : IWord) (s : State) : Out :=
  let blocked := match wordQueue w with | some q => (s.ctx s.cur).qFull q | none => false
  if blocked then .next s
  else finish s (
    if fldN w 22 6 = 0x3D ∧ !(s.ctx s.cur).csr.sact then trapAt s .privileged (zext64 w)
    else trapAt s .illegalInstruction (zext64 w))

end Sys2Proof.Machine
end

