-- ==== Sys2Proof/Machine/Engine.lean ====
section
/-!
DEFINITION. The engines: ENTRY_START and ENTRY_RETIRE (R26 to R32, R39, R40, R45, R65 to R67), the stream-ring producers' events
(R140), the queue-stall watchdog (R43), the drain's events (R374, R375, R468) and the deliveries (R46, R361, R363), and the
firmware notification (R365).
-/
namespace Sys2Proof.Machine

/-! ## What an entry does when it runs -/

/-- The effect of an entry other than a copy, from what it reads at its start. `draw` numbers its free values. -/
def runOp (k : CtxId) (draw : Nat) (m : EMem) (c : Ctx) (e : Entry) : Ran :=
  match e.op with
  | .relay => ranOk m c 0
  | .copy _ => ranOk m c 0
  | .mcfg v => ranOk m { c with mxcfg := v } 0
  | .mwld a tr tc => runMwld m c a tr tc
  | .mwswap => ranOk m { c with activePlane := 1 - c.activePlane } 0
  | .mscl o n => runMscl m c o.toNat n
  | .mma mode a b n => runMma m c mode a b n
  | .mzero a => runMzero m c a
  | .mdrain mode sat epi a b => runMdrain k draw m c mode sat epi a b
  | .scfg v => ranOk m { c with sqcfg := v } 0
  | .sdecay a b al => runSdecay m c a b al
  | .schunk a b o => runSchunk m c a b o
  | .sstep a b o => runSstep m c a b o
  | .sout a b o => runSout m c a b o
  | .ssnap a b j => runSsnap m c a b j
  | .sfork a b j => runSfork m c a b j
  | .sroll a b j => runSroll m c a b j
  | .scommit a => runScommit m c a
  | .spair f a b => runSpair m c f a b
  | .vld d a row col mk => runVld m c d a row col mk
  | .vst d a row col mk sat mode => runVst m c d a row col mk sat mode
  | .lane op d a b mk => runLane m c op d a b mk
  | .vcmp op d a b mk => runVcmp m c op d a b mk
  | .vsel d a b mk => runVsel m c d a b mk
  | .mask op d a b mk => runMask m c op d a b mk
  | .move op d a mk => runMove m c op d a mk
  | .redr op d a mk => runRedr m c op d a mk
  | .redc op d a mk => runRedc m c op d a mk
  | .vslice d a a1 i => runVslice m c d a a1 i
  | .vins d a i => runVins m c d a i
  | .vext d a i => runVext m c d a i
  | .vsf f d a mk => runUnary m c (vsf f) d a mk
  | .vrcp d a mk => runUnary m c vrcp32 d a mk
  | .vrsq d a mk => runUnary m c vrsq32 d a mk
  | .vrmsPart d a => runVrmsPart m c d a
  | .vrms d a n eps => runVrms m c d a n eps
  | .vcvt kind sat mode d a mk => runUnary m c (vcvtFn kind sat (rmode mode)) d a mk
  | .vqmx q d d1 a => runVqmx m c q d d1 a
  | .vbkt a t lgb ibase mk => runVbkt m c a t lgb ibase mk
  | .vmsk d a o mk => runVmsk m c d a o.toNat mk
  | .vrand d key b mk => runVrand m c d key b mk
  | .vpark pos a => runVpark m c pos a
  | .vunpark d pos => runVunpark m c d pos
  | .ox n t nin nout d d1 a b a1 b1 mk => runOx k draw m c n t nin nout d d1 a b a1 b1 mk
  | .oload n t o lat nin nout => runOload k m c n t o.toNat lat nin nout
  | .ounld n => runOunld k m c n
  | .ostat d => runOstat m c d

/-- The entry is a copy with bytes to move. -/
def Entry.isCopy (e : Entry) : Bool := match e.op with | .copy op => decide (op.total ≠ 0) | _ => false

/-! ## Starting (R27, R30, R39, R40) -/

/-- Tokens the entry waits for are there. -/
def Ctx.tokensThere (c : Ctx) (q : EngineQ) (e : Entry) : Bool :=
  (!depWP e.dep || decide (0 < c.tok (fifoWP q))) && (!depWN e.dep || decide (0 < c.tok (fifoWN q)))

/-- One token is popped from a FIFO. -/
def Ctx.popTok (c : Ctx) (b : Bool) (f : Fin 10) : Ctx := if b then c.setTok f (c.tok f - 1) else c

/-- The oload the entry waits for has run (R326). -/
def Ctx.oloadDone (c : Ctx) (e : Entry) : Bool :=
  match e.waitVx with
  | none => true
  | some n => !(c.queue .vx).entries.any (fun x => x.seq == n && !x.done)

/-- The engines of the context work: a task is placed and its drain has not ended. -/
def Ctx.enginesRun (c : Ctx) : Bool :=
  match c.run with
  | .restored | .running | .waiting _ | .draining _ | .finished => true
  | _ => false

/-- A spent byte budget keeps a copy that draws on it anywhere from starting (R413). -/
def startStopped (s : State) (k : CtxId) (e : Entry) : Bool :=
  let p := (s.ctx k).csr.partn
  if !budgetStops s p 1 1 then false
  else match e.op with
    | .copy op =>
      let g := gatherWords s k op (liveCores op e) none (List.range (op.total / 4))
      budgetStops s p g.dm g.lk
    | _ => false

/-- An entry under way: started, its effects neither complete nor parked. -/
def Ctx.underWay (c : Ctx) (q : EngineQ) (f : EngineOp → Bool) : Bool :=
  match c.head q with | some e => e.runs && f e.op | none => false

/-- The matrix array that an mma and an schunk share keeps an entry from starting (R267): an schunk while an mma of the core streams, any
MX entry while an schunk of the core runs. -/
def arrayTaken (s : State) (k : CtxId) (q : EngineQ) (e : Entry) : Bool :=
  match q, e.op with
  | .sq, .schunk _ _ _ => (coreCtxs (coreOf k)).any (fun j => (s.ctx j).underWay .mx (fun o => match o with | .mma _ _ _ _ => true | _ => false))
  | .mx, _ => (coreCtxs (coreOf k)).any (fun j => (s.ctx j).underWay .sq (fun o => match o with | .schunk _ _ _ => true | _ => false))
  | _, _ => false

/-- The head of a queue that can start. -/
def startable (s : State) (k : CtxId) (q : EngineQ) : Option Entry :=
  let c := s.ctx k
  match c.head q with
  | none => none
  | some e =>
    if c.enginesRun && !e.started && !e.parked && c.tokensThere q e && c.oloadDone e && c.planeFree e
        && !heldNow s k && !startStopped s k e && !arrayTaken s k q e then some e else none

/-! ## The engines of a core, shared by its contexts (R13, R40) -/

/-- A started copy that was parked, or a head that can start, asks for its engine; a cstrm asks as it claims its slot. One that a spent
budget stops is passed over. -/
def wantsEngine (s : State) (k : CtxId) (q : EngineQ) : Bool :=
  (startable s k q).isSome ||
  (match (s.ctx k).running q with
   | some (e, op) => (s.ctx k).enginesRun && !e.onEngine && !(op.kind == .cstrm && e.claim.isNone) && !heldNow s k && !copyPaused s k q
   | none => false)

/-- A head of the core occupies its engine. -/
def engineBusy (s : State) (c : CoreId) (q : EngineQ) : Bool :=
  (coreCtxs c).any (fun j => match (s.ctx j).head q with | some e => e.onEngine | none => false)

/-- The one whose head has waited longest; the lower number wins a tie. -/
def oldestHead (s : State) (q : EngineQ) : List CtxId → Option CtxId
  | [] => none
  | k :: r =>
    match oldestHead s q r with
    | none => some k
    | some j => if (s.ctx k).headSince[q.idx.val] ≤ (s.ctx j).headSince[q.idx.val] then some k else some j

/-- The context whose head a free engine takes next (R40): a deadline-class one first. -/
def enginePick (s : State) (c : CoreId) (q : EngineQ) : Option CtxId :=
  if engineBusy s c q then none
  else
    let asking := (coreCtxs c).filter (fun k => wantsEngine s k q)
    (oldestHead s q (asking.filter (fun k => (s.ctx k).csr.dlc))).or (oldestHead s q asking)

/-- The aligned units of `n` bytes in which two memories differ. -/
def changedUnits (n : Nat) (old new : Mem) : List Nat :=
  ((old.cells.map (·.1) ++ new.cells.map (·.1) ++ old.poison ++ new.poison).filter (fun a => old.get a ≠ new.get a)).foldl
    (fun l a => addrSet l (a / n * n) true) []

/-- Bytes of the elements an operation writes to the scratchpad: 4, but for the narrower destinations of mdrain, spair and vst. -/
def EngineOp.unitBytes (o : EngineOp) : Nat :=
  match o with
  | .mdrain _ _ _ a _ | .spair _ a _ | .vst _ a _ _ _ _ _ =>
    let b := fmtBits (shapeFields a).fmt
    if b ≤ 8 then 1 else if b = 16 then 2 else 4
  | _ => 4

/-- What an entry has to write: each element of its result that differs from what stands there (R238, R271). -/
def engineWrites (o : EngineOp) (old new : EMem) : List EngineWrite :=
  let n := o.unitBytes
  (changedUnits n old.pool new.pool).map (fun a => { acc := false, addr := a, bytes := new.pool.read a n })
    ++ (changedUnits 4 old.acc new.acc).map (fun a => { acc := true, addr := a, bytes := new.acc.read a 4 })

/-- The queue whose tokens WP takes, and the one whose tokens WN takes (R28). -/
def EngineQ.prev (q : EngineQ) : EngineQ := match q with | .ci => .co | .mx => .ci | .sq => .mx | .vx => .sq | .co => .vx
def EngineQ.succ (q : EngineQ) : EngineQ := match q with | .ci => .mx | .mx => .sq | .sq => .vx | .vx => .co | .co => .ci

/-- An entry observes what the queues whose tokens it takes have done (R30). -/
def tokensLearnt (s : State) (k : CtxId) (q : EngineQ) (e : Entry) : State :=
  let src := (if depWP e.dep then [s.latest (.eng k q.prev)] else []) ++ (if depWN e.dep then [s.latest (.eng k q.succ)] else [])
  if src.isEmpty then s else learnAt s { who := .eng k q, since := e.ord } src

/-- The entry pops its tokens and starts. One that is no copy reads all it reads now and performs its whole effect; with `apart` its
elements are written one by one, in any order (R238). -/
def startEntry (s0 : State) (k : CtxId) (q : EngineQ) (e : Entry) (apart : Bool) : State :=
  let s := tokensLearnt s0 k q e
  let c := ((s.ctx k).popTok (depWP e.dep) (fifoWP q)).popTok (depWN e.dep) (fifoWN q)
  if e.isCopy then
    s.setCtx k (c.setHead q { e with started := true, onEngine := match e.op with | .copy op => op.kind != .cstrm | _ => true })
  else
    let m := s.emem k
    let r := runOp k s.fresh m c e
    let rep := r.report.map (fun x => ({ code := x.1, value := x.2, queue := q.code, seq := e.seq } : Trap))
    let todo := if apart then engineWrites e.op m r.mem else []
    let e1 := { e with started := true, done := todo.isEmpty, onEngine := !todo.isEmpty, todo := todo, flags := r.flags, report := rep }
    { ((if todo.isEmpty then s.putEmem k r.mem else s).setCtx k (r.ctx.setHead q e1)) with fresh := s.fresh + 1 }

/-- Event ENTRY_START (R30, R40): the flag leaves the entry's writes to turns of their own. -/
def execEvEntryStart (s : State) : Out :=
  let k := s.arg.ctx
  let q := s.arg.q
  match startable s k q with
  | some e => .next (if enginePick s (coreOf k) q = some k then startEntry s k q e s.arg.flag else s)
  | none => .next s

/-- Turn ENGINE WRITE: one element of the head's result is written; with the last one its effects are complete (R238). -/
def engineWrite (s : State) (k : CtxId) (q : EngineQ) (i : Nat) : State :=
  match (s.ctx k).head q with
  | none => s
  | some e =>
    match e.todo[i]? with
    | none => s
    | some w =>
      let rest := e.todo.eraseIdx i
      let sp : Space := if w.acc then .acc (coreOf k) else .pool (coreOf k)
      (s.write sp w.addr w.bytes).setHead k q { e with todo := rest, done := rest.isEmpty, onEngine := !rest.isEmpty }

/-- Event COPY_GRANULE (R209): the running copy of CI or CO moves its next granule; one that was parked takes its engine first. -/
def execEvCopyGranule (s : State) : Out :=
  let k := s.arg.ctx
  let q := s.arg.q
  match (s.ctx k).running q with
  | none => .next s
  | some (e, _) =>
    if e.onEngine then .next (copyGranule s k q)
    else if enginePick s (coreOf k) q = some k then .next (copyGranule (s.setHead k q { e with onEngine := true }) k q)
    else .next s

/-! ## Retirement (R31, R45, R65 to R67, R129) -/

/-- A pending push is made when its FIFO has room: the context, and whether it is still pending. -/
def Ctx.pushTok (c : Ctx) (b : Bool) (f : Fin 10) : Ctx × Bool :=
  if !b then (c, false) else if c.tok f < 8 then (c.setTok f (c.tok f + 1), false) else (c, true)

/-- The pushes of the entry that can be made are made. -/
def Ctx.makePushes (c : Ctx) (q : EngineQ) (e : Entry) : Ctx × Entry :=
  let (c1, p) := c.pushTok e.pushP (fifoSP q)
  let (c2, n) := c1.pushTok e.pushN (fifoSN q)
  (c2, { e with pushP := p, pushN := n })

/-- A failed copy is kept for the fence that covers it: not one that waits already (R127, R129). -/
def Ctx.failLater (c : Ctx) (b : BitVec 4) : Ctx :=
  match c.run with
  | .waiting (.fence _ _) => if b = 0 then c else { c with lateFails := c.lateFails.add b }
  | _ => c.fail b

/-- The head entry leaves its queue: flags, failures, the watchdog; the next head begins to wait. -/
def Ctx.retire (c : Ctx) (q : EngineQ) (e : Entry) (now : Nat) : Ctx :=
  ({ ((c.setEntries q (c.queue q).entries.tail).headNew q now) with watchdog := 0, stallRaised := false, drainIdle := 0 }.orFlags
    e.flags).failLater e.fail

/-- The arithmetic trap of an entry's enabled flags (R67). -/
def Entry.arith (e : Entry) (q : EngineQ) : Option Trap :=
  (arithTrap e.flags e.nctl).map (fun c => { code := c, value := 0, queue := q.code, seq := e.seq })

/-- A report that is still to be taken gives way to one of an earlier queue. -/
def Ctx.reportInstead (c : Ctx) (u t : Trap) : Ctx :=
  let give := fun (x : Trap) => if x = u then t else x
  { c with heldReports := c.heldReports.map give, heldEscs := c.heldEscs.map give
           run := match c.run with | .draining (.trap x) => .draining (.trap (give x)) | r => r }

/-- An arithmetic trap is raised; `same` says that the entry retired in one cycle with the context's last one that had such a trap. Of
several queues' entries the first in queue order raises its trap, the others none (R67). -/
def raiseArith (s : State) (k : CtxId) (t : Trap) (same : Bool) : State :=
  let mark := fun (s : State) => s.modCtx k (fun c => { c with lastArith := some (s.clock, t) })
  let fresh := mark (report s k t)
  if !same then fresh
  else match (s.ctx k).lastArith with
    | none => fresh
    | some (at_, u) =>
      if at_ ≠ s.clock ∨ u.queue = t.queue then fresh
      else if t.queue < u.queue then mark (s.modCtx k (·.reportInstead u t))
      else s

/-- What an entry reports at its retirement (R45, R67). -/
def reportEntry (s : State) (k : CtxId) (q : EngineQ) (e : Entry) (same : Bool) : State :=
  match e.report with
  | some t => report s k t
  | none => match e.arith q with | some t => raiseArith s k t same | none => s

/-- Event ENTRY_RETIRE (R31): a complete head makes its pushes as FIFOs have room, and retires once all are made. The flag says that it
does so in one cycle with the context's last entry that reported an arithmetic trap (R67). -/
def execEvEntryRetire (s : State) : Out :=
  let k := s.arg.ctx
  let q := s.arg.q
  let c := s.ctx k
  match c.head q with
  | none => .next s
  | some e =>
    if !(c.enginesRun && e.done && !e.parked) then .next s
    else
      let (c1, e1) := c.makePushes q e
      if e1.pushP || e1.pushN then .next (s.setCtx k (c1.setHead q e1))
      else
        .next (reportEntry (s.setCtx k (c1.retire q e1 s.clock)) k q e1 s.arg.flag)

/-! ## Stream-ring producers (R140) -/

/-- Event STREAM_SLOT_CLAIM: a cstrm claims a slot. The steering unit claims as its frame arrives (R453). -/
def execEvStreamSlotClaim (s : State) : Out :=
  match s.arg.producer with
  | .stream k => .next (if (s.ctx k).enginesRun && !engineBusy s (coreOf k) .co then claimStream s k else s)
  | .steering _ _ => .next s

/-- The oldest unpublished delivery of the steering unit into a ring, published once earlier claims are. -/
def publishSteering (s : State) (k : CtxId) (ring : Nat) : State :=
  match s.steerClaims.find? (fun c => c.ctx == k && c.ring == ring) with
  | none => s
  | some c =>
    if ringFilled s (coreOf k) ring ≠ c.claim then s
    else { advanceRing s (coreOf k) ring ringFILLED (c.claim + 1) (s.latest .unit) with steerClaims := s.steerClaims.erase c }

/-- Event STREAM_SLOT_PUBLISH (R140). -/
def execEvStreamSlotPublish (s : State) : Out :=
  match s.arg.producer with
  | .stream k => .next (if (s.ctx k).enginesRun then publishStream s k else s)
  | .steering k ring => .next (publishSteering s k ring)

/-! ## The watchdog (R43) and the drain (R374, R375) -/

/-- The watchdog has reached QWDOG. -/
def Ctx.stalled (c : Ctx) : Bool := decide (c.csr.qwdog.toNat ≤ c.watchdog)

/-- The drain has gone on for QWDOG's cycles without a retirement (R375). -/
def Ctx.drainStalled (c : Ctx) : Bool := decide (c.csr.qwdog.toNat ≤ c.drainIdle)

/-- Event QUEUE_STALL (R43): raised once as the counter reaches the limit; before its release a context holds it as a report. -/
def execEvQueueStall (s : State) : Out :=
  let k := s.arg.ctx
  let c := s.ctx k
  if !c.stalled || c.stallRaised then .next s
  else
    let s1 := s.setCtx k { c with stallRaised := true }
    match c.run with
    | .running | .waiting _ => .next (raiseLater s1 k (feTrap .queueStall 0))
    | .restored => .next (s1.modCtx k (·.keepReport (feTrap .queueStall 0)))
    | _ => .next s

/-- Event DRAIN_AND_PARK (R374): the drain has ended. While the context is held its drain waits. -/
def execEvDrainAndPark (s : State) : Out :=
  let k := s.arg.ctx
  match (s.ctx k).run with
  | .draining w => if (s.ctx k).drainedOut && !heldNow s k then .next (endDrain s k w) else .next s
  | _ => .next s

/-- The MX, SQ and VX entries still queued are discarded (R375). -/
def discardEngines (s : State) (k : CtxId) : State := s.modCtx k (·.discard 0b01110)

/-- The code of the trap that began a drain, the value of the QUEUE_STALL that takes its place. -/
def stallFor (t : Trap) : Trap := feTrap .queueStall (zext64 t.code.code)

/-- The head of a copy queue has nothing left to move and is still to complete (R229). -/
def Ctx.copyEnds (c : Ctx) (q : EngineQ) : Bool :=
  match c.running q with
  | some (e, op) => e.over op.total
  | none => false

/-- A started MX, SQ or VX entry has still to write: it runs to completion, and as with qdrop nothing is discarded before (R240, R271,
R370). -/
def Ctx.stillWrites (c : Ctx) : Bool := [EngineQ.mx, .sq, .vx].any (fun q => c.underWay q (fun _ => true))

/-- Event DRAIN_ABANDON (R375): under a trap QUEUE_STALL goes to S in its place; under a pre-emption the context escalates, a held
report is discarded (R468), and firmware can only end the task. -/
def execEvDrainAbandon (s : State) : Out :=
  let k := s.arg.ctx
  let c := s.ctx k
  if !c.drainStalled || heldNow s k || c.copyEnds .ci || c.copyEnds .co || c.stillWrites then .next s
  else
    let s1 := (discardEngines s k).modCtx k (fun c => { c with stallRaised := true })
    match c.run with
    | .draining (.trap t) => .next (endDrain s1 k (.trap (stallFor t)))
    | .draining (.escal v) => .next (endDrain s1 k (.escal v))
    | .draining .preempt =>
      let s2 := endDrain (s1.modCtx k (fun c => { c with heldReports := [], heldEscs := [], doomed := true })) k .preempt
      .next (escalate s2 k (.trap (feTrap .queueStall 0)))
    | _ => .next s

/-! ## Deliveries -/

/-- Event USER_TRAP_DELIVERY (R46). -/
def execEvUserTrapDelivery (s : State) : Out :=
  let k := s.arg.ctx
  match (s.ctx k).run with
  | .drained (.trap t) =>
    if !(s.ctx k).escalates t && (s.ctx k).toUser t then .next (s.modCtx k (·.deliverUser t)) else .next s
  | _ => .next s

/-- Event SUPERVISOR_TRAP_DELIVERY (R361). -/
def execEvSupervisorTrapDelivery (s : State) : Out :=
  let k := s.arg.ctx
  match (s.ctx k).run with
  | .drained (.trap t) =>
    if !(s.ctx k).escalates t && !(s.ctx k).toUser t then .next (s.modCtx k (·.deliverSuper t)) else .next s
  | _ => .next s

/-- Event ESCALATION (R363). -/
def execEvEscalation (s : State) : Out :=
  let k := s.arg.ctx
  match (s.ctx k).run with
  | .drained (.trap t) => if (s.ctx k).escalates t then .next (escalate s k (.trap t)) else .next s
  | .drained (.escal v) => .next (escalate s k (.escal v))
  | _ => .next s

/-- Event FIRMWARE_NOTIFICATION (R365): NOTE is set. -/
def execEvFirmwareNotification (s : State) : Out :=
  let k := s.arg.ctx
  .next (if (s.ctx k).placed then s.modCtx k (fun c => { c with csr := { c.csr with note := true } }) else s)

end Sys2Proof.Machine
end

