-- ==== Sys2Proof/Machine/Image.lean ====
section
/-!
DEFINITION. The save image (R377 to R383): writing a context's image, reading and checking one, and restoring a context from it.
Offsets are those of R377 to R379; the areas of a written image follow the state block in the order of R377.
-/
namespace Sys2Proof.Machine

/-! ## Device memory through a partition's translations, for firmware and units -/

/-- The device-memory place a unit of a die reaches at a virtual address: none when the access faults or leaves device memory. -/
def unitPlace (s : State) (d : DieId) (p : Fin 16) (acc : Access) (va : Word) : Option Nat :=
  if !canonical va || windowCode va ≠ 0 then none
  else match translate s d none p false acc (fldN va 0 48) with
    | .ok (_, .dmem, a) => some a
    | _ => none

/-- Bytes a unit writes, from a virtual address on: none when one of them cannot be written. -/
def unitWrite (s : State) (d : DieId) (p : Fin 16) (va : Word) : List PByte → Option State
  | [] => some s
  | b :: r =>
    match unitPlace s d p accDevWrite va with
    | none => none
    | some a => unitWrite (s.write .dmem a [b]) d p (va + 1) r

/-- A unit's write that is lost when it cannot be made; its walks fill the die's structures (R424). -/
def unitStore (s : State) (d : DieId) (p : Fin 16) (va : Word) (l : List PByte) : State :=
  let t := touchRange s d p accDevWrite va l.length
  (unitWrite t d p va l).getD t

/-- A record that a unit writes with a release at SYS scope (R392, R395, R396). -/
def unitRecord (s : State) (d : DieId) (p : Fin 16) (va : Word) (l : List PByte) : State :=
  let s1 := unitStore (learn s .outside [s.latest .unit]) d p va l
  match unitPlace s1 d p accDevWrite va with
  | some a => unitRelease s1 .dmem a l.length
  | none => s1

/-- A unit's acquire at SYS scope of `n` bytes of device memory (R392). -/
def unitAcquire (s : State) (d : DieId) (p : Fin 16) (va : Word) (n : Nat) : State :=
  match unitPlace s d p accDevRead va with
  | some a => hearAt s .unit 3 (s.relsAt .dmem a n)
  | none => s

/-- A clean little-endian field a unit reads. -/
def unitField (s : State) (d : DieId) (p : Fin 16) (va : Word) (off n : Nat) : Option Nat :=
  (cleanBytes s d p (va + BitVec.ofNat 64 off) n).map bytesNat

/-! ## Places of the state block (R377, R378) -/

def imgMagic : Nat := 0x49474245
/-- The first area of a written image. -/
def imgReg : Nat := 0x8000
def imgScr (tiles : Nat) : Nat := imgReg + 4096 * (tiles + 1)
def imgAcc (tiles scr : Nat) : Nat := imgScr tiles + 4096 * scr
def imgOch (tiles scr p : Nat) : Nat := imgAcc tiles scr + 16384 * p
def imgPbm (tiles scr p : Nat) : Nat := imgOch tiles scr p + 65536

/-- A field written into an image, all of it poisoned or all clean. -/
def imgField (m : Mem) (off n v : Nat) (p : Bool) : Mem := m.write off (pbytes p (leBytes n v))
/-- A clean field. -/
def imgPut (m : Mem) (off n v : Nat) : Mem := imgField m off n v false

/-- A signed stride as 8 bytes. -/
def strideNat (v : Int) : Nat := (BitVec.ofInt 64 v).toNat

/-- Levels as 24 bytes each. -/
def imgLevels (m : Mem) (off : Nat) : List Level → Mem
  | [] => m
  | l :: r => imgLevels (imgPut (imgPut (imgPut m off 8 l.n) (off + 8) 8 (strideNat l.ss)) (off + 16) 8 (strideNat l.ds)) (off + 24) r

/-! ## Parked records (R379) -/

/-- fn7 of a reducing copy. -/
def credCode (o : CredOp) : Nat := match o with | .addf => 0 | .addbf => 1 | .addi => 2 | .maxf => 3 | .minf => 4

/-- MAJ and FN7 of a copy. -/
def copyCode (op : CopyOp) : Nat × Nat :=
  let r := if op.bar.isSome then 1 else 0
  let nest := if op.levels.isEmpty then op.mask.toNat else 8 + r
  match op.kind with
  | .cin => (0x10, r) | .nest => (0x11, nest) | .cgath => (0x12, r) | .cpack => (0x13, r) | .cunpk => (0x13, 2 + r)
  | .cmcast => (0x14, r) | .cfill => (0x15, r) | .cout => (0x34, r) | .cred o => (0x35, 2 * credCode o + r)
  | .cstrm => (0x36, 0) | .nesto => (0x37, nest)

/-- The implied register of OPS: the core mask of a multicast, else the barrier pointer. -/
def impliedOp (op : CopyOp) : Nat := if op.kind = .cmcast then op.mask.toNat else (op.bar.getD 0).toNat
/-- What a record of a form without a shape record has to keep beside R379's fields, in the SHAPE field it leaves free: a reducing
copy's flags and NCTL enables, where a gather has begun to write zeros, a cstrm's claim and slot. -/
def recordExtra (e : Entry) (op : CopyOp) : Nat :=
  match op.kind with
  | .cred _ => e.flags.toNat * 2 ^ 92 + e.nctl.toNat * 2 ^ 99
  | .cgath => match e.zeroFrom with | some z => z * 2 ^ 32 + 2 ^ 105 | none => 0
  | .cstrm =>
    (match e.claim with | some n => n.toNat + 2 ^ 104 | none => 0)
      + (match e.slot with | some p => scrOff p / 64 * 2 ^ 107 + 2 ^ 106 | none => 0)
  | _ => 0

/-- SHAPE: the record, the barrier pointer of a multicast, or what another form keeps. -/
def shapeOp (e : Entry) (op : CopyOp) : Nat :=
  match op.kind with
  | .cpack | .cunpk => op.shape.toNat
  | .cmcast => (op.bar.getD 0).toNat
  | _ => recordExtra e op

/-- The nest indices of a resume vector. -/
def resumeIndices (op : CopyOp) (goff : Nat) : List Nat := (nestIndices op.levels (64 * goff)).map (·.1)

/-- Numbers of 4 bytes each. -/
def imgWords (m : Mem) (off : Nat) : List Nat → Mem
  | [] => m
  | x :: r => imgWords (imgPut m off 4 x) (off + 4) r

/-- A parked record of a queue. -/
def imgRecord (m : Mem) (off : Nat) (q : EngineQ) (e : Entry) : Mem :=
  match e.op with
  | .copy op =>
    let bit := fun (b : Bool) (n : Nat) => if b then 2 ^ n else 0
    let m1 := imgPut (imgPut (imgPut m off 1 q.code.toNat) (off + 1) 1 (copyCode op).1) (off + 2) 1 (copyCode op).2
    let m2 := imgPut m1 (off + 3) 1 (bit e.started 0 + bit e.done 1 + bit e.drop 2 + e.held.toNat * 8)
    let m3 := imgPut (imgPut m2 (off + 4) 1 e.dep.toNat) (off + 5) 1 (bit e.pushP 0 + bit e.pushN 1)
    let m4 := imgPut (imgPut (imgPut m3 (off + 6) 2 e.fail.toNat) (off + 8) 4 e.seq.toNat) (off + 12) 4 e.goff
    let m5 := imgWords m4 (off + 16) (resumeIndices op e.goff)
    let m6 := imgPut (imgPut (imgPut m5 (off + 40) 8 op.ra.toNat) (off + 48) 8 op.rb.toNat) (off + 56) 8 op.rc.toNat
    let m7 := imgPut (imgPut m6 (off + 64) 8 (impliedOp op)) (off + 72) 8 e.failMask.toNat
    imgLevels (imgPut m7 (off + 80) 16 (shapeOp e op)) (off + 96) op.levels
  | _ => m

/-- The records of a queue. -/
def imgRecords (m : Mem) (off : Nat) (q : EngineQ) : List Entry → Mem
  | [] => m
  | e :: r => imgRecords (imgRecord m off q e) (off + 256) q r

/-! ## The image of a context -/

/-- The image form of a graph (R320, R321). -/
def graphBytes (pl : OPlane) : List Byte :=
  let node := fun (n : ONode) =>
    leBytes 16 (n.op + n.src0 * 2 ^ 8 + n.src1 * 2 ^ 16 + n.src2 * 2 ^ 24 + n.luti * 2 ^ 32 + n.k0.toNat * 2 ^ 64 + n.k1.toNat * 2 ^ 96)
  let g := pl.graph
  let body := leBytes 1 g.nodes.length ++ leBytes 1 g.luts.length ++ leBytes 1 g.out0 ++ leBytes 1 g.out1 ++ leBytes 12 0
    ++ g.nodes.flatMap node ++ g.luts.flatMap (fun t => t.flatMap (fun x => leBytes 4 x.toNat))
  leBytes 4 0 ++ leBytes 4 body.length ++ leBytes 1 pl.lat ++ leBytes 1 pl.nin ++ leBytes 1 pl.nout ++ leBytes 5 0 ++ body

/-- An Ochre slot: its record at 0x0600 + 16 n, its graph in the Ochre area (R379). -/
def imgSlot (m : Mem) (och n : Nat) (x : OSlot) : Mem :=
  let pl := x.planes[x.cur.val]
  let m1 := imgPut m (0x600 + 16 * n) 8 ((slotStatus x).toNat + pl.stamp.toNat * 2 ^ 32)
  if pl.st = .loaded then m1.write (och + 4096 * n) (pbytes false (graphBytes pl)) else m1

/-- Bytes of a row of a plane, plane-packed: bit `j mod 8` of byte `8 p + j div 8` is bit `p` of element j (R241). -/
def packRow (bits : Nat) (els : List (BitVec 16 × Bool)) : List PByte :=
  (List.range (8 * bits)).map (fun i =>
    let p := i / 8
    let part := (els.drop (8 * (i % 8))).take 8
    { val := BitVec.ofNat 8 ((part.map (fun e => e.1.getLsbD p)).foldr (fun b acc => (if b then 1 else 0) + 2 * acc) 0),
      poison := part.any (·.2) })

/-- A weight plane (R378). -/
def imgPlane (m : Mem) (head elems : Nat) (active : Bool) (w : WPlane) : Mem :=
  let m1 := imgPut m head 8 (w.fmt * 256 + (if active then 2 else 0) + (if w.loaded then 1 else 0))
  let m2 := m1.write (head + 0x40) w.scales.toList
  let b := fmtBits w.fmt
  (List.range 64).foldl (fun m i => m.write (elems + 8 * b * i) (packRow (Nat.min b 16) ((w.elems.toList.drop (64 * i)).take 64))) m2

/-- The held report (R378, R468). -/
def reportBits (t : Option Trap) : Nat × Nat :=
  match t with
  | none => (0, 0)
  | some t => (1 + t.queue.toNat * 2 ^ 8 + t.code.code.toNat * 2 ^ 16 + t.seq.toNat * 2 ^ 32, t.value.toNat)

/-- The report an image holds: the one of its pre-emption (R468). -/
def Ctx.imageReport (c : Ctx) : Option Trap := if c.preHeld then c.heldReports.getLast? else none

/-- What a member keeps beside its image. -/
def Ctx.kept (c : Ctx) : Kept :=
  { fails := { bits := c.fails.bits ||| c.lateFails.bits, count := Nat.min 255 (c.fails.count + c.lateFails.count) }
    reports := if c.preHeld then c.heldReports.dropLast else c.heldReports
    escs := c.heldEscs
    into := ((c.queue .ci).entries ++ (c.queue .co).entries).map (·.into)
    ahead := ((c.queue .ci).entries ++ (c.queue .co).entries).map (·.ahead) }

/-- GEN of a member: one behind for an arrival whose generation was released while a handler ran (R176, R378). -/
def memberGen (c : Ctx) (gen : BitVec 32) : BitVec 32 := if c.arrDone then gen - 1 else gen

/-- The bytes of a tile's lanes. -/
def tileBytes (t : Tile) : List PByte := t.toList.flatMap (fun l => pbytes l.poison (leBytes 4 l.bits.toNat))

/-- The register backing: tiles, masks, shape records (R101). -/
def imgRegs (m : Mem) (c : Ctx) : Mem :=
  let m1 := (List.range c.csr.tiles).foldl (fun m i => m.write (imgReg + 4096 * i) (tileBytes (c.tile i))) m
  let o := imgReg + 4096 * c.csr.tiles
  let m2 := (List.range 8).foldl (fun m i => imgPut m (o + 128 * i) 128 (c.mask i).toNat) m1
  (List.range 16).foldl (fun m i => imgPut m (o + 1024 + 16 * i) 16 (c.shape (BitVec.ofNat 4 i)).toNat) m2

/-- CSRs of a range, 8 bytes each; 0 for unassigned numbers. -/
def imgCsrs (s : State) (k : CtxId) (m : Mem) (off first n : Nat) : Mem :=
  (List.range n).foldl (fun m i => imgPut m (off + 8 * i) 8 ((readCsr s k (first + i)).getD 0).toNat) m

/-- The header (R377). -/
def imgHeader (s : State) (k : CtxId) (m : Mem) : Mem :=
  let c := s.ctx k
  let r := c.csr
  let p := s.pslots k
  let pbm := imgPbm r.tiles r.poolScr p
  [(0, 4, imgMagic), (4, 2, 1), (6, 1, 1), (7, 1, if r.sact then 2 else 0), (8, 2, k.val), (10, 1, r.partn.val),
   (11, 1, r.tiles), (12, 1, r.dslots), (13, 1, p), (14, 1, r.gsize.toNat), (15, 1, r.rank.toNat), (16, 8, c.pc.toNat),
   (24, 8, ((readCsr s k 0x00A).getD 0).toNat), (32, 8, s.tsc.toNat), (40, 8, imgReg), (48, 8, imgScr r.tiles),
   (56, 8, imgAcc r.tiles r.poolScr), (64, 8, imgOch r.tiles r.poolScr p), (72, 8, pbm), (80, 8, pbm + pbm / 32)].foldl
    (fun m (f : Nat × Nat × Nat) => imgPut m f.1 f.2.1 f.2.2) m

/-- The image of a context as a memory from offset 0: all but the poison bitmap (R377 to R379). -/
def imageOf (s : State) (k : CtxId) (gen : BitVec 32) : Mem :=
  let c := s.ctx k
  let m0 := imgHeader s k Mem.empty
  let m1 := (List.finRange 32).foldl (fun m i =>
    let r : Reg5 := BitVec.ofNat 5 i.val
    imgField m (0x100 + 8 * i.val) 8 (c.reg r).toNat (c.regPoison r)) m0
  let m2 := imgPut (imgPut (imgPut m1 0x200 1 (c.p ||| 1).toNat) 0x208 8 c.mxcfg.toNat) 0x210 8 c.sqcfg.toNat
  let m3 := imgWords m2 0x218 (c.queues.toList.map (fun q => q.next.toNat))
  let m4 := (List.range 10).foldl (fun m i => imgPut m (0x22C + i) 1 (c.tok (Fin.ofNat 10 i))) m3
  let m5 := imgPut (imgPut (imgPut m4 0x236 1 c.scaleq.length) 0x237 1 (c.queue .ci).entries.length) 0x238 1 (c.queue .co).entries.length
  let m6 := imgPut m5 0x240 8 ((if c.arr || c.arrDone then 1 else 0) + (if c.arrStep then 2 else 0) + (memberGen c gen).toNat * 2 ^ 32)
  let m7 := imgPut (imgPut m6 0x248 8 (reportBits c.imageReport).1) 0x250 8 (reportBits c.imageReport).2
  let m8 := imgCsrs s k (imgCsrs s k m7 0x300 0 32) 0x400 0x100 16
  let m9 := imgLevels (imgLevels m8 0x480 c.nestCi.toList) 0x510 c.nestCo.toList
  let p := s.pslots k
  let och := imgOch c.csr.tiles c.csr.poolScr p
  let m10 := (List.finRange 16).foldl (fun m i => imgSlot m och i.val (c.oslots[i.val])) m9
  let m11 := imgPlane (imgPlane m10 0x800 0x4000 (c.activePlane == 0) c.planes[0]) 0x900 0x6000 (c.activePlane == 1) c.planes[1]
  let m12 := m11.write 0x1000 c.scaleq.flatten
  let m13 := imgRecords (imgRecords m12 0x2000 .ci (c.queue .ci).entries) 0x3000 .co (c.queue .co).entries
  let m14 := imgRegs m13 c
  let m15 := m14.write (imgScr c.csr.tiles) (s.read (.pool (coreOf k)) c.scrStart c.scrSize)
  m15.write (imgAcc c.csr.tiles c.csr.poolScr) (s.read (.acc (coreOf k)) (s.accBase k) (16384 * p))

/-- Bitmap byte `i`: bit j is set when word 8 i + j of the image is poisoned (R380). -/
def bitmapByte (m : Mem) (i : Nat) : Byte :=
  BitVec.ofNat 8 ((List.range 8).foldr (fun j acc =>
    (if anyPoison (m.read (32 * i + 4 * j) 4) then 1 else 0) + 2 * acc) 0)

/-- All bytes of the image. -/
def imageBytes (s : State) (k : CtxId) (gen : BitVec 32) : List PByte :=
  let c := s.ctx k
  let m := imageOf s k gen
  let pbm := imgPbm c.csr.tiles c.csr.poolScr (s.pslots k)
  (m.read 0 pbm).map (fun b => { b with poison := false })
    ++ (List.range (pbm / 32)).map (fun i => { val := bitmapByte m i, poison := false })

/-- What copies have still to write for a context, or into its core's pool, is performed. -/
def landFor (s : State) (k : CtxId) : State :=
  landPosts s (fun p => p.ctx == k || p.writes.any (fun w => decide (w.1 = .pool (coreOf k))))

/-- The image of a context written to its save area (R403): false when the area cannot be written. The walks fill the die's structures
and report a poisoned entry either way (R422, R424). -/
def saveImage (s0 : State) (k : CtxId) (gen : BitVec 32) : State × Bool :=
  let s := landFor s0 k
  let c := s.ctx k
  let d := dieOf (coreOf k)
  let l := imageBytes s k gen
  let t := touchRange s d c.csr.partn accDevWrite c.csr.ctximg l.length
  match unitWrite t d c.csr.partn c.csr.ctximg l with
  | some u => (u, true)
  | none => (t, false)

/-! ## Reading an image -/

/-- Where an image is read, for whom. -/
structure ImageRef where
  die : DieId
  part : Fin 16
  ptr : Word
  deriving DecidableEq, Repr

/-- A clean field of an image. -/
def ImageRef.field (s : State) (r : ImageRef) (off n : Nat) : Option Nat := unitField s r.die r.part r.ptr off n

/-- The header's fields (R377). -/
structure ImageHeader where
  numrev : Nat
  clean : Bool
  smode : Bool
  ctxnum : Nat
  tiles : Nat
  dslots : Nat
  pslots : Nat
  pc : Word
  poolb : Word
  regoff : Nat
  scroff : Nat
  accoff : Nat
  ochoff : Nat
  pbmoff : Nat
  size : Nat
  deriving DecidableEq, Repr

/-- POOLB's fields (R102). -/
def ImageHeader.base (h : ImageHeader) : Nat := fldN h.poolb 0 10
def ImageHeader.reg (h : ImageHeader) : Nat := fldN h.poolb 10 10
def ImageHeader.scr (h : ImageHeader) : Nat := fldN h.poolb 20 10
def ImageHeader.l1 (h : ImageHeader) : Nat := fldN h.poolb 30 10
def ImageHeader.priv (h : ImageHeader) : Nat := fldN h.poolb 40 10
/-- Units of the pool region: register backing, scratchpad, L1 (R101). -/
def ImageHeader.units (h : ImageHeader) : Nat := h.reg + h.scr + h.l1

/-- The header an image pointer names: none when MAGIC, VERSION or NUMREV differs, or it cannot be read (R381). -/
def imageHeader (s : State) (r : ImageRef) : Option ImageHeader := do
  let b ← cleanBytes s r.die r.part r.ptr 88
  let h : ImageHeader :=
    { numrev := fieldAt b 6 1, clean := fieldAt b 7 1 % 2 = 1, smode := fieldAt b 7 1 / 2 % 2 = 1, ctxnum := fieldAt b 8 2,
      tiles := fieldAt b 11 1, dslots := fieldAt b 12 1, pslots := fieldAt b 13 1, pc := BitVec.ofNat 64 (fieldAt b 16 8),
      poolb := BitVec.ofNat 64 (fieldAt b 24 8), regoff := fieldAt b 40 8, scroff := fieldAt b 48 8, accoff := fieldAt b 56 8,
      ochoff := fieldAt b 64 8, pbmoff := fieldAt b 72 8, size := fieldAt b 80 8 }
  if r.ptr.toNat % 64 = 0 ∧ fieldAt b 0 4 = imgMagic ∧ fieldAt b 4 2 = 1 ∧ h.numrev = 1 then some h else none

/-- The bytes the areas of an image take: register backing, scratchpad, accumulator, Ochre. -/
def ImageHeader.areas (h : ImageHeader) : List (Nat × Nat) :=
  [(h.regoff, 4096 * (h.tiles + 1)), (h.scroff, 4096 * h.scr), (h.accoff, 16384 * h.pslots), (h.ochoff, 65536)]

/-- Two areas share no byte. -/
def areasApart (x y : Nat × Nat) : Bool := decide (x.1 + x.2 ≤ y.1) || decide (y.1 + y.2 ≤ x.1) || x.2 == 0 || y.2 == 0

/-- T, D, the areas and SIZE agree (R88, R98, R101, R377, R381). -/
def ImageHeader.agrees (h : ImageHeader) : Bool :=
  (h.tiles == 8 || h.tiles == 16 || h.tiles == 32) && decide (h.dslots ≤ 32) && h.reg == h.tiles + 1 && decide (1 ≤ h.scr)
    && decide (h.priv ≤ h.scr) && h.l1 % 4 == 0 && decide (h.l1 ≤ 128) && fldN h.poolb 50 14 == 0
    && decide (h.areas.Pairwise (fun x y => areasApart x y = true))
    && h.areas.all (fun a => a.1 % 4096 == 0 && decide (0x8000 ≤ a.1) && decide (a.1 + a.2 ≤ h.pbmoff))
    && h.pbmoff % 4096 == 0 && h.size == h.pbmoff + h.pbmoff / 32

/-- A checkpoint image is placed on the context it names, with its P, in its pool region (R25, R381). -/
def ImageHeader.fits (s : State) (h : ImageHeader) (k : CtxId) : Bool :=
  h.clean || (h.ctxnum == k.val && h.pslots == s.pslots k)

/-- The walks that reading a whole image makes (R422, R424). -/
def ImageRef.touchAll (s : State) (r : ImageRef) (h : ImageHeader) : State :=
  ((0, 0x8000) :: h.areas).foldl (fun t a =>
    touchRange (touchRange t r.die r.part accDevRead (r.ptr + BitVec.ofNat 64 a.1) a.2)
      r.die r.part accDevRead (r.ptr + BitVec.ofNat 64 (h.pbmoff + a.1 / 32)) (a.2 / 32 + 1)) s

/-- Bytes of an area with the poison the bitmap gives them (R380). -/
def ImageRef.area (s : State) (r : ImageRef) (h : ImageHeader) (off n : Nat) : Option (List PByte) := do
  let bs ← unitBytes s r.die r.part (r.ptr + BitVec.ofNat 64 off) n
  let bm ← unitBytes s r.die r.part (r.ptr + BitVec.ofNat 64 (h.pbmoff + off / 32)) (n / 32 + 1)
  let bmA := bm.toArray
  some ((List.range n).zip bs |>.map (fun x =>
    let w := (off % 32 + x.1) / 4
    let bit := ((bmA.getD (w / 8) { val := 0, poison := false }).val).getLsbD (w % 8)
    { x.2 with poison := x.2.poison || bit }))

/-! ## Restoring a context (R382, R383) -/

/-- The code of a trap by its number (R372). -/
def trapOfCode (n : Nat) : Option TrapCode :=
  match n with
  | 0x01 => some .illegalInstruction | 0x02 => some .illegalRegister | 0x03 => some .illegalOperand | 0x04 => some .privileged
  | 0x05 => some .softwareTrap | 0x08 => some .addressInvalid | 0x09 => some .misaligned | 0x0A => some .windowBounds
  | 0x0B => some .foreignScratch | 0x0C => some .accessUnsupported | 0x0D => some .pageFault | 0x0E => some .pageDenied
  | 0x10 => some .shapeInvalid | 0x11 => some .shapeBounds | 0x12 => some .shapeMismatch | 0x14 => some .unloadedOpcode
  | 0x15 => some .graphInvalid | 0x18 => some .poisonConsumed | 0x1C => some .arrivalOverrun | 0x1D => some .arrivalIdle
  | 0x1E => some .ringInvalid | 0x1F => some .ringUnderflow | 0x20 => some .queueStall | 0x21 => some .barrierMismatch
  | 0x22 => some .versionInvalid | 0x28 => some .arithInvalid | 0x29 => some .arithDivzero | 0x2A => some .arithOverflow
  | 0x2B => some .arithUnderflow | 0x2C => some .arithSaturate | 0x30 => some .opidMismatch
  | _ => none

/-- A number of a byte list, with poison. -/
def wordAt (l : Array PByte) (off n : Nat) : Nat × Bool :=
  let b := (List.range n).map (fun i => l.getD (off + i) { val := 0, poison := false })
  (bytesNat b, anyPoison b)

/-- A field of a byte array. -/
def natAt (l : Array PByte) (off n : Nat) : Nat := (wordAt l off n).1
/-- A word of a byte array. -/
def wAt (l : Array PByte) (off : Nat) : Word := BitVec.ofNat 64 (natAt l off 8)

/-- A level of 24 bytes. -/
def levelAt (l : Array PByte) (off : Nat) : Level :=
  { n := natAt l off 8, ss := (wAt l (off + 8)).toInt, ds := (wAt l (off + 16)).toInt }

/-- The copy kind of MAJ and FN7. -/
def kindOf (maj fn7 : Nat) : CopyKind :=
  match maj with
  | 0x10 => .cin | 0x11 => .nest | 0x12 => .cgath | 0x13 => if fn7 < 2 then .cpack else .cunpk
  | 0x14 => .cmcast | 0x15 => .cfill | 0x34 => .cout
  | 0x35 => .cred (match fn7 / 2 % 8 with | 0 => .addf | 1 => .addbf | 2 => .addi | 3 => .maxf | _ => .minf)
  | 0x36 => .cstrm | _ => .nesto

/-- The bytes of a whole copy from what its record holds (R210, R218, R220, R223, R224). -/
def totalOf (op : CopyOp) : Nat :=
  match op.kind with
  | .nest | .nesto => if op.levels.isEmpty then 0 else 4 * op.levels.foldl (fun x l => x * l.n) 1
  | .cgath => gathRows op.rc * gathRowsz op.rc
  | .cpack | .cunpk => (shapeFields op.shape).rows * (shapeFields op.shape).rowBytes
  | .cmcast => if op.mask = 0 then 0 else op.rc.toNat
  | _ => op.rc.toNat

/-- A copy read back from its record (R379). -/
def copyAt (l : Array PByte) (o : Nat) : CopyOp :=
  let maj := natAt l (o + 1) 1
  let fn7 := natAt l (o + 2) 1
  let kind := kindOf maj fn7
  let isNest := decide (kind = .nest) || decide (kind = .nesto)
  let lvl := isNest && decide (fn7 < 8)
  let hasBar := !lvl && decide (kind ≠ .cstrm) && fn7 % 2 == 1
  let rc := wAt l (o + 56)
  let implied := wAt l (o + 64)
  let mcast := decide (kind = .cmcast)
  let op : CopyOp :=
    { kind := kind, ra := wAt l (o + 40), rb := wAt l (o + 48), rc := rc
      bar := if hasBar then some (if mcast then wAt l (o + 80) else implied) else none
      mask := if mcast then implied else if lvl then BitVec.ofNat 64 fn7 else 0
      shape := if kind = .cpack ∨ kind = .cunpk then BitVec.ofNat 128 (natAt l (o + 80) 16) else 0
      levels := if isNest && !lvl then (List.range (Nat.min 6 rc.toNat)).map (fun i => levelAt l (o + 96 + 24 * i)) else []
      total := 0 }
  { op with total := totalOf op }

/-- A parked record read back (R379), with what its SHAPE field keeps for a form without a shape record. -/
def recordAt (l : Array PByte) (o ord : Nat) (nctl : BitVec 5) : Entry :=
  let op := copyAt l o
  let fl := natAt l (o + 3) 1
  let push := natAt l (o + 5) 1
  let goff := natAt l (o + 12) 4
  let x : BitVec 128 := BitVec.ofNat 128 (natAt l (o + 80) 16)
  let cred := op.kind.isCred
  let slot := scrPtr (scrCore op.ra) (BitVec.ofNat 64 (64 * fldN x 107 16))
  { op := .copy op, dep := BitVec.ofNat 4 (natAt l (o + 4) 1), seq := BitVec.ofNat 32 (natAt l (o + 8) 4), ord := ord
    nctl := if cred then fld x 99 5 else nctl, waitVx := none, started := fl % 2 = 1, done := fl / 2 % 2 = 1
    pushP := push % 2 = 1, pushN := push / 2 % 2 = 1, flags := if cred then fld x 92 7 else 0
    report := none, parked := true, held := BitVec.ofNat 2 (fl / 8), drop := fl / 4 % 2 = 1, goff := goff
    fail := BitVec.ofNat 4 (natAt l (o + 6) 2), failMask := wAt l (o + 72), delivered := Nat.min (256 * goff) op.total
    dead := false, zeroFrom := if op.kind = .cgath ∧ x.getLsbD 105 then some (fldN x 32 32) else none
    claim := if op.kind = .cstrm ∧ x.getLsbD 104 then some (fld x 0 32) else none
    slot := if op.kind = .cstrm ∧ x.getLsbD 106 then some slot else none
    onEngine := false, todo := [], ahead := [], into := [] }

/-- A CSR of the block. -/
def csrAt (l : Array PByte) (n : Nat) : Word := if n < 0x100 then wAt l (0x300 + 8 * n) else wAt l (0x400 + 8 * (n - 0x100))

/-- The CSRs of a placement (R105, R231, R365, R378): GANGPOS, PARTN, CTXIMG and POOLB's BASE come from the placement. -/
def csrsAt (l : Array PByte) (h : ImageHeader) (wdfloor base gsize rank : Nat) (p : Fin 16) (save : Word) (dlc : Bool) : Csr :=
  let cause := fun (w : Word) => (fld w 32 32, fld w 8 3, fld w 0 8)
  let uc := cause (csrAt l 0x01A)
  let sc := cause (csrAt l 0x103)
  let cp := csrAt l 0x012
  let ut := csrAt l 0x018
  let ss := csrAt l 0x100
  { stepn := csrAt l 0x002, nslots := fld (csrAt l 0x003) 0 9, ragbase := fld (csrAt l 0x004) 0 22, remt := csrAt l 0x005,
    vrb := fld (csrAt l 0x008) 0 4, nflag := fld (csrAt l 0x010) 0 7, nctl := fld (csrAt l 0x011) 0 5,
    utvecBase := fld ut 2 62, utvecAct := ut.getLsbD 1, utvecEn := ut.getLsbD 0, uepc := fld (csrAt l 0x019) 2 62,
    ucauseSeq := uc.1, ucauseQueue := uc.2.1, ucauseCode := uc.2.2, utval := csrAt l 0x01B,
    sact := h.smode, note := ss.getLsbD 1, hold := false, dlc := dlc, stvecBase := fld (csrAt l 0x101) 2 62,
    sepc := fld (csrAt l 0x102) 2 62, scauseSeq := sc.1, scauseQueue := sc.2.1, scauseCode := sc.2.2, stval := csrAt l 0x104,
    sscratch := csrAt l 0x105, qwdog := BitVec.ofNat 32 (max (if h.clean then 0x100000 else fldN (csrAt l 0x108) 0 32) (2 ^ wdfloor)), partn := p, ctximg := save,
    cpSeq := fld cp 32 32, cpQueue := fld cp 25 3, cpCount := fld cp 8 8, cpFail := fld cp 0 4, cpmask := csrAt l 0x013,
    gsize := BitVec.ofNat 7 gsize, rank := BitVec.ofNat 6 rank, tiles := h.tiles, dslots := h.dslots,
    parkocc := if h.clean then 0 else fld (csrAt l 0x009) 32 32,
    poolBase := base, poolReg := h.reg, poolScr := h.scr, poolL1 := h.l1, poolPriv := h.priv }

/-- A tile of the register backing. -/
def tileAt (l : Array PByte) (o : Nat) : Tile :=
  Vector.ofFn (fun i : Fin 1024 =>
    let x := wordAt l (o + 4 * i.val) 4
    { bits := BitVec.ofNat 32 x.1, poison := x.2 })

/-- A weight plane of the block. -/
def planeAt (l : Array PByte) (head elems : Nat) : WPlane :=
  let w := natAt l head 8
  let b := Nat.min 16 (fmtBits (w / 256 % 32))
  { loaded := w % 2 = 1, fmt := w / 256 % 32
    elems := Vector.ofFn (fun i : Fin 4096 =>
      let row := elems + 8 * b * (i.val / 64)
      let j := i.val % 64
      (List.range b).foldl (fun acc p =>
        let x := l.getD (row + 8 * p + j / 8) { val := 0, poison := false }
        (acc.1 ||| (if x.val.getLsbD (j % 8) then 1#16 <<< p else 0), acc.2 || x.poison)) (0, false))
    scales := Vector.ofFn (fun i : Fin 128 => l.getD (head + 0x40 + i.val) { val := 0, poison := false }) }

/-- An Ochre slot: the current plane from its graph, the other empty (R336, R379); one with another context's stamp is restored empty
(R431). -/
def slotAt (s : State) (r : ImageRef) (h : ImageHeader) (l : Array PByte) (opid : BitVec 6) (n : Nat) : OSlot :=
  let w := wAt l (0x600 + 16 * n)
  let cur : Fin 2 := Fin.ofNat 2 (fldN w 29 1)
  let lat := fldN w 16 7
  let nin := fldN w 8 3
  let nout := fldN w 0 2
  let stamp := fld w 32 6
  let at_ := h.ochoff + 4096 * n
  let graph := (r.field s (at_ + 4) 4).bind (fun size =>
    (cleanBytes s r.die r.part (r.ptr + BitVec.ofNat 64 at_) (16 + size)).bind (fun b => parseGraph b lat nin nout))
  let bad := w.getLsbD 30
  let pl : OPlane := match w.getLsbD 31, graph with
    | true, some g => { st := .loaded, graph := g, lat := lat, nin := nin, nout := nout, stamp := stamp }
    | _, _ => { OPlane.cleared opid with st := if bad then .bad else .empty }
  if (w.getLsbD 31 || bad) && stamp != opid then OSlot.cleared opid
  else { cur := cur, bad := bad, planes := (Vector.replicate 2 (OPlane.cleared opid)).set cur.val pl }

/-- The held report of the block. -/
def reportAt (l : Array PByte) : Option Trap :=
  let w := wAt l 0x248
  if w.getLsbD 0 then
    (trapOfCode (fldN w 16 8)).map (fun c => { code := c, value := wAt l 0x250, queue := fld w 8 3, seq := fld w 32 32 })
  else none

/-- The registers and engine state of the block and the register backing, as a context restored and not released. -/
def blockCtx (s : State) (k : CtxId) (r : ImageRef) (h : ImageHeader) (l regs : Array PByte) (csr : Csr) (kept : Option Kept) : Ctx :=
  let c0 := Ctx.clean s.limits.wdfloor
  let t := 4096 * h.tiles
  let cnt := fun (q : EngineQ) => Nat.min 16 (natAt l (if q = .ci then 0x237 else 0x238) 1)
  let recs := fun (q : EngineQ) (first : Nat) =>
    (List.range (cnt q)).map (fun i => recordAt l ((if q = .ci then 0x2000 else 0x3000) + 256 * i) (first + i) csr.nctl)
  let seqOf := fun (q : EngineQ) => BitVec.ofNat 32 (natAt l (0x218 + 4 * q.idx.val) 4)
  let queueAt := fun (q : EngineQ) => ({ entries := [], next := seqOf q } : EQueue)
  let base := { c0 with
    run := .restored, pc := h.pc, csr := csr
    s := Vector.ofFn (fun i : Fin 32 =>
      let x := wordAt l (0x100 + 8 * i.val) 8
      if i.val = 0 then { val := 0, poison := false } else { val := BitVec.ofNat 64 x.1, poison := x.2 })
    p := BitVec.ofNat 8 (natAt l 0x200 1) ||| 1
    mxcfg := wAt l 0x208, sqcfg := wAt l 0x210
    tokens := Vector.ofFn (fun i : Fin 10 => natAt l (0x22C + i.val) 1)
    nestCi := Vector.ofFn (fun i : Fin 6 => levelAt l (0x480 + 24 * i.val))
    nestCo := Vector.ofFn (fun i : Fin 6 => levelAt l (0x510 + 24 * i.val))
    tiles := Vector.ofFn (fun i : Fin 32 => if i.val < h.tiles then tileAt regs (4096 * i.val) else Tile.zero)
    masks := Vector.ofFn (fun i : Fin 8 => BitVec.ofNat 1024 (natAt regs (t + 128 * i.val) 128))
    shapes := Vector.ofFn (fun i : Fin 16 => BitVec.ofNat 128 (natAt regs (t + 1024 + 16 * i.val) 16))
    planes := Vector.ofFn (fun i : Fin 2 => planeAt l (0x800 + 0x100 * i.val) (0x4000 + 0x2000 * i.val))
    activePlane := if (wAt l 0x900).getLsbD 1 then 1 else 0
    scaleq := (List.range (Nat.min 64 (natAt l 0x236 1))).map (fun i =>
      (List.range 64).map (fun j => l.getD (0x1000 + 64 * i + j) { val := 0, poison := false }))
    oslots := Vector.ofFn (fun i : Fin 16 => slotAt s r h l (opidOf k { c0 with csr := csr }) i.val)
    heldReports := (kept.elim [] (·.reports)) ++ (reportAt l).toList, heldEscs := kept.elim [] (·.escs), preHeld := (reportAt l).isSome
    fails := kept.elim c0.fails (·.fails)
    arr := natAt l 0x240 8 % 2 = 1, arrStep := natAt l 0x240 8 / 2 % 2 = 1
    queues := Vector.replicate 5 { entries := [], next := 0 } }
  let c1 := allQueues.foldl (fun c q => c.setQueue q (queueAt q)) base
  let into := kept.elim [] (·.into)
  let ahead := kept.elim [] (·.ahead)
  let known := fun (es : List Entry) (first : Nat) =>
    es.mapIdx (fun i e => { e with into := into.getD (first + i) [], ahead := ahead.getD (first + i) [] })
  let c2 := (c1.setEntries .ci (known (recs .ci 0) 0)).setEntries .co (known (recs .co (cnt .ci)) (cnt .ci))
  { c2 with dispatched := cnt .ci + cnt .co }.syncViews

/-- GEN of the block. -/
def genAt (l : Array PByte) : BitVec 32 := BitVec.ofNat 32 (natAt l 0x240 8 / 2 ^ 32)

/-- The pushes of a queue's complete records are made as FIFOs have room (R383). -/
def Ctx.pushDone (c : Ctx) (q : EngineQ) : Ctx :=
  match (c.queue q).entries with
  | [] => c
  | e :: r =>
    if e.done then
      let (c1, e1) := c.makePushes q e
      c1.setEntries q (e1 :: r)
    else c

/-- Steps 1 and 2 of R383, once the whole gang is placed again (R376): pending pushes, then records with HELD 0, which stay for a held report's handler. -/
def Ctx.resumeRestored (c : Ctx) : Ctx :=
  let c1 := (c.pushDone .ci).pushDone .co
  match c1.imageReport with
  | none => c1.resumeCopies 0
  | some t =>
    let hold := fun (e : Entry) => if e.held = 0 then { e with held := c1.heldBy (.trap t) } else e
    (c1.setEntries .ci ((c1.queue .ci).entries.map hold)).setEntries .co ((c1.queue .co).entries.map hold)

/-- What a placement gives a member beside its image. -/
structure Placement where
  base : Nat
  gsize : Nat
  rank : Nat
  save : Word
  dlc : Bool
  task : Nat
  kept : Option Kept
  deriving DecidableEq, Repr

/-- A context restored from an image (R382, R383): its state with GEN; none when the image cannot be read. -/
def restoreCtx (s : State) (k : CtxId) (r : ImageRef) (h : ImageHeader) (x : Placement) : Option (State × BitVec 32) := do
  let block ← r.area s h 0 0x8000
  let regs ← r.area s h h.regoff (4096 * (h.tiles + 1))
  let scr ← r.area s h h.scroff (4096 * h.scr)
  let accN := 16384 * s.pslots k
  let acc ← if h.clean then some (List.replicate accN { val := 0, poison := false }) else r.area s h h.accoff accN
  let l := block.toArray
  let csr := csrsAt l h s.limits.wdfloor x.base x.gsize x.rank r.part x.save x.dlc
  let old := s.ctx k
  let c := { blockCtx s k r h l regs.toArray csr (if h.clean then none else x.kept) with
    task := some x.task, cbud := old.cbud, issueLeft := old.issueLeft, lastIssue := old.lastIssue, issues := old.issues }
  let s1 := s.setCtx k c
  let s2 := s1.write (.pool (coreOf k)) c.scrStart scr
  some (s2.write (.acc (coreOf k)) (s2.accBase k) acc, genAt l)

end Sys2Proof.Machine
end

