-- ==== Sys2Proof/Machine/FrontEnd.lean ====
section
/-!
DEFINITION. The command front end's queues (R385 to R395): doorbells and spans, packets and their checks, the stop of a queue and
its status record, completion interrupts (R418, R419), and the packets NOP, LAUNCH, WAIT, SIGNAL, INDIRECT and FENCE. Both dies'
threads read every packet; the first to read it acts on it (R385, R387).
-/
namespace Sys2Proof.Machine

/-! ## Device memory as the front end reaches it -/

/-- A clean 8-byte word as a die's front end reads it in a partition; none when it cannot be read or is poisoned. -/
def unitWord (s : State) (d : DieId) (p : Fin 16) (va : Word) : Option Word :=
  (cleanBytes s d p va 8).map (fun b => BitVec.ofNat 64 (bytesNat b))

/-- The walks that reading words at some addresses makes (R422, R424). -/
def touchWords (s : State) (d : DieId) (p : Fin 16) (l : List Word) : State := l.foldl (fun t a => touch t d p accDevRead a) s

/-- Bytes that the spec leaves open. -/
def freeBytes (n : Nat) : Nat → List PByte
  | 0 => []
  | k + 1 => { val := Config.freeByte n, poison := false } :: freeBytes (n + 1) k

/-- The state with `k` more free values drawn. -/
def State.drawn (s : State) (k : Nat) : State := { s with fresh := s.fresh + k }


/-! ## Interrupts (R418, R419) -/

/-- A vector's register. -/
def State.msiOf (s : State) (v : Fin 256) : Msi := s.msi[v.val]

/-- An entry of the MSI-X table. -/
def State.msixOf (s : State) (v : Fin 256) : MsixEntry := s.msix[v.val]

/-- A message of a vector with its count of events; one that is masked waits in the pending-bit array (R441). -/
def postMsi (s : State) (v : Fin 256) (n : Nat) : State :=
  if (s.msixOf v).mask then { s with msixPending := s.msixPending ||| (1#256 <<< v.val) } else { s with sent := (v, n) :: s.sent }

/-- The vector's message is sent and its window closes. -/
def sendMsi (s : State) (v : Fin 256) : State :=
  let m := s.msiOf v
  { postMsi s v m.count with msi := s.msi.set v.val { m with evcnt := BitVec.ofNat 32 m.count, openUntil := none, count := 0 } }

/-- The window's end has come. -/
def windowOver (s : State) (v : Fin 256) : Bool :=
  match (s.msiOf v).openUntil with
  | some t => decide (t.toNat ≤ s.tsc.toNat)
  | none => false

/-- An event on a vector (R418). -/
def raiseVec (s : State) (v : Fin 256) : State :=
  let s1 := if windowOver s v then sendMsi s v else s
  let m := s1.msiOf v
  let m1 := match m.openUntil with
    | some _ => { m with count := m.count + 1 }
    | none => { m with openUntil := some (s1.tsc + BitVec.ofNat 64 (1000 * m.win.toNat)), count := 1 }
  { s1 with msi := s1.msi.set v.val m1 }

/-- A message of one event without a window (R394). -/
def raiseNow (s : State) (v : Fin 256) : State := { postMsi s v 1 with msi := s.msi.set v.val { s.msiOf v with evcnt := 1 } }

/-- Event INTERRUPT_WINDOW_EXPIRY (R418). -/
def execEvInterruptWindowExpiry (s : State) : Out :=
  .next (if windowOver s s.arg.vec then sendMsi s s.arg.vec else s)

/-! ## Queues and their stop (R394, R395) -/

/-- A queue. -/
def State.hq (s : State) (q : Fin 32) : HQueue := s.hqueues[q.val]
/-- A queue replaced. -/
def State.setHq (s : State) (q : Fin 32) (x : HQueue) : State := { s with hqueues := s.hqueues.set q.val x }

/-- The codes of the status record. -/
def codeBAD : Nat := 1
def codeLOOP : Nat := 2
def codeTORN : Nat := 3
def codeLREF : Nat := 4
def codeSREF : Nat := 5
def codeDESTROYED : Nat := 6

/-- Where a packet stands: level, ring, address of its header, none where no packet is named. -/
structure Place where
  level : Nat
  ring : Fin 8
  at_ : Option Word
  deriving DecidableEq, Repr

/-- The status record of a queue is written, with a release at SYS scope (R395). -/
def writeStatus (s : State) (q : Fin 32) (code : Nat) (x : Place) : State :=
  match (s.hq q).map with
  | none => s
  | some m =>
    let head := natBytes 3 (code + 256 * x.level + 65536 * x.ring.val) ++ freeBytes s.fresh 5
    let tail := match x.at_ with | some a => natBytes 8 a.toNat | none => freeBytes (s.fresh + 5) 8
    (unitRecord s 0 m.part m.status (head ++ tail)).drawn 13

/-- QUEUE_STOP (R394): the status record, the error vector without coalescing, the mapping released; the queue's tasks are no
longer named by it. -/
def stopQueue (s : State) (q : Fin 32) (code : Nat) (x : Place) : State :=
  match (s.hq q).map with
  | none => s
  | some m =>
    let s1 := (raiseNow (writeStatus s q code x) m.vec).setHq q HQueue.unmapped
    { s1 with tasks := s1.tasks.map (fun t => if t.q = q then { t with orphan := true } else t) }

/-! ## Doorbells (R386, R387) -/

/-- A new span goes behind those of earlier stamps, of lower rings with its stamp, and behind one whose packets are being taken. -/
def insertSpan (x : Span) : List Span → List Span
  | [] => [x]
  | y :: r =>
    if y.begun || decide (y.stamp.toNat < x.stamp.toNat) || (y.stamp == x.stamp && decide (y.ring ≤ x.ring)) then y :: insertSpan x r
    else x :: y :: r

/-- The BARs respond: firmware has set READY (R461). -/
def barsRespond (s : State) : Bool := (s.die 0).ready && (s.die 1).ready

/-- Event DOORBELL: the new write position of a ring of a queue, in the low 32 bits of the argument word. It reaches both threads. -/
def execEvDoorbell (s : State) : Out :=
  let q := s.arg.hq
  let x := s.hq q
  match x.map with
  | none => .next s
  | some m =>
    let r := s.arg.ring
    if m.rings ≤ r.val || !barsRespond s then .next s
    else
      let v : BitVec 32 := fld s.arg.word 0 32
      let d := (v - x.published[r.val]).toNat
      if 2 ^ m.sizeLog < d then .next (stopQueue s q codeBAD { level := 0, ring := r, at_ := none })
      else if d = 0 then .next s
      else .next (s.setHq q { x with
        published := x.published.set r.val v
        spans := insertSpan { stamp := s.tsc, ring := r, stop := v, begun := false } x.spans })

/-! ## Reading packets (R385 to R390, R393) -/

/-- A packet read whole. -/
structure Packet where
  words : List Word
  place : Place
  stamp : Word
  deriving DecidableEq, Repr

def Packet.word (p : Packet) (n : Nat) : Word := p.words.getD n 0
/-- Fields of the header (R389). -/
def Packet.type (p : Packet) : Nat := fldN (p.word 0) 0 8
def Packet.flags (p : Packet) : Nat := fldN (p.word 0) 8 8
def Packet.len (p : Packet) : Nat := fldN (p.word 0) 16 16
def Packet.arg (p : Packet) : BitVec 32 := fld (p.word 0) 32 32

/-- What a queue's thread finds, with the addresses of the words it reads. -/
inductive Taken where
  | nothing
  | stop (code : Nat) (x : Place) (reads : List Word)
  /-- A packet, and the thread and the spans with it consumed. -/
  | packet (p : Packet) (thread : QThread) (spans : List Span) (reads : List Word)

/-- `n` words, the i-th at an address of its own. -/
def readWords (s : State) (d : DieId) (part : Fin 16) (at_ : Nat → Word) : Nat → Option (List Word)
  | 0 => some []
  | n + 1 =>
    match readWords s d part at_ n with
    | none => none
    | some l => (unitWord s d part (at_ n)).map (fun w => l ++ [w])

/-- LEN of a header; none outside 1 to 16. -/
def headerLen (w : Word) : Option Nat :=
  let n := fldN w 16 16
  if 1 ≤ n ∧ n ≤ 16 then some n else none

/-- The address of word `i` of a ring behind a position. -/
def QMap.wordAt (m : QMap) (r : Fin 8) (pos : BitVec 32) (i : Nat) : Word :=
  m.bases[r.val] + BitVec.ofNat 64 (8 * ((pos + BitVec.ofNat 32 i).toNat % 2 ^ m.sizeLog))

/-- Words of a span that a thread has still to consume. -/
def Span.left (sp : Span) (t : QThread) : Nat :=
  let n := (sp.stop - t.consumed[sp.ring.val]).toNat
  if n < 2 ^ 31 then n else 0

/-- The next packet of a thread's rings: a span's last words that are no whole packet join the ring's next span. `done` are the spans
passed over. -/
def takeRing (s : State) (d : DieId) (m : QMap) (t : QThread) (done : List Span) : List Span → Taken
  | [] => .nothing
  | sp :: rest =>
    if sp.left t = 0 then takeRing s d m t (done ++ [sp]) rest
    else
      let pos := t.consumed[sp.ring.val]
      let at_ := m.wordAt sp.ring pos
      let place : Place := { level := 0, ring := sp.ring, at_ := some (at_ 0) }
      match unitWord s d m.part (at_ 0) with
      | none => .stop codeTORN place [at_ 0]
      | some h =>
        match headerLen h with
        | none => .stop codeBAD place [at_ 0]
        | some n =>
          let reads := (List.range n).map at_
          if sp.left t < n then takeRing s d m t (done ++ [sp]) rest
          else match readWords s d m.part at_ n with
            | none => .stop codeTORN place reads
            | some ws =>
              .packet { words := ws, place := place, stamp := sp.stamp }
                { t with consumed := t.consumed.set sp.ring.val (pos + BitVec.ofNat 32 n), taken := t.taken + 1 }
                (done ++ { sp with begun := true } :: rest) reads

/-- The buffers left when those read to their end are gone. -/
def openBuffers : List PBuf → List PBuf
  | [] => []
  | b :: r => if b.words ≤ b.pos then openBuffers r else b :: r

/-- A thread of a queue. -/
def HQueue.thread (x : HQueue) (d : DieId) : QThread := x.threads[d.val]

/-- The packet a die's thread of a queue takes next. The thread that is ahead takes none while the queue waits (R388). -/
def takePacket (s : State) (q : Fin 32) (d : DieId) : Taken :=
  let x := s.hq q
  let t := x.thread d
  match x.map with
  | none => .nothing
  | some m =>
    if x.block ≠ .none ∧ x.acted ≤ t.taken then .nothing
    else match openBuffers t.stack with
    | [] => takeRing s d m { t with stack := [] } [] x.spans
    | b :: rest =>
      let ring := b.ring
      let at_ := fun i => b.base + BitVec.ofNat 64 (8 * (b.pos + i))
      let place : Place := { level := rest.length + 1, ring := ring, at_ := some (at_ 0) }
      match unitWord s d m.part (at_ 0) with
      | none => .stop codeTORN place [at_ 0]
      | some h =>
        match headerLen h with
        | none => .stop codeBAD place [at_ 0]
        | some n =>
          let reads := (List.range n).map at_
          if b.words < b.pos + n then .stop codeTORN place [at_ 0]
          else match readWords s d m.part at_ n with
            | none => .stop codeTORN place reads
            | some ws =>
              .packet { words := ws, place := place, stamp := b.stamp }
                { t with stack := { b with pos := b.pos + n } :: rest, taken := t.taken + 1 } x.spans reads

/-- CONS of a ring: the position of the thread that is further behind (R387). -/
def HQueue.cons (x : HQueue) (r : Fin 8) : BitVec 32 :=
  let a := (x.thread 0).consumed[r.val]
  let b := (x.thread 1).consumed[r.val]
  if (x.published[r.val] - a).toNat < (x.published[r.val] - b).toNat then b else a

/-- Spans that both threads have consumed are dropped. -/
def HQueue.trim (x : HQueue) : HQueue :=
  { x with spans := x.spans.filter (fun sp => decide (0 < sp.left (x.thread 0)) || decide (0 < sp.left (x.thread 1))) }

/-- The kinds of packet an event of the table names. -/
inductive PacketKind where
  | nop | launch | warm | wait | signal | indirect | create | ready | cancel | remove | stop | fence | destroy
  /-- A STEP with OP 5 to 7 (R406). -/
  | badStep
  /-- A reserved TYPE. -/
  | other
  deriving DecidableEq, Repr

/-- WARM of a LAUNCH (R391). -/
def Packet.isWarm (p : Packet) : Bool := (p.word 3).getLsbD 32
/-- STEPP of a LAUNCH. -/
def Packet.isStepp (p : Packet) : Bool := (p.word 3).getLsbD 34

/-- The kind of a packet. -/
def Packet.kind (p : Packet) : PacketKind :=
  match p.type with
  | 0 => .nop
  | 1 => if p.isWarm then .warm else .launch
  | 2 => .wait | 3 => .signal | 4 => .indirect
  | 5 =>
    match p.flags with
    | 0 => .create | 1 => .ready | 2 => .cancel | 3 => .remove | 4 => .stop | _ => .badStep
  | 6 => .fence | 7 => .destroy
  | _ => .other

/-- Bits of a LAUNCH that its type does not name are 0 (R391). -/
def Packet.launchBits (p : Packet) : Bool :=
  let g := p.word 3
  fldN g 36 3 == 0 && fldN g 24 8 == 0 && fldN g 10 6 == 0 && fldN g 7 1 == 0 &&
    (!p.isStepp || (fldN (p.word 9) 32 32 == 0 && fldN (p.word 10) 47 17 == 0 && p.word 11 == 0))

/-- A packet keeps R390 and R391: its LEN, and no bit that its type does not name. -/
def Packet.good (p : Packet) : Bool :=
  let aligned := fldN (p.word 1) 0 3 == 0
  match p.type with
  | 0 => p.arg == 0 && p.flags == 0
  | 1 => p.len == (if p.isStepp then 12 else 8) && p.flags == 0 && p.launchBits
  | 2 => p.len == 3 && p.arg == 0 && decide (p.flags < 3) && aligned
  | 3 => p.len == 3 && decide (p.flags < 4) && aligned && (if p.flags / 2 = 1 then decide (p.arg.toNat < 256) else p.arg == 0)
  | 4 => p.len == 2 && p.flags == 0 && decide (1 ≤ p.arg.toNat) && decide (p.arg.toNat ≤ 1048576) && aligned
  | 5 =>
    p.len == 3 && decide (p.flags < 8) && (p.flags == 0 || p.word 1 == 0) && (p.flags == 1 || fldN (p.word 2) 32 32 == 0)
  | 6 => p.len == 1 && p.arg == 0 && p.flags == 0
  | 7 => p.len == 1 && p.arg == 0 && decide (p.flags < 2)
  | _ => false

/-- The buffer that an INDIRECT opens. -/
def Packet.buffer (p : Packet) : PBuf :=
  { base := p.word 1, words := p.arg.toNat, pos := 0, ring := p.place.ring, stamp := p.stamp }

/-- A thread that has taken an INDIRECT goes into its buffer; packets of other kinds leave it where it is. -/
def QThread.enter (t : QThread) (p : Packet) : QThread :=
  if p.kind = .indirect then { t with stack := p.buffer :: t.stack } else t

/-- A die's thread of a queue has taken a packet. -/
def takeBy (s : State) (q : Fin 32) (d : DieId) (p : Packet) (t : QThread) (spans : List Span) : State :=
  let x := s.hq q
  s.setHq q { x with threads := x.threads.set d.val (t.enter p), spans := spans, acted := Nat.max x.acted t.taken }.trim

/-- A packet event: the thread of queue `q` on the argument's die takes its next packet. One that cannot be read, or breaks R390,
stops the queue whatever the event; one of another kind is left. A packet that the other die's thread has read before has acted. -/
def packetEvent (s0 : State) (q : Fin 32) (ks : List PacketKind) (act : State → Packet → State) : State :=
  let d := s0.arg.die
  let part := ((s0.hq q).map.map (·.part)).getD 0
  match takePacket s0 q d with
  | .nothing => s0
  | .stop code x reads => stopQueue (touchWords s0 d part reads) q code x
  | .packet p t spans reads =>
    let s := touchWords s0 d part reads
    if !p.good then stopQueue s q codeBAD p.place
    else if !ks.contains p.kind then s0
    else if (s.hq q).acted < t.taken then act (takeBy s q d p t spans) p
    else takeBy s q d p t spans

/-- The partition of a queue. -/
def State.qpart (s : State) (q : Fin 32) : Fin 16 := ((s.hq q).map.map (·.part)).getD 0

/-- Event NOP (R390). -/
def execEvNop (s : State) : Out := .next (packetEvent s s.arg.hq [.nop] (fun s _ => s))

/-! ## LAUNCH (R391) -/

/-- START names a segment that R12 allows, or leaves the choice open. -/
def startOk (start gsize : Nat) : Bool :=
  start == 0xFF || (decide (start < 64) &&
    (gsize == 64 || !(decide (start < 32) && decide (64 < start + gsize)) && !(decide (32 ≤ start) && decide (96 < start + gsize))))

/-- GSIZE and START are in their ranges. -/
def Packet.namesSegment (p : Packet) : Bool :=
  let gsize := fldN (p.word 3) 0 7
  decide (1 ≤ gsize) && decide (gsize ≤ 64) && startOk (fldN (p.word 3) 16 8) gsize

/-- Reason 4 of a LAUNCH (R396). -/
def Packet.badLaunch (p : Packet) : Bool :=
  let g := p.word 3
  let c := p.word 10
  let gsize := fldN g 0 7
  !p.namesSegment ||
  (p.isStepp && !(decide (1 ≤ fldN c 0 16) && decide (fldN c 0 16 ≤ 1024) && decide (1 ≤ fldN c 16 16) && decide (fldN c 16 16 ≤ 4096)
    && decide (1 ≤ fldN c 32 9) && decide (fldN c 32 9 ≤ 256) && decide (fldN c 41 6 < gsize)))

/-- Reason 4 of a WARM launch: the fields R391 sets to 0. -/
def Packet.badWarm (p : Packet) : Bool :=
  !(p.word 1 == 0 && p.word 2 == 0 && p.word 3 == 0x100000000 && p.word 5 == 0 && p.word 6 == 0 && p.word 7 == 0)

/-- The task of a LAUNCH packet, still to be decided. -/
def Packet.task (p : Packet) (q : Fin 32) (part : Fin 16) : Task :=
  let g := p.word 3
  let c := p.word 10
  { q := q, taskid := p.arg, part := part, ctx := Fin.ofNat 4 (fldN g 8 2), gsize := fldN g 0 7,
    start := if fldN g 16 8 = 0xFF then none else some (Fin.ofNat 64 (fldN g 16 8)),
    imgtab := p.word 1, savetab := p.word 2, at_ := p.word 4, deadline := p.word 5, compl := p.word 6, complval := p.word 7,
    vec := Fin.ofNat 256 (fldN g 48 16), irq := g.getLsbD 35 && decide (fldN g 48 16 < 256), ptok := fldN g 40 8, dlc := g.getLsbD 39, stepp := p.isStepp,
    preload := g.getLsbD 33, warm := p.isWarm, warmed := false, obase := p.word 8, orow := fldN (p.word 9) 0 32, chunk := fldN c 0 16,
    rowlim := fldN c 16 16, maxslots := fldN c 32 9, srank := fldN c 41 6, stamp := p.stamp, st := .deciding,
    first := if fldN g 16 8 = 0xFF then 0 else Fin.ofNat 64 (fldN g 16 8),
    release := 0, gen := 0, gens := [], mixed := [], endReq := false, ended := false, steps := 0, slotBuf := [], want := none, killReq := false, saved := false, kept := [],
    badField := if p.isWarm then p.badWarm else p.badLaunch, badSegment := !p.namesSegment, orphan := false, level := p.place.level, ring := p.place.ring,
    whereAt := p.place.at_.getD 0, reason := 0, reclaimed := false }

/-- A LAUNCH is read: its task waits for its decision, and the queue waits for the task (R388). -/
def readLaunch (q : Fin 32) (s : State) (p : Packet) : State :=
  let s1 := s.setHq q { s.hq q with block := .launch s.tasks.length }
  { s1 with tasks := s1.tasks ++ [p.task q (s.qpart q)] }

/-- Event LAUNCH (R391). -/
def execEvLaunch (s : State) : Out := .next (packetEvent s s.arg.hq [.launch] (readLaunch s.arg.hq))

/-- Event LAUNCH_WARM (R400). -/
def execEvLaunchWarm (s : State) : Out := .next (packetEvent s s.arg.hq [.warm] (readLaunch s.arg.hq))

/-! ## WAIT, SIGNAL, INDIRECT, FENCE (R392, R393) -/

/-- COND of a WAIT holds. -/
def waitHolds (cond : BitVec 2) (v x : Word) : Bool :=
  match cond with
  | 0 => decide (x.toNat ≤ v.toNat)
  | 1 => v == x
  | _ => v != x

/-- The WAIT of a queue is satisfied: its address can be read and COND holds. -/
def waitOver (s : State) (q : Fin 32) (a : Word) (cond : BitVec 2) (x : Word) : Bool :=
  match unitWord s s.arg.die (s.qpart q) a with
  | some v => waitHolds cond v x
  | none => false

/-- Event WAIT: the queue waits unless COND holds at once. -/
def execEvWait (s : State) : Out :=
  let q := s.arg.hq
  .next (packetEvent s q [.wait] (fun s0 p =>
    let s := touch s0 s0.arg.die (s0.qpart q) accDevRead (p.word 1)
    let cond := BitVec.ofNat 2 p.flags
    if waitOver s q (p.word 1) cond (p.word 2) then unitAcquire s s.arg.die (s.qpart q) (p.word 1) 8
    else s.setHq q { s.hq q with block := .wait (p.word 1) cond (p.word 2) }))

/-- Event WAIT_SATISFIED. -/
def execEvWaitSatisfied (s0 : State) : Out :=
  let q := s0.arg.hq
  match (s0.hq q).block with
  | .wait a cond x =>
    let s := touch s0 s0.arg.die (s0.qpart q) accDevRead a
    .next (if waitOver s q a cond x then
        (unitAcquire s s.arg.die (s.qpart q) a 8).setHq q { s.hq q with block := .none } else s)
  | _ => .next s0

/-- The value a SIGNAL writes: none for an ADD whose old value is poisoned or cannot be read. -/
def signalValue (s : State) (part : Fin 16) (p : Packet) : Option Word :=
  if p.flags % 2 = 1 then (unitWord s s.arg.die part (p.word 1)).map (fun v => v + p.word 2) else some (p.word 2)

/-- Event SIGNAL: a release at SYS scope with its write, before a vector is raised (R392, R419). -/
def execEvSignal (s : State) : Out :=
  let q := s.arg.hq
  .next (packetEvent s q [.signal] (fun s p =>
    let s1 := match signalValue s (s.qpart q) p with
      | some v => unitRecord s s.arg.die (s.qpart q) (p.word 1) (natBytes 8 v.toNat)
      | none => touch s s.arg.die (s.qpart q) accDevRead (p.word 1)
    if p.flags / 2 = 1 then raiseVec s1 (Fin.ofNat 256 p.arg.toNat) else s1))

/-- The buffer of an INDIRECT overlaps one on the stack. -/
def overlapsStack (base : Word) (n : Nat) (st : List PBuf) : Bool :=
  st.any (fun b => decide (base.toNat < b.base.toNat + 8 * b.words) && decide (b.base.toNat < base.toNat + 8 * n))

/-- Event INDIRECT (R393): the thread is in its buffer; that it may not nest there stops the queue. -/
def execEvIndirect (s : State) : Out :=
  let q := s.arg.hq
  .next (packetEvent s q [.indirect] (fun s p =>
    let outer := ((s.hq q).thread s.arg.die).stack.drop 1
    if p.place.level = 4 ∨ overlapsStack (p.word 1) p.arg.toNat outer then stopQueue s q codeLOOP p.place else s))

/-- A task's life has ended. -/
def Task.over (t : Task) : Bool := match t.st with | .completed | .killed | .refused => true | _ => false

/-- Every task launched from a queue is over. -/
def fenceOver (s : State) (q : Fin 32) : Bool := s.tasks.all (fun t => t.q != q || t.orphan || t.over)

/-- Event PACKET_FENCE (R392). -/
def execEvPacketFence (s : State) : Out :=
  let q := s.arg.hq
  .next (packetEvent s q [.fence] (fun s _ =>
    if fenceOver s q then s else s.setHq q { s.hq q with block := .fence }))

/-- Event PACKET_FENCE_DONE. -/
def execEvPacketFenceDone (s : State) : Out :=
  let q := s.arg.hq
  match (s.hq q).block with
  | .fence => .next (if fenceOver s q then s.setHq q { s.hq q with block := .none } else s)
  | _ => .next s

end Sys2Proof.Machine
end

