-- ==== Sys2Proof/Machine/Firkin.lean ====
section
/-!
DEFINITION. Firkin, the frame engine: frame maps (R432, R433, R435), grammar segments (R434, R316), loads and write-backs of slices
and segments (R436 to R440), and Bushel's write-back of records (R294, R437, R439).
-/
namespace Sys2Proof.Machine

/-! ## Memory as Firkin and Bushel reach it -/

/-- What Bushel and Firkin need of a page: device memory or a Blumus window (R439). -/
def accUnitRead : Access := { accDevRead with blumus := true }
def accUnitWrite : Access := { accDevWrite with blumus := true }

/-- FCODE of poison (R303). -/
def codePoison : BitVec 8 := 0x18

/-- The place of a byte, or the code its failure leaves (R439): the trap code of a fault, 0x24 for a refusal, 0x25 for a dead
link. -/
def framePlace (s : State) (d : DieId) (p : Fin 16) (acc : Access) (va : Word) : Except (BitVec 8) (Space × Nat) :=
  if malformed va || windowCode va ≠ 0 then .error TrapCode.addressInvalid.code
  else match translate s d none p false acc (fldN va 0 48) with
    | .error (c, _) => .error c.code
    | .ok (_, sp, a) =>
      match answered s sp a with
      | .error w => .error (slotCode w)
      | .ok () => .ok (sp, a)

/-- `n` clean bytes, or a failure's code. -/
def frameRead (s : State) (d : DieId) (p : Fin 16) (va : Word) : Nat → Except (BitVec 8) (List PByte)
  | 0 => .ok []
  | n + 1 =>
    match framePlace s d p accUnitRead va with
    | .error c => .error c
    | .ok (sp, a) =>
      let b := (s.memOf sp).get a
      if b.poison then .error codePoison
      else match frameRead s d p (va + 1) n with
        | .error c => .error c
        | .ok l => .ok (b :: l)

/-- The places bytes are written to, or a failure's code. -/
def framePlaces (s : State) (d : DieId) (p : Fin 16) (va : Word) : Nat → Except (BitVec 8) (List (Space × Nat))
  | 0 => .ok []
  | n + 1 =>
    match framePlace s d p accUnitWrite va with
    | .error c => .error c
    | .ok x =>
      match framePlaces s d p (va + 1) n with
      | .error c => .error c
      | .ok l => .ok (x :: l)

/-- Bytes written, those for a peer as flits (R445), or a failure's code and nothing written. -/
def frameWrite (s : State) (d : DieId) (o : FlitOf) (p : Fin 16) (va : Word) (bs : List PByte) : Except (BitVec 8) State :=
  match framePlaces s d p va bs.length with
  | .error c => .error c
  | .ok l => .ok (sendFlits (putWrites s ((l.zip bs).map (fun x => (x.1.1, x.1.2, x.2)))) o l)

/-- Device-memory bytes among `n` from an address on, and Blumus bytes: each by the page it lies in (R413). -/
def frameCost (s : State) (d : DieId) (p : Fin 16) (acc : Access) (va : Word) (n : Nat) : Nat × Nat :=
  (List.range n).foldl (fun z i =>
    match framePlace s d p acc (va + BitVec.ofNat 64 i) with
    | .ok (.dmem, _) => (z.1 + 1, z.2)
    | .ok (.peer _, _) => (z.1, z.2 + 1)
    | _ => z) (0, 0)

/-- A move waits: its partition's device-memory budget is spent (R440), or that of the links it crosses (R413). -/
def moveStops (s : State) (p : Fin 16) (lk : Nat) : Bool := budgetStops s p 1 lk

/-! ## Frame maps (R432, R433, R435) -/

/-- The ranges of slices of one rank meet. -/
def slicesMeet (a b : Slice) : Bool :=
  a.rank == b.rank && decide (a.offset < b.offset + 8 * b.elems) && decide (b.offset < a.offset + 8 * a.elems)

/-- No two slices of a list meet. -/
def slicesApart : List Slice → Bool
  | [] => true
  | a :: r => !r.any (slicesMeet a) && slicesApart r

/-- A slice descriptor that keeps R433. -/
def parseSlice (gsize bufsz : Nat) (b : List PByte) : Option Slice :=
  let x : Slice := { addr := BitVec.ofNat 64 (fieldAt b 0 8), rank := fieldAt b 8 1, elems := fieldAt b 12 4, offset := fieldAt b 16 4 }
  if x.addr.toNat % 64 = 0 ∧ x.rank < gsize ∧ x.elems % 8 = 0 ∧ 8 ≤ x.elems ∧ x.offset % 64 = 0
      ∧ 64 + x.offset + 8 * x.elems ≤ bufsz then some x else none

/-- The slices of a map. -/
def parseSlices (gsize bufsz : Nat) (b : List PByte) : Nat → Option (List Slice)
  | 0 => some []
  | n + 1 =>
    match parseSlice gsize bufsz (b.take 32) with
    | none => none
    | some x => (parseSlices gsize bufsz (b.drop 32) n).map (fun l => x :: l)

/-- The frame map of a record, read and checked by R432 and R433 for a task. -/
def readMap (s : State) (d : DieId) (t : Task) (r : Record) : Option FrameMap := do
  let h ← cleanBytes s d t.part r.frame 64
  let n := fieldAt h 6 2
  let bufsz := fieldAt h 16 4
  let gseg := fieldAt h 24 8
  let ok := decide (r.frame.toNat % 64 = 0) && fieldAt h 0 4 == 0x46474245 && fieldAt h 4 2 == 1 && decide (1 ≤ n) && decide (n ≤ 4096)
    && fieldAt h 8 1 == r.ffmt.toNat && decide (fieldAt h 8 1 ≤ 2) && fieldAt h 12 4 % 64 == 0
    && bufsz % 64 == 0 && decide (128 ≤ bufsz) && gseg % 64 == 0
    && (gseg != 0 || r.grammar == 0) && fieldAt h 32 8 == r.mhash.toNat
  if !ok then none
  else do
    let b ← cleanBytes s d t.part (r.frame + 64) (32 * n)
    let sl ← parseSlices t.gsize bufsz b n
    if slicesApart sl then
      some { ffmt := fieldAt h 8 1, sreg := fieldAt h 12 4, bufsz := bufsz, gseg := BitVec.ofNat 64 gseg, slices := sl }
    else none

/-- The walks that reading the images a LAUNCH names makes (R422, R424). -/
def touchImages (s : State) (d : DieId) (t : Task) : State :=
  (List.range t.gsize).foldl (fun s i =>
    match cleanBytes s d t.part (t.imgtab + BitVec.ofNat 64 (8 * i)) 8 with
    | some b => touchRange s d t.part accDevRead (BitVec.ofNat 64 (bytesNat b)) 88
    | none => s) (touchRange s d t.part accDevRead t.imgtab (8 * t.gsize))

/-- The state region lies within the scratchpad part of every member and outside its private span, judged from the images the
LAUNCH names (R435). -/
def regionFits (s : State) (d : DieId) (t : Task) (m : FrameMap) : Bool :=
  (List.range t.gsize).all (fun i =>
    match (cleanBytes s d t.part (t.imgtab + BitVec.ofNat 64 (8 * i)) 8).bind
        (fun b => imageHeader s { die := d, part := t.part, ptr := BitVec.ofNat 64 (bytesNat b) }) with
    | some h => decide (m.sreg + 2 * t.maxslots * m.bufsz ≤ 4096 * (h.scr - h.priv))
    | none => false)

/-- Offset in a member's pool of buffer (slot, b) (R435). -/
def bufferAt (c : Ctx) (m : FrameMap) (slot b : Nat) : Nat := c.scrStart + m.sreg + (2 * slot + b) * m.bufsz

/-- The slices of a rank. -/
def FrameMap.ofRank (m : FrameMap) (rank : Nat) : List Slice := m.slices.filter (fun x => x.rank == rank)
/-- The bytes a rank's slices take in a buffer. -/
def FrameMap.rankBytes (m : FrameMap) (rank : Nat) : Nat := 8 * ((m.ofRank rank).map (·.elems)).sum
/-- The stored bytes of a rank's slices. -/
def FrameMap.storedBytes (m : FrameMap) (rank : Nat) : Nat := frameBytes m.ffmt * ((m.ofRank rank).map (·.elems)).sum

/-! ## Grammar segments (R434) -/

/-- The fields of a configuration, by offset. -/
def confFields (off : Nat) (c : GConf) : List (Nat × List Byte) :=
  [(off, leBytes 2 c.state), (off + 2, leBytes 1 c.stack.length), (off + 3, leBytes 1 (if c.fin then 1 else 0)),
   (off + 16, c.stack.reverse.flatMap (leBytes 2))]

/-- The 2,048 bytes of an automaton's segment; `n` numbers the bytes R434 does not list. -/
def segmentBytes (n : Nat) (a : Automaton) : List PByte :=
  let valid := (List.range 8).foldl (fun v i => if (a.snaps.toList.getD i none).isSome then v + 2 ^ i else v) 0
  let fields := [(0, leBytes 1 valid), (1, leBytes 1 ((if a.bound then 1 else 0) + (if a.badg then 2 else 0))),
      (8, leBytes 8 a.grammar.toNat)] ++ confFields 16 a.conf
    ++ (List.range 8).flatMap (fun i => match a.snaps.toList.getD i none with
        | some c => confFields (160 + 144 * i) c
        | none => [])
  let m := fields.foldl (fun (m : Mem) f => m.write f.1 (pbytes false f.2)) (Mem.empty.write 0 (freeBytes n 2048))
  m.read 0 2048

/-- A configuration of a segment. -/
def confAt (b : List PByte) (off : Nat) : GConf :=
  { state := fieldAt b off 2, fin := fieldAt b (off + 3) 1 % 2 = 1
    stack := ((List.range (Nat.min 64 (fieldAt b (off + 2) 1))).map (fun i => fieldAt b (off + 16 + 2 * i) 2)).reverse }

/-- An automaton restored from a segment: with BOUND its grammar's header, at a pointer on 64 bytes, is checked by R308 as gbind checks
it (R316). -/
def restoreAut (s : State) (d : DieId) (p : Fin 16) (b : List PByte) : Automaton :=
  let u := { Automaton.unbound with
    part := some p, grammar := BitVec.ofNat 64 (fieldAt b 8 8), badg := (fieldAt b 1 1) / 2 % 2 = 1, conf := confAt b 16
    snaps := Vector.ofFn (fun i : Fin 8 => if fieldAt b 0 1 / 2 ^ i.val % 2 = 1 then some (confAt b (160 + 144 * i.val)) else none) }
  if fieldAt b 1 1 % 2 = 0 then u
  else match (if u.grammar.toNat % 64 = 0 then readHeader s d p u.grammar else none) with
    | some h => { u with bound := true, header := h }
    | none => { u with badg := true, snaps := Vector.replicate 8 none }

/-! ## Moves (R436 to R440) -/

/-- The slice and the byte in it that a position in a member's stored bytes falls in. -/
def sliceAt (f : Nat) : List Slice → Nat → Option (Slice × Nat)
  | [], _ => none
  | x :: r, pos => if pos < frameBytes f * x.elems then some (x, pos) else sliceAt f r (pos - frameBytes f * x.elems)

/-- The entry of Bushel's tables that a move serves. -/
def State.moveReq (s : State) (m : Move) : Option (DieId × Nat × ReqEntry) :=
  s.findReq (fun e => e.task == m.task && e.record.reqid == m.reqid)

/-- A move's failure (R439): on a load the slot is marked; on a write-back the request becomes faulted, or, when it has been
admitted again, its slot is marked. -/
def moveFailed (s : State) (m : Move) (code : BitVec 8) : State :=
  match s.moveReq m with
  | none => s
  | some (d, i, e) =>
    if m.discarded then s
    else if m.load then (if e.slot = some m.slot then s.updateReq d i (e.markFault code) else s)
    else
      let fault := fun (r : Record) => if r.state = 4 then r else { r with state := 4, fcode := code, fpos := r.pos }
      let e1 := { e with wb := e.wb.map fault }
      s.updateReq d i (if e.slot.isSome then e1.markFault code else { e1 with record := fault e1.record })

/-- One write-back of a request has ended. -/
def wbEnded (s : State) (m : Move) : State :=
  match s.moveReq m with
  | none => s
  | some (d, i, e) => (s.setReq d i { e with pendingWb := e.pendingWb - 1 }).contended (.table d)

/-- The flits of a move (R445). -/
def Move.flits (m : Move) (d : DieId) : FlitOf := .move d m.task m.reqid (m.member.map (·.1))

/-- A move of a die removed from its list. -/
def dropMove (s : State) (d : DieId) (n : Nat) : State := s.modDie d (fun x => { x with moves := x.moves.eraseIdx n })
/-- A move of a die replaced. -/
def setMove (s : State) (d : DieId) (n : Nat) (m : Move) : State := s.modDie d (fun x => { x with moves := x.moves.set n m })

/-- Stored bytes moved are counted (R457). -/
def countMoved (s : State) (d : DieId) (n : Nat) : State := s.modDie d (fun x => { x with firkinBytes := x.firkinBytes + n })

/-- All moves of both dies. -/
def State.allMoves (s : State) : List Move := (s.die 0).moves ++ (s.die 1).moves

/-- Buffer bytes (offset in the member's pool, length) of a rank's slices that a move at a position has still to read or write; `pos`
counts stored bytes. -/
def restOf (f base : Nat) : List Slice → Nat → List (Nat × Nat)
  | [], _ => []
  | x :: r, pos =>
    let n := frameBytes f * x.elems
    if n ≤ pos then restOf f base r (pos - n)
    else
      let e := pos / frameBytes f
      (base + 64 + x.offset + 8 * e, 8 * (x.elems - e)) :: restOf f base r 0

/-- The buffer bytes a move has still to pass. -/
def Move.rest (m : Move) : List (Nat × Nat) :=
  match m.member with
  | some (rank, _) => restOf m.map.ffmt m.base (m.map.ofRank rank) m.pos
  | none => []

/-- The buffer bytes of a move's next granule. -/
def Move.granule (m : Move) : Option (Nat × Nat) :=
  m.rest.head?.map (fun x => (x.1, Nat.min x.2 (8 * (256 / frameBytes m.map.ffmt))))

/-- One move was ordered before another: at an earlier boundary, or as a write-back at the boundary of a load. -/
def Move.before (x m : Move) : Bool := decide (x.ord < m.ord) || (x.ord == m.ord && !x.load && m.load)

/-- A load waits for the earlier write-backs of its own request; each granule of it for an earlier write-back that has still to read
its buffer there; a restore for the automaton it takes to be stored (R437, R438). -/
def loadWaits (s : State) (d : DieId) (m : Move) : Bool :=
  s.allMoves.any (fun x => !x.load && x.before m && ((x.task == m.task && x.reqid == m.reqid)
    || (x.member.isSome && x.member.map (·.2) == m.member.map (·.2) &&
        m.granule.any (fun g => x.rest.any (fun r => decide (r.1 < g.1 + g.2) && decide (g.1 < r.1 + r.2))))))
  || (m.member.isNone && (s.aut d m.aut.val).saving)

/-- Pairs expanded into a member's buffer. -/
def expand (f : Nat) : List PByte → Nat → List PByte
  | _, 0 => []
  | b, n + 1 =>
    let w := frameBytes f
    let p := fromFrame f (bytesNat (b.take w))
    natBytes 8 (pairBits p) ++ expand f (b.drop w) n

/-- (+0, +0) from a position on, for every slice of a list that follows it; `pos` counts stored bytes. -/
def zeroRest (s : State) (core : CoreId) (f base : Nat) : List Slice → Nat → State
  | [], _ => s
  | x :: r, pos =>
    let n := frameBytes f * x.elems
    if n ≤ pos then zeroRest s core f base r (pos - n)
    else
      let e := pos / frameBytes f
      let s1 := s.write (.pool core) (base + 64 + x.offset + 8 * e) (natBytes (8 * (x.elems - e)) 0)
      zeroRest s1 core f base r 0

/-- The arrival a load makes when every byte is in place, whatever failed (R436, R439). -/
def endLoad (s : State) (d : DieId) (n : Nat) (m : Move) (rank : Nat) (k : CtxId) : State :=
  arrival (dropMove s d n) (coreOf k) m.base (m.map.rankBytes rank)

/-- The next 256 stored bytes of a slice load. -/
def loadGranule (s : State) (d : DieId) (n : Nat) (m : Move) (rank : Nat) (k : CtxId) : State :=
  let sl := m.map.ofRank rank
  match sliceAt m.map.ffmt sl m.pos with
  | none => endLoad s d n m rank k
  | some (x, o) =>
    let w := frameBytes m.map.ffmt
    let cnt := Nat.min 256 (w * x.elems - o)
    let va := x.addr + BitVec.ofNat 64 o
    let (dm, lk) := frameCost s d m.part accUnitRead va cnt
    if moveStops s m.part lk then s
    else
      let s1 := touchRange (countMoved (charge s m.part dm lk) d cnt) d m.part accUnitRead va cnt
      match frameRead s1 d m.part va cnt with
      | .error c => endLoad (zeroRest (moveFailed s1 m c) (coreOf k) m.map.ffmt m.base sl m.pos) d n m rank k
      | .ok b =>
        let s2 := s1.write (.pool (coreOf k)) (m.base + 64 + x.offset + 8 * (o / w)) (expand m.map.ffmt b (cnt / w))
        let m1 := { m with pos := m.pos + cnt }
        if (sliceAt m.map.ffmt sl m1.pos).isNone then endLoad s2 d n m1 rank k else setMove s2 d n m1

/-- The next 256 bytes of the restore of a grammar segment, which takes effect with the last of them (R436, R316). -/
def loadSegment (s : State) (d : DieId) (n : Nat) (m : Move) : State :=
  let va := m.map.gseg + BitVec.ofNat 64 m.pos
  let (dm, lk) := frameCost s d m.part accUnitRead va 256
  if moveStops s m.part lk then s
  else
    let s1 := touchRange (countMoved (charge s m.part dm lk) d 256) d m.part accUnitRead va 256
    match frameRead s1 d m.part va 256 with
    | .error c => (moveFailed (dropMove s1 d n) m c).setAut d m.aut.val { Automaton.unbound with part := some m.part }
    | .ok b =>
      let seg := m.seg ++ b
      if m.pos + 256 < 2048 then setMove s1 d n { m with pos := m.pos + 256, seg := seg }
      else
        let u := restoreAut s1 d m.part seg
        (touchReads (dropMove s1 d n) d m.part (if u.grammar.toNat % 64 = 0 then [(u.grammar, 64)] else [])).setAut d m.aut.val u

/-- Event FIRKIN_LOAD (R436): the next part of load `n` of a die's Firkin. -/
def execEvFirkinLoad (s : State) : Out :=
  let d := s.arg.die
  match (s.die d).moves[s.arg.n]? with
  | none => .next s
  | some m =>
    if !m.load || loadWaits s d m then .next s
    else match m.member with
      | some (rank, k) => .next (loadGranule s d s.arg.n m rank k)
      | none => .next (loadSegment s d s.arg.n m)

/-- Pairs compressed by to_frame (R70). -/
def compress (f : Nat) : List PByte → Nat → List PByte
  | _, 0 => []
  | b, n + 1 =>
    let v := bytesNat (b.take 8)
    natBytes (frameBytes f) (toFrame f (pairHi v) (pairLo v)).1 ++ compress f (b.drop 8) n

/-- The automaton of a segment that is stored, or cannot be, is freed: at once taken by the request that waits for it (R437). -/
def freeSaved (s : State) (d : DieId) (m : Move) : State :=
  let u := s.aut d m.aut.val
  if m.member.isSome then s
  else s.setAut d m.aut.val
    (if u.restoring then { Automaton.unbound with part := u.part, restoring := true } else Automaton.unbound)

/-- A write-back ends, whole or by a failure. -/
def endWb (s : State) (d : DieId) (n : Nat) (m : Move) : State := wbEnded (freeSaved (dropMove s d n) d m) m

/-- A write-back whose bytes are all written ends once its flits are acknowledged (R445; DEDUCED, log 121). -/
def tryEndWb (s : State) (d : DieId) (n : Nat) (m : Move) : State :=
  if unackedOf s (· == m.flits d) then setMove s d n m else endWb s d n m

/-- Bytes of a write-back written at an address, with the move at its next position; the write-back ends with its last byte, or with a
failure. -/
def wbStep (s : State) (d : DieId) (n : Nat) (m : Move) (va : Word) (b : List PByte) (last : Bool) : State :=
  match frameWrite s d (m.flits d) m.part va b with
  | .error c => endWb (moveFailed s m c) d n m
  | .ok s2 =>
    let m1 := { m with pos := m.pos + b.length }
    if last then tryEndWb s2 d n m1 else setMove s2 d n m1

/-- The next 256 stored bytes of a slice write-back, from the buffer as it stood at the boundary. -/
def wbGranule (s : State) (d : DieId) (n : Nat) (m : Move) (rank : Nat) : State :=
  let sl := m.map.ofRank rank
  match sliceAt m.map.ffmt sl m.pos with
  | none => tryEndWb s d n m
  | some (x, o) =>
    let w := frameBytes m.map.ffmt
    let cnt := Nat.min 256 (w * x.elems - o)
    let va := x.addr + BitVec.ofNat 64 o
    let (dm, lk) := frameCost s d m.part accUnitWrite va cnt
    if moveStops s m.part lk then s
    else
      let s1 := touchRange (countMoved (charge s m.part dm lk) d cnt) d m.part accUnitWrite va cnt
      let b := (m.seg.drop (8 * (m.pos / w))).take (8 * (cnt / w))
      if anyPoison b then endWb (moveFailed s1 m codePoison) d n m
      else wbStep s1 d n m va (compress m.map.ffmt b (cnt / w)) (sliceAt m.map.ffmt sl (m.pos + cnt)).isNone

/-- The next 256 bytes of the write-back of a grammar segment (R437). -/
def wbSegment (s : State) (d : DieId) (n : Nat) (m : Move) : State :=
  let va := m.map.gseg + BitVec.ofNat 64 m.pos
  let (dm, lk) := frameCost s d m.part accUnitWrite va 256
  if 2048 ≤ m.pos then tryEndWb s d n m
  else if moveStops s m.part lk then s
  else
    let s1 := touchRange (countMoved (charge s m.part dm lk) d 256) d m.part accUnitWrite va 256
    wbStep s1 d n m va ((m.seg.drop m.pos).take 256) (decide (2048 ≤ m.pos + 256))

/-- Event FIRKIN_WRITEBACK (R437): the next part of write-back `n` of a die's Firkin. -/
def execEvFirkinWriteback (s : State) : Out :=
  let d := s.arg.die
  match (s.die d).moves[s.arg.n]? with
  | none => .next s
  | some m =>
    if m.load then .next s
    else match m.member with
      | some (rank, _) => .next (wbGranule s d s.arg.n m rank)
      | none => .next (wbSegment s d s.arg.n m)

/-! ## Records written back (R294, R437) -/

/-- A record is written to its place in device memory; the write is lost when it cannot be made. -/
def writeRecord (s : State) (d : DieId) (p : Fin 16) (addr : Word) (r : Record) : State :=
  unitStore s d p addr (pbytes false (recordBytes r))

/-- An entry leaves its table; its GEN is kept for a reuse of the REQID (R293). -/
def removeReq (s : State) (d : DieId) (i : Nat) (e : ReqEntry) : State :=
  s.modDie d (fun x => { x with
    table := x.table.eraseIdx i
    gens := (e.record.reqid, e.record.gen) :: x.gens.filter (fun g => g.1 != e.record.reqid) })

/-- An entry's record is written back, and the entry leaves when that was all it stayed for. -/
def settleReq (s : State) (d : DieId) (i : Nat) (e : ReqEntry) (p : Fin 16) : State :=
  let s1 := match e.wb with | some r => writeRecord s d p e.addr r | none => s
  if e.leave then removeReq s1 d i e else s1.setReq d i { e with wb := none }

/-- Event RECORD_WRITEBACK (R294): entry `n` of a die's table, once Firkin's write-backs for it have ended. -/
def execEvRecordWriteback (s : State) : Out :=
  let d := s.arg.die
  match (s.die d).table[s.arg.n]? with
  | none => .next s
  | some e =>
    if e.wb.isSome && e.pendingWb == 0 then
      .next (settleReq s d s.arg.n e (((s.taskAt e.task).map (·.part)).getD 0))
    else .next s

end Sys2Proof.Machine
end

