-- ==== Sys2Proof/Machine/Bushel.lean ====
section
/-!
DEFINITION. Bushel, the batch former: the STEP packets (R406, R317), the step boundary with retirement, eviction, admission and the
step parameter blocks (R49 to R52, R294 to R299, R304, R407 to R409), and the disposal of an ended task's records (R469).
-/
namespace Sys2Proof.Machine

/-! ## States of a record (R293) -/

def stIdle : BitVec 8 := 0
def stReady : BitVec 8 := 1
def stAdmitted : BitVec 8 := 2
def stStopped : BitVec 8 := 3
def stFaulted : BitVec 8 := 4

/-- Deadline class of a request. -/
def Record.isDlc (r : Record) : Bool := r.prio.getLsbD 7
/-- Priority class. -/
def Record.cls (r : Record) : Nat := fldN r.prio 0 3

/-- The clock moves on, so that later moments of becoming ready are later (R407). -/
def State.later (s : State) : State := { s with clock := s.clock + 1 }

/-! ## STEP packets (R406) -/

/-- TEMP lies within the limits of R293. -/
def tempOk (t : BitVec 32) : Bool := decide (fldN t 0 31 ≤ 0x7F800000) && (t == 0x80000000 || !t.getLsbD 31)
/-- TOPP lies within them. -/
def toppOk (t : BitVec 32) : Bool := decide (fldN t 0 31 ≤ 0x7F800000) && !t.getLsbD 31 && t != 0

/-- The step-program task of a queue that a TASKID names: placed or pending, and not past its end (R406, R469). -/
def stepTaskOf (s : State) (q : Fin 32) (id : BitVec 32) : Option (Nat × Task) :=
  ((List.range s.tasks.length).zip s.tasks).find? (fun x =>
    x.2.q == q && x.2.taskid == id && x.2.stepp && !x.2.warm && !x.2.orphan && !x.2.over && !x.2.ended && x.2.st != .ending)

/-- An automaton context is freed. -/
def freeAut (s : State) (g : BitVec 16) : State :=
  if g.getLsbD 15 then s.setAut (Fin.ofNat 2 (fldN g 9 1)) (fldN g 0 9) Automaton.unbound else s

/-- A table without an entry. -/
def dropReq (s : State) (d : DieId) (i : Nat) : State := s.modDie d (fun x => { x with table := x.table.eraseIdx i })

/-- A new entry of a table. -/
def newReq (s : State) (t : Nat) (addr : Word) (r : Record) (m : FrameMap) (pend : Nat) : ReqEntry :=
  { record := r, addr := addr, task := t, map := m, slot := none, ntok := 0, roff := 0, posDone := false, posStart := r.pos,
    stopMark := false, faultMark := false, cancelled := false, readyAt := s.clock, since := 0, buf := 0, stops := [],
    pendingWb := pend, wb := none, leave := false }

/-- Write-backs already ordered for a request that a newer record takes the place of: they go on for the new one's task, and their
failures mark nothing (R317, R438). -/
def carryMoves (s : State) (id : BitVec 32) (old new : Nat) : State :=
  [0, 1].foldl (fun s (d : DieId) => s.modDie d (fun x => { x with moves := x.moves.map (fun m =>
    if m.task = old ∧ m.reqid = id then { m with task := new, discarded := true } else m) })) s

/-- The walks that reading a request's record and frame map makes (R422, R424). -/
def touchCreate (s : State) (d : DieId) (t : Task) (addr : Word) : State :=
  let p := t.part
  let s1 := touchRange (touchImages s d t) d p accDevRead addr 128
  match cleanBytes s1 d p addr 128 with
  | none => s1
  | some b =>
    let r := parseRecord b
    let s2 := touchRange s1 d p accDevRead r.frame 64
    match cleanBytes s2 d p r.frame 64 with
    | none => s2
    | some h => touchRange s2 d p accDevRead (r.frame + 64) (32 * fieldAt h 6 2)

/-- CREATE (R406, R317): none when it is refused. A record that takes the place of a resident one with a smaller MGEN keeps the GEN it
brings (DESIGN CHOICE, log 118). -/
def createReq (s : State) (n : Nat) (t : Task) (addr : Word) : Option State := do
  let d := dieOf t.first
  let b ← if addr.toNat % 64 = 0 then cleanBytes s d t.part addr 128 else none
  let r := parseRecord b
  if !(decide (r.state.toNat ≤ 1) && tempOk r.temp && toppOk r.topp) then none
  else do
    let m ← readMap s d t r
    if !regionFits s d t m then none
    else
      let put := fun (s : State) (r : Record) (pend : Nat) =>
        (s.modDie d (fun x => { x with table := x.table ++ [newReq s n addr r m pend] })).later
      match findEntry (fun e => e.record.reqid == r.reqid) (s.die d).table 0 with
      | some (i, e) =>
        if r.mgen.toNat ≤ e.record.mgen.toNat || e.slot.isSome then none
        else some (put (carryMoves (dropReq (freeAut s e.record.gctx) d i) r.reqid e.task n) r e.pendingWb)
      | none =>
        if 2048 ≤ (s.die d).table.length then none
        else match (s.die d).gens.find? (fun g => g.1 == r.reqid) with
          | some g => some (put s { r with gen := g.2 + 1 } 0)
          | none => some (put s r 0)

/-- The entry an op names: a request of the task that is not on its way out. -/
def namedReq (s : State) (n : Nat) (id : BitVec 32) : Option (DieId × Nat × ReqEntry) :=
  s.findReq (fun e => e.task == n && e.record.reqid == id && !e.leave)

/-- READY: none when it is refused. -/
def readyReq (s : State) (n : Nat) (id plen : BitVec 32) : Option State :=
  match namedReq s n id with
  | none => none
  | some (d, i, e) =>
    let r := e.record
    if (r.state = stIdle ∨ r.state = stStopped) ∧ r.pos.toNat + 1 ≤ plen.toNat ∧ plen.toNat ≤ r.maxlen.toNat then
      some (s.setReq d i { e with readyAt := s.clock, record := { r with state := stReady, plen := plen, stopr := 0 } }).later
    else none

/-- CANCEL. -/
def cancelReq (s : State) (n : Nat) (id : BitVec 32) : Option State :=
  match namedReq s n id with
  | none => none
  | some (d, i, e) =>
    if e.record.state = stReady then some (s.setReq d i { e with record := { e.record with state := stIdle } })
    else if e.record.state = stAdmitted then some (s.setReq d i { e with cancelled := true })
    else none

/-- REMOVE: written back at once unless write-backs of its frame are still to end. -/
def removeNamed (s : State) (n : Nat) (p : Fin 16) (id : BitVec 32) : Option State :=
  match namedReq s n id with
  | none => none
  | some (d, i, e) =>
    if e.record.state = stIdle ∨ e.record.state = stStopped ∨ e.record.state = stFaulted then
      let e1 := { e with wb := some e.record, leave := true }
      if e.pendingWb = 0 then some (settleReq s d i e1 p) else some (s.setReq d i e1)
    else none

/-- A STEP packet acts on its task's requests, or the status record receives STEP_REFUSED and nothing changes. Updates of one table
come in the order of R456. -/
def stepPacket (q : Fin 32) (act : State → Nat → Task → Packet → Option State) (s : State) (p : Packet) : State :=
  match stepTaskOf s q p.arg with
  | some (n, t) =>
    match act s n t p with
    | some s1 => s1.contended (.table (dieOf t.first))
    | none => writeStatus s q codeSREF p.place
  | none => writeStatus s q codeSREF p.place

/-- REQID of a STEP packet. -/
def Packet.reqid (p : Packet) : BitVec 32 := fld (p.word 2) 0 32

/-- Event CREATE (R406): OP 0. OP 5 to 7 are refused by whichever STEP event reads them. -/
def execEvCreate (s : State) : Out :=
  .next (packetEvent s s.arg.hq [.create, .badStep] (fun s0 p =>
    let s := match stepTaskOf s0 s0.arg.hq p.arg with
      | some (_, t) => if p.kind = .badStep then s0 else touchCreate s0 (dieOf t.first) t (p.word 1)
      | none => s0
    stepPacket s.arg.hq (fun s n t p => if p.kind = .badStep then none else createReq s n t (p.word 1)) s p))

/-- Event READY (R406): OP 1. -/
def execEvReady (s : State) : Out :=
  .next (packetEvent s s.arg.hq [.ready, .badStep] (stepPacket s.arg.hq (fun s n _ p =>
    if p.kind = .badStep then none else readyReq s n p.reqid (fld (p.word 2) 32 32))))

/-- Event CANCEL (R406): OP 2. -/
def execEvCancel (s : State) : Out :=
  .next (packetEvent s s.arg.hq [.cancel, .badStep] (stepPacket s.arg.hq (fun s n _ p =>
    if p.kind = .badStep then none else cancelReq s n p.reqid)))

/-- Event REMOVE (R406): OP 3. -/
def execEvRemove (s : State) : Out :=
  .next (packetEvent s s.arg.hq [.remove, .badStep] (stepPacket s.arg.hq (fun s n t p =>
    if p.kind = .badStep then none else removeNamed s n t.part p.reqid)))

/-- Event END (R406): OP 4. -/
def execEvEnd (s : State) : Out :=
  .next (packetEvent s s.arg.hq [.stop, .badStep] (stepPacket s.arg.hq (fun s n t p =>
    if p.kind = .badStep then none else some (s.setTask n { t with endReq := true }))))

/-! ## Requests of a task -/

/-- The requests of a task on its die, with their places. -/
def reqsOf (s : State) (n : Nat) (d : DieId) : List (Nat × ReqEntry) :=
  ((List.range (s.die d).table.length).zip (s.die d).table).filter (fun x => x.2.task == n && !x.2.leave)

/-- The admitted ones. -/
def admittedOf (s : State) (n : Nat) (d : DieId) : List (Nat × ReqEntry) := (reqsOf s n d).filter (·.2.slot.isSome)

/-- NTOK of the next step, with PREFILL (R299). -/
def nextTok (t : Task) (r : Record) : Nat × Bool :=
  if r.pos.toNat + 1 < r.plen.toNat then (Nat.min (r.plen.toNat - r.pos.toNat) t.chunk, true) else (1 + r.draft.toNat, false)

/-- Rows of a list of requests. -/
def rowsOf (t : Task) (l : List (Nat × ReqEntry)) : Nat := (l.map (fun x => (nextTok t x.2.record).1)).sum

/-- The first of a list in a strict order. -/
def firstBy {α : Type} (lt : α → α → Bool) : List α → Option α
  | [] => none
  | x :: r => match firstBy lt r with
    | none => some x
    | some y => if lt y x then some y else some x

/-- A list sorted by a strict order, at most `n` places of it. -/
def sortBy {α : Type} [DecidableEq α] (lt : α → α → Bool) : Nat → List α → List α
  | 0, _ => []
  | n + 1, l => match firstBy lt l with
    | none => []
    | some x => x :: sortBy lt n (l.erase x)

/-- Lexicographic order of keys. -/
def lexLt : List Nat → List Nat → Bool
  | x :: r, y :: q => decide (x < y) || (x == y && lexLt r q)
  | _, _ => false

/-- A request's key in the admission order (R407). -/
def admKey (e : ReqEntry) : List Nat :=
  let r := e.record
  [if r.isDlc then 0 else 1, 7 - r.cls, if r.deadline = 0 then 2 ^ 64 else r.deadline.toNat, e.readyAt, r.reqid.toNat]

/-- A request's key in the eviction order (R407): least recent residency first, then the higher REQID. -/
def evKey (e : ReqEntry) : List Nat := [e.record.cls, e.since, 2 ^ 32 - e.record.reqid.toNat]

/-- Requests in an order of keys. -/
def inOrder (key : ReqEntry → List Nat) (l : List (Nat × ReqEntry)) : List (Nat × ReqEntry) :=
  sortBy (fun x y => lexLt (key x.2) (key y.2)) l.length l

/-! ## Leaving a slot (R304, R408, R437) -/

/-- Context of a member by rank. -/
def Task.member (t : Task) (rank : Nat) : CtxId := ctxAt (ringAt t.first rank) t.ctx

/-- The ranks of a task that hold slices of a frame. -/
def sliceRanks (t : Task) (m : FrameMap) : List Nat := (List.range t.gsize).filter (fun r => !(m.ofRank r).isEmpty)

/-- A move is ordered on a die's Firkin. -/
def orderMove (s : State) (d : DieId) (m : Move) : State := s.modDie d (fun x => { x with moves := x.moves ++ [m] })

/-- The pairs of a rank's slices in a buffer. -/
def bufferBytes (s : State) (k : CtxId) (m : FrameMap) (rank base : Nat) : List PByte :=
  (m.ofRank rank).flatMap (fun x => s.read (.pool (coreOf k)) (base + 64 + x.offset) (8 * x.elems))

/-- The move of one member's slices: a write-back takes the buffer as it stands at the boundary (R437). -/
def sliceMove (s : State) (n : Nat) (t : Task) (e : ReqEntry) (load : Bool) (slot rank : Nat) : Move :=
  let k := t.member rank
  let base := bufferAt (s.ctx k) e.map slot e.buf
  { load := load, reqid := e.record.reqid, task := n, slot := slot, base := base, map := e.map, part := t.part,
    member := some (rank, k), seg := if load then [] else bufferBytes s k e.map rank base, aut := 0, pos := 0, ord := s.clock,
    discarded := false }

/-- The move of a request's grammar segment. -/
def segmentMove (s : State) (n : Nat) (t : Task) (e : ReqEntry) (load : Bool) (slot : Nat) (aut : Fin 512) (seg : List PByte) : Move :=
  { load := load, reqid := e.record.reqid, task := n, slot := slot, base := 0, map := e.map, part := t.part, member := none,
    seg := seg, aut := aut, pos := 0, ord := s.clock, discarded := false }

/-- The restore of an automaton is given up. -/
def dropRestore (s : State) (d : DieId) (g : Nat) : State :=
  s.modDie d (fun x => { x with moves := x.moves.filter (fun m => !(m.load && m.member.isNone && m.aut.val == g)) })

/-- The write-back of a leaving request's automaton, which is freed once it is stored (R437); nothing is saved of one still being
restored, which is left to the write-back it waits for, or free. -/
def leaveAut (s : State) (n : Nat) (t : Task) (e : ReqEntry) (slot : Nat) : State × Nat :=
  let g := fldN e.record.gctx 0 9
  if !e.record.gctx.getLsbD 15 then (s, 0)
  else
    let d : DieId := Fin.ofNat 2 (fldN e.record.gctx 9 1)
    let a := s.aut d g
    if a.restoring then
      let s1 := dropRestore s d g
      (if a.saving then s1.setAut d g { a with restoring := false } else freeAut s1 e.record.gctx, 0)
    else
      (orderMove ((s.drawn 2048).setAut d g { a with saving := true }) d
        (segmentMove s n t e false slot (Fin.ofNat 512 g) (segmentBytes s.fresh a)), 1)

/-- A request leaves its slot with a new record: its frame and automaton are written back, then the record. -/
def leaveSlot (s : State) (n : Nat) (t : Task) (d : DieId) (i : Nat) (e : ReqEntry) (r : Record) : State :=
  match e.slot with
  | none => s
  | some slot =>
    let ranks := sliceRanks t e.map
    let s1 := ranks.foldl (fun s k => orderMove s (dieOf (coreOf (t.member k))) (sliceMove s n t e false slot k)) s
    let (s2, segs) := leaveAut s1 n t e slot
    let r1 := { r with gctx := 0 }
    s2.setReq d i { e with
      record := r1, wb := some r1, slot := none, stopMark := false, faultMark := false, cancelled := false,
      pendingWb := e.pendingWb + ranks.length + segs, readyAt := s.clock }

/-- The output rows of a faulted slot are written +0 (R304). -/
def zeroRows (s : State) (d : DieId) (t : Task) (e : ReqEntry) : State :=
  if t.obase = 0 then s
  else unitStore s d t.part (t.obase + BitVec.ofNat 64 (e.roff * t.orow)) (natBytes (e.ntok * t.orow) 0)

/-- Step 1 of R408 for one admitted request (R304, R406). -/
def retireReq (n : Nat) (t : Task) (d : DieId) (s : State) (x : Nat × ReqEntry) : State :=
  let e := x.2
  let r := e.record
  if e.faultMark then leaveSlot (zeroRows s d t e) n t d x.1 e { r with state := stFaulted, pos := e.posStart }
  else if e.stopMark then leaveSlot s n t d x.1 e { r with state := stStopped }
  else if e.cancelled then leaveSlot s n t d x.1 e { r with state := stStopped, stopr := 5 }
  else s

/-- An admitted request is evicted and becomes ready. -/
def evictReq (n : Nat) (t : Task) (d : DieId) (s : State) (x : Nat × ReqEntry) : State :=
  leaveSlot s n t d x.1 x.2 { x.2.record with state := stReady }

/-! ## Admission (R408, R409) -/

/-- Step 2 of R408: requests evicted in eviction order until the rows fit. -/
def shrink (n : Nat) (t : Task) (d : DieId) : List (Nat × ReqEntry) → State → State
  | [], s => s
  | x :: r, s =>
    if rowsOf t (admittedOf s n d) ≤ t.rowlim then s
    else shrink n t d r (evictReq n t d s x)

/-- The die that holds the automata of a gang (R391, R408). -/
def Task.autDie (t : Task) : DieId := dieOf (coreOf (t.member t.srank))

/-- Automaton contexts of a die that a request may take: the free ones, then those that come free once Firkin has stored them
(R437), lowest first. -/
def freeAuts (s : State) (d : DieId) : List (Fin 512) :=
  (List.finRange 512).filter (fun i => (s.aut d i.val).part.isNone)
    ++ (List.finRange 512).filter (fun i => (s.aut d i.val).saving && !(s.aut d i.val).restoring)

/-- A candidate fits beside some admitted requests, when `freed` automata come free. -/
def fits (s : State) (t : Task) (adm : List (Nat × ReqEntry)) (freed : Nat) (e : ReqEntry) : Bool :=
  decide (adm.length < t.maxslots) && decide (rowsOf t adm + (nextTok t e.record).1 ≤ t.rowlim)
    && (e.record.grammar == 0 || decide (0 < (freeAuts s t.autDie).length + freed))

/-- The evictions, in order, that make room for a candidate: none when no number of them does. -/
def victimsFor (s : State) (t : Task) (e : ReqEntry) (adm : List (Nat × ReqEntry)) (freed : Nat) :
    List (Nat × ReqEntry) → Option (List (Nat × ReqEntry))
  | [] => if fits s t adm freed e then some [] else none
  | v :: r =>
    if fits s t adm freed e then some []
    else
      let f := if v.2.record.gctx.getLsbD 15 then freed + 1 else freed
      (victimsFor s t e (adm.erase v) f r).map (fun l => v :: l)

/-- The lowest vacant slot. -/
def vacantSlot (adm : List (Nat × ReqEntry)) (maxslots : Nat) : Option Nat :=
  (List.range maxslots).find? (fun i => !adm.any (fun x => x.2.slot == some i))

/-- The used entries of a stop set (R293). -/
def stopTokens (b : List PByte) : List (BitVec 32) :=
  ((List.range 16).map (fun i => BitVec.ofNat 32 (fieldAt b (4 * i) 4))).filter (fun x => x != 0xFFFFFFFF)

/-- The stop set read at admission, or the code of its failure (R294). -/
def readStops (s : State) (d : DieId) (p : Fin 16) (ptr : Word) : Except (BitVec 8) (List (BitVec 32)) :=
  if ptr = 0 then .ok [] else (frameRead s d p ptr 64).map stopTokens

/-- A request takes a slot: GCTX, stop set, live buffer, and the loads of its frame and automaton (R294, R409, R435, R436). -/
def admitReq (s : State) (n : Nat) (t0 : Task) (d : DieId) (i : Nat) (e : ReqEntry) (slot : Nat) : State :=
  let t := (s.taskAt n).getD t0
  let buf := match t.slotBuf.getD slot none with | some b => 1 - b | none => 0
  let s1 := (if e.record.stopset = 0 then s else touchRange s d t.part accUnitRead e.record.stopset 64).setTask n { t with slotBuf := ((t.slotBuf ++ List.replicate 256 none).take 256).set slot (some buf) }
  let ad := t.autDie
  let aut := if e.record.grammar = 0 then none else (freeAuts s ad).head?
  let gctx : BitVec 16 := match aut with | some a => BitVec.ofNat 16 (2 ^ 15 + 512 * ad.val + a.val) | none => 0
  let e1 := { e with
    slot := some slot, since := t.steps + 1, buf := buf, stopMark := false, faultMark := false, cancelled := false
    record := { e.record with state := stAdmitted, gctx := gctx } }
  let e2 := match readStops s d t.part e.record.stopset with
    | .ok l => { e1 with stops := l }
    | .error c => { e1 with stops := [] }.markFault c
  let s2 := (sliceRanks t e.map).foldl
    (fun s k => orderMove s (dieOf (coreOf (t.member k))) (sliceMove s n t e1 true slot k)) (s1.setReq d i e2)
  match aut with
  | none => s2
  | some a =>
    let u := s2.aut ad a.val
    orderMove (s2.setAut ad a.val { (if u.saving then u else Automaton.unbound) with part := some t.part, restoring := true }) ad
      (segmentMove s2 n t e1 true slot a [])

/-- One candidate of step 3 of R408. -/
def tryAdmit (n : Nat) (t : Task) (d : DieId) (s : State) (x : Nat × ReqEntry) : State :=
  let adm := admittedOf s n d
  let lower := inOrder evKey (adm.filter (fun v => decide (v.2.record.cls < x.2.record.cls) && !v.2.record.isDlc))
  match victimsFor s t x.2 adm 0 lower with
  | none => s
  | some vs =>
    let s1 := vs.foldl (evictReq n t d) s
    match vacantSlot (admittedOf s1 n d) t.maxslots with
    | some slot => admitReq s1 n t d x.1 x.2 slot
    | none => s1

/-! ## The step parameter block (R295 to R298) -/

/-- FBAR of a slot on a member: a scratchpad-window pointer to its live buffer's barrier (R435). -/
def fbarOf (s : State) (k : CtxId) (e : ReqEntry) (slot : Nat) : Word :=
  scrPtr (coreOf k) (BitVec.ofNat 64 (bufferAt (s.ctx k) e.map slot e.buf))

/-- A slot's entry of the block; `isNew` tells a request admitted at this boundary. -/
def slotBytes (s : State) (n : Nat) (t : Task) (k : CtxId) (adm : List (Nat × ReqEntry)) (isNew : ReqEntry → Bool)
    (roff slot : Nat) : List PByte :=
  match adm.find? (fun x => x.2.slot == some slot) with
  | none => natBytes 8 (0xFFFFFFFF + roff * 2 ^ 48) ++ freeBytes n 32
  | some (_, e) =>
    let r := e.record
    let (nt, pre) := nextTok t r
    let flags := (if isNew e then 1 else 0) + (if pre then 2 else 0) + (if r.isDlc then 4 else 0)
    natBytes 4 r.reqid.toNat ++ natBytes 2 nt ++ natBytes 2 roff ++ natBytes 8 r.kvpl.toNat ++ natBytes 8 r.frame.toNat
      ++ natBytes 8 (fbarOf s k e slot).toNat ++ natBytes 2 r.gctx.toNat ++ natBytes 2 flags ++ freeBytes n 4

/-- Rows of a slot in the step to come. -/
def slotRows (t : Task) (adm : List (Nat × ReqEntry)) (slot : Nat) : Nat :=
  match adm.find? (fun x => x.2.slot == some slot) with | some (_, e) => (nextTok t e.record).1 | none => 0

/-- First ragged row of a slot (R297). -/
def slotRoff (t : Task) (adm : List (Nat × ReqEntry)) (slot : Nat) : Nat := ((List.range slot).map (slotRows t adm)).sum

/-- The block of a member. -/
def blockBytes (s : State) (t : Task) (k : CtxId) (adm : List (Nat × ReqEntry)) (isNew : ReqEntry → Bool) (stepn nslots : Nat) :
    List PByte :=
  let rows := slotRoff t adm nslots
  natBytes 8 stepn ++ natBytes 2 nslots ++ natBytes 2 rows ++ natBytes 4 (64 + 40 * nslots) ++ natBytes 8 t.obase.toNat
    ++ natBytes 4 t.orow ++ freeBytes s.fresh 36
    ++ (List.range nslots).flatMap (fun i => slotBytes s (s.fresh + 36 + 32 * i) t k adm isNew (slotRoff t adm i) i)
    ++ (List.range nslots).flatMap (fun i => (List.replicate (slotRows t adm i) (natBytes 2 i)).flatten)

/-- A load of a request's slices on a member has not ended. -/
def stillLoading (s : State) (n : Nat) (e : ReqEntry) (k : CtxId) : Bool :=
  s.allMoves.any (fun m => m.load && m.task == n && m.reqid == e.record.reqid && (m.member.map (·.2)) == some k)

/-- FBAR of one slot on one member is left ready (R298): armed for a new slice, idle with PHASE 1 for one in place or for none,
and left alone while an earlier load runs. -/
def readyBar (n : Nat) (t : Task) (rank : Nat) (isNew : ReqEntry → Bool) (s : State) (x : Nat × ReqEntry) : State :=
  let e := x.2
  let k := t.member rank
  match e.slot with
  | none => s
  | some slot =>
    let o := bufferAt (s.ctx k) e.map slot e.buf
    let bytes := e.map.rankBytes rank
    if bytes = 0 then writeBar s (coreOf k) o (barMake 1 0 0 0)
    else if isNew e then writeBar s (coreOf k) o (barMake 0 1 bytes bytes)
    else if stillLoading s n e k then s
    else writeBar s (coreOf k) o (barMake 1 0 0 0)

/-- The step's registers and block of one member. -/
def stageMember (n : Nat) (t : Task) (adm : List (Nat × ReqEntry)) (isNew : ReqEntry → Bool) (stepn nslots : Nat) (s : State)
    (rank : Nat) : State :=
  let k := t.member rank
  let s1 := adm.foldl (readyBar n t rank isNew) s
  let s2 := s1.write (.pool (coreOf k)) (s1.ctx k).scrStart (blockBytes s1 t k adm isNew stepn nslots)
  (s2.drawn (36 + 32 * nslots)).modCtx k (fun c => { c with csr := { c.csr with
    stepn := BitVec.ofNat 64 stepn, nslots := BitVec.ofNat 9 nslots, ragbase := BitVec.ofNat 22 (64 + 40 * nslots) } })

/-- A request's rows of the step to come (R297, R299, R301, R304). -/
def startRows (t : Task) (adm : List (Nat × ReqEntry)) (d : DieId) (s : State) (x : Nat × ReqEntry) : State :=
  let e := x.2
  match e.slot with
  | none => s
  | some slot => s.setReq d x.1 { e with
      ntok := (nextTok t e.record).1, roff := slotRoff t adm slot, posDone := false, posStart := e.record.pos }

/-- Every member leaves its gbar.step with its acquire, of Bushel's writes too (R133); one that a handler keeps from it returns when it
executes it again (R49, R176). -/
def releaseStep (s : State) (n : Nat) (t : Task) : State :=
  let s1 := gangAcquires (s.setTask n { t with gen := t.gen + 1 }) n t.members [s.latest .unit]
  t.members.foldl (fun s k => s.modCtx k (fun c =>
    match c.run with
    | .waiting (.gbarStep r) => { c with arr := false, arrStep := false }.setReg r c.stepStatus |>.goOn
    | _ => { c with arr := false, arrStep := false, arrDone := true })) s1

/-! ## The boundary (R49, R51, R408, R409, R469) -/

/-- Every member has arrived by gbar.step. -/
def stepArrived (s : State) (t : Task) : Bool :=
  t.stepp && decide (t.st = .released) && t.members.all (fun k => (s.ctx k).arr && (s.ctx k).arrStep)

/-- Loads of a task that has ended are abandoned (R438). -/
def abandonLoads (s : State) (n : Nat) : State :=
  [0, 1].foldl (fun s (d : DieId) => s.modDie d (fun x => { x with moves := x.moves.filter (fun m => !(m.load && m.task == n)) })) s

/-- Every record of a task is to be written back and to leave its table (R469). -/
def disposeAll (s : State) (n : Nat) : State :=
  [0, 1].foldl (fun s (d : DieId) => s.modDie d (fun x => { x with
    table := x.table.map (fun e => if e.task = n then { e with wb := some e.record, leave := true } else e) })) s

/-- The boundary that ends the task: status 1 and NSLOTS 0 (R51, R469). -/
def endTask (s : State) (n : Nat) (t : Task) (d : DieId) : State :=
  let s1 := (admittedOf s n d).foldl (evictReq n t d) s
  let s2 := abandonLoads (disposeAll s1 n) n
  let t2 := { (s2.taskAt n).getD t with ended := true }
  let s3 := t.members.foldl (fun s k => s.modCtx k (fun c => { c with ended := true, csr := { c.csr with nslots := 0 } })) s2
  releaseStep s3 n t2

/-- A step begins: blocks, registers, barriers, and the release. `before` are the REQIDs that held slots already. -/
def beginStep (s : State) (n : Nat) (d : DieId) (before : List (BitVec 32)) (t : Task) : State :=
  let adm := admittedOf s n d
  let isNew := fun (e : ReqEntry) => !before.contains e.record.reqid
  let nslots := (adm.map (fun x => match x.2.slot with | some i => i + 1 | none => 0)).foldl Nat.max 0
  let stepn := (s.ctx (t.member 0)).csr.stepn.toNat + 1
  let s1 := adm.foldl (startRows t adm d) s
  let s2 := (List.range t.gsize).foldl (stageMember n t adm isNew stepn nslots) s1
  releaseStep s2 n { t with steps := t.steps + 1 }

/-- Event STEP_BOUNDARY (R408), of the task the argument names. While nothing is admitted the release is withheld (R51). -/
def execEvStepBoundary (s : State) : Out :=
  let n := s.arg.task
  match s.taskAt n with
  | none => .next s
  | some t =>
    if !stepArrived s t then .next s
    else
      let d := dieOf t.first
      let s0 := hearAt s .unit 3 (s.relsOn (.gang n))
      let s1 := (admittedOf s0 n d).foldl (retireReq n t d) s0
      if t.endReq then .next (endTask s1 n t d)
      else
        let staying := admittedOf s1 n d
        let s2 := shrink n t d (inOrder evKey (staying.filter (fun x => !x.2.record.isDlc))) s1
        let kept := (admittedOf s2 n d).map (fun x => x.2.record.reqid)
        let ready := inOrder admKey ((reqsOf s2 n d).filter (fun x => x.2.slot.isNone && x.2.record.state == stReady))
        let s3 := (ready.foldl (tryAdmit n t d) s2).later
        if (admittedOf s3 n d).isEmpty then .next s3
        else .next (beginStep s3 n d kept ((s3.taskAt n).getD t))

/-! ## A killed task's records (R469) -/

/-- The automaton of a killed request is freed, or left to the write-back it waits for. -/
def killAut (s : State) (g : BitVec 16) : State :=
  let d : DieId := Fin.ofNat 2 (fldN g 9 1)
  let u := s.aut d (fldN g 0 9)
  if g.getLsbD 15 && u.saving then s.setAut d (fldN g 0 9) { u with restoring := false } else freeAut s g

/-- The requests of a killed task: admitted ones become faulted with FCODE 0x26 unless a mark stands already (R303, R304), their
automata freed; all are written back and leave. -/
def killRecords (s : State) (n : Nat) : State :=
  let kill := fun (s : State) (d : DieId) =>
    (admittedOf s n d).foldl (fun s x =>
      let e := x.2.markFault 0x26
      (killAut s e.record.gctx).setReq d x.1 { e with
        slot := none, stopMark := false, faultMark := false, cancelled := false
        record := { e.record with state := stFaulted, gctx := 0 } }) s
  abandonLoads (disposeAll (kill (kill s 0) 1) n) n

/-- Bushel's tables hold no record of a task. -/
def tablesClear (s : State) (n : Nat) : Bool := [0, 1].all (fun (d : DieId) => !(s.die d).table.any (fun e => e.task == n))

end Sys2Proof.Machine
end

