-- ==== Sys2Proof/Machine/Launch.lean ====
section
/-!
DEFINITION. The life of a task (R22 to R25, R391 to R404, R469): decision and refusal, candidates and victims, placement, release,
completion, kill, pre-emption by checkpoint, and firmware's answers to an escalation; the reclaim of lent cores (R414 to R416).
-/
namespace Sys2Proof.Machine

/-! ## Tasks -/

/-- A task counts as deadline class: DLC, or the PRELOAD form of a radio task (R398, R415). -/
def Task.dlcLike (t : Task) : Bool := t.dlc || t.preload

/-- It holds contexts. -/
def Task.onCores (t : Task) : Bool := match t.st with | .placed | .released | .preempting => true | _ => false

/-- It waits in the pending list (R399). -/
def Task.inList (t : Task) : Bool := match t.st with | .pending | .checkpointed => true | _ => false

/-- The decision time (R397). -/
def Task.decidedAt (t : Task) : Nat := t.stamp.toNat + 1500

/-- The state with a task changed by a function. -/
def State.modTask (s : State) (n : Nat) (f : Task → Task) : State :=
  match s.taskAt n with
  | some t => s.setTask n (f t)
  | none => s

/-- Tasks with their numbers. -/
def State.numbered (s : State) : List (Nat × Task) := (List.range s.tasks.length).zip s.tasks

/-- A task leaves the pending list. -/
def unlist (s : State) (n : Nat) : State := { s with pendingList := s.pendingList.filter (· != n) }

/-- One task comes before another in the pending list: PTOK, decision time, queue (R397, R399). -/
def beforeInList (a b : Task) : Bool :=
  decide (b.ptok < a.ptok) || (a.ptok == b.ptok && (decide (a.stamp.toNat < b.stamp.toNat) || (a.stamp == b.stamp && decide (a.q < b.q))))

/-- A task's number put into the pending list at its place. -/
def insertTask (s : State) (n : Nat) (t : Task) : List Nat → List Nat
  | [] => [n]
  | m :: r =>
    match s.taskAt m with
    | some u => if beforeInList t u then n :: m :: r else m :: insertTask s n t r
    | none => m :: insertTask s n t r

/-- A task joins the pending list. -/
def enlist (s : State) (n : Nat) (t : Task) : State := { s with pendingList := insertTask s n t (s.pendingList.filter (· != n)) }

/-- The queue whose LAUNCH a task is goes on (R388). -/
def unblockLaunch (s : State) (n : Nat) (t : Task) : State :=
  match (s.hq t.q).block with
  | .launch m => if m = n then s.setHq t.q { s.hq t.q with block := .none } else s
  | _ => s

/-- The completion record (R396), written by the die of the gang's first core (R401): STATUS and REASON, then VALUE with a release at
SYS scope. -/
def writeCompletion (s : State) (t : Task) (status : Nat) : State :=
  if t.compl = 0 then s
  else
    let d := dieOf t.first
    let s1 := unitStore s d t.part (t.compl + 8) (natBytes 2 (status + 256 * t.reason.toNat) ++ freeBytes s.fresh 6)
    (unitRecord s1 d t.part t.compl (natBytes 8 t.complval.toNat)).drawn 6

/-- LAUNCH_REFUSAL (R396). -/
def refuseTask (s : State) (n : Nat) (reason : Nat) : State :=
  match s.taskAt n with
  | none => s
  | some t =>
    let t1 := { t with st := .refused, reason := BitVec.ofNat 8 reason, want := none }
    let s1 := writeCompletion (unlist (s.setTask n t1) n) t1 2
    let s2 := if t.orphan then s1 else writeStatus s1 t.q codeLREF { level := t.level, ring := t.ring, at_ := some t.whereAt }
    unblockLaunch s2 n t1

/-! ## Images of a launch -/

/-- Entry `i` of a table of pointers in a task's partition. -/
def tablePtr (s : State) (t : Task) (tab : Word) (i : Nat) : Option Word :=
  unitWord s (dieOf t.first) t.part (tab + BitVec.ofNat 64 (8 * i))

/-- The save area of a member: 0 for none, or where the table cannot be read. -/
def savePtr (s : State) (t : Task) (i : Nat) : Word := if t.savetab = 0 then 0 else (tablePtr s t t.savetab i).getD 0

/-- Where the image of a member lies: its save area once the task has been checkpointed. -/
def imageRef (s : State) (t : Task) (i : Nat) : Option ImageRef :=
  let p := if t.saved then some (savePtr s t i) else tablePtr s t t.imgtab i
  p.map (fun p => { die := dieOf t.first, part := t.part, ptr := p })

/-- The headers of a task's images that pass R381 of themselves: none when one does not. -/
def taskHeaders (s : State) (t : Task) : Option (List (ImageRef × ImageHeader)) :=
  (List.range t.gsize).mapM (fun i => do
    let r ← imageRef s t i
    let h ← imageHeader s r
    if h.agrees then some (r, h) else none)

/-- The walks that reading a task's images' headers makes (R422, R424). -/
def touchHeaders (s : State) (t : Task) : State :=
  let s1 := if t.saved then s else touchRange s (dieOf t.first) t.part accDevRead t.imgtab (8 * t.gsize)
  (List.range t.gsize).foldl (fun s i =>
    match imageRef s t i with
    | some r => touchRange s r.die r.part accDevRead r.ptr 88
    | none => s) s1

/-- The context of rank `i` of a segment. -/
def memberAt (t : Task) (first : CoreId) (i : Nat) : CtxId := ctxAt (ringAt first i) t.ctx

/-- The checks of R381 and R98 that a segment decides: the reason that refuses, if any. -/
def segmentReason (s : State) (t : Task) (first : CoreId) (hs : List (ImageRef × ImageHeader)) : Option Nat :=
  let l := (List.range hs.length).zip hs
  if l.any (fun x => !x.2.2.fits s (memberAt t first x.1)) then some 1
  else if l.any (fun x => decide (s.pslots (memberAt t first x.1) < x.2.2.dslots)) then some 2
  else none

/-! ## Segments (R12, R398, R402) -/

/-- The cores of a segment. -/
def segment (first : CoreId) (n : Nat) : List CoreId := (List.range n).map (ringAt first)

/-- The segment crosses a die boundary. -/
def crosses (first : CoreId) (n : Nat) : Bool :=
  (decide (first.val < 32) && decide (32 < first.val + n)) || (decide (32 ≤ first.val) && decide (64 < first.val + n))

/-- The starts a task may take, in the order of R398; a checkpointed gang returns to its own cores (R25). -/
def startsOf (t : Task) : List CoreId :=
  if t.saved then [t.first]
  else match t.start with
    | some c => [c]
    | none =>
      if t.gsize = 64 then [0]
      else
        let ok := (List.finRange 64).filter (fun c => startOk c.val t.gsize)
        ok.filter (fun c => !crosses c t.gsize) ++ ok.filter (fun c => crosses c t.gsize)

/-- A deadline-class context is placed on a core (R39). -/
def dlcOn (s : State) (c : CoreId) : Bool := (coreCtxs c).any (fun k => (s.ctx k).placed && (s.ctx k).csr.dlc)

/-- Another task of deadline class is to be placed on a core (R39). -/
def dlcComing (s : State) (n : Nat) (c : CoreId) : Bool :=
  s.numbered.any (fun x => decide (x.1 ≠ n) && x.2.dlcLike &&
    (match x.2.st, x.2.want with
     | .chosen, _ => (segment x.2.first x.2.gsize).contains c
     | _, some f => x.2.inList && (segment f x.2.gsize).contains c
     | _, none => false))

/-- A core lies in a task's reach: its partition's set, and lent, without another deadline-class context, where that is asked; a
context kept for the deadline class takes no other (R39, R398, R414). -/
def coreAllowed (s : State) (n : Nat) (t : Task) (c : CoreId) : Bool :=
  (s.part t.part).cores.getLsbD c.val &&
    (if t.dlcLike then s.lend.getLsbD c.val && !dlcOn s c && !dlcComing s n c else !(s.lend.getLsbD c.val && t.ctx == s.rctx))

/-- A segment that another task has reserved or been given (R400, R403). -/
def claimed (s : State) (n : Nat) (k : CtxId) : Bool :=
  s.numbered.any (fun x => decide (x.1 ≠ n) && x.2.ctx == numOf k &&
    (match x.2.st, x.2.want with
     | .chosen, _ => (segment x.2.first x.2.gsize).contains (coreOf k)
     | _, some f => x.2.inList && (segment f x.2.gsize).contains (coreOf k)
     | _, none => false))

/-- The slots of a context keep their place under both splits of a core that a radio task has reclaimed. -/
def splitSettled (s : State) (k : CtxId) : Bool :=
  match (s.core (coreOf k)).savedSplit with
  | none => true
  | some w =>
    let x := s.core (coreOf k)
    splitBase w (numOf k) == splitBase x.accsplit (numOf k) && splitSlots w (numOf k) == splitSlots x.accsplit (numOf k)

/-- A context is free: nothing is placed on it. -/
def ctxFree (s : State) (k : CtxId) : Bool := !(s.ctx k).placed && splitSettled s k

/-- The occupancy logs of both dies take note of a context that comes to hold a task, or none, now (R397). -/
def logOccupant (s : State) (k : CtxId) (task : Option Nat) : State :=
  [0, 1].foldl (fun s (d : DieId) => s.modDie d (fun x => { x with occLog := { ctx := k, task := task, at_ := s.tsc } :: x.occLog })) s

/-- The task a context held at a time, by a log. -/
def occupantAt (k : CtxId) (at_ : Nat) (l : List Occupied) : Option Nat :=
  (l.find? (fun x => x.ctx == k && decide (x.at_.toNat ≤ at_))).bind (·.task)

/-- What a decision at time `T` reads in the log of the die that makes it: the log as it stood 1,000 ns before (R397). -/
def logged (s : State) (k : CtxId) (T : Nat) : Option Nat := occupantAt k (T - 1000) (s.die s.arg.die).occLog

/-- A candidate segment of a launch decided at `T` (R398). -/
def isCandidate (s : State) (n : Nat) (t : Task) (T : Nat) (first : CoreId) : Bool :=
  (segment first t.gsize).all (fun c =>
    let k := ctxAt c t.ctx
    coreAllowed s n t c && ctxFree s k && (logged s k T).isNone && !claimed s n k)

/-- The segment R398 chooses. -/
def candidate (s : State) (n : Nat) (t : Task) (T : Nat) : Option CoreId := (startsOf t).find? (isCandidate s n t T)

/-- A placed task that may give way to another (R402). -/
def mayYield (t v : Task) : Bool := decide (v.st ≠ .chosen) && decide (v.ptok < t.ptok) && !v.dlcLike

/-- The tasks that a decision sees on a context: the logged one, and one that has been placed there since. -/
def occupants (s : State) (k : CtxId) (T : Nat) : List Nat := ((logged s k T).toList ++ (s.ctx k).task.toList).eraseDups

/-- The tasks on a segment's contexts: none when the segment could not be taken even with them gone. -/
def victimsOn (s : State) (n : Nat) (t : Task) (T : Nat) : List CoreId → Option (List Nat)
  | [] => some []
  | c :: r =>
    let k := ctxAt c t.ctx
    match victimsOn s n t T r with
    | none => none
    | some l =>
      let vs := occupants s k T
      if !coreAllowed s n t c || claimed s n k || !(splitSettled s k) then none
      else if vs.all (fun v => match s.taskAt v with | some x => mayYield t x | none => false) then some (l ++ vs.filter (fun v => !l.contains v))
      else none

/-- The highest PTOK of some tasks. -/
def topPtok (s : State) (l : List Nat) : Nat := (l.map (fun v => ((s.taskAt v).map (·.ptok)).getD 0)).foldl Nat.max 0

/-- The segment and victims R402 chooses: least highest PTOK, fewest victims, lower first core. -/
def chooseVictims (s : State) (n : Nat) (t : Task) (T : Nat) : Option (CoreId × List Nat) :=
  let all := (startsOf t).filterMap (fun f => (victimsOn s n t T (segment f t.gsize)).map (fun l => (f, l)))
  let key := fun (x : CoreId × List Nat) => [topPtok s x.2, x.2.length, x.1.val]
  firstBy (fun x y => lexLt (key x) (key y)) (all.filter (fun x => !x.2.isEmpty))

/-- A victim's policy (R402). -/
inductive Policy where
  | drain | checkpoint | kill | none
  deriving DecidableEq, Repr

/-- The first row of R402 that matches. -/
def policyOf (s : State) (t v : Task) : Policy :=
  let remt := (v.members.map (fun k => (s.ctx k).csr.remt.toNat)).foldl Nat.max 0
  if remt ≤ s.drainmax.toNat then .drain
  else if v.savetab ≠ 0 then .checkpoint
  else if s.killgap.toNat ≤ t.ptok - v.ptok then .kill
  else .none

/-- A policy acts on a victim (R403). -/
def applyPolicy (t : Task) (s : State) (v : Nat) : State :=
  match s.taskAt v with
  | none => s
  | some x =>
    if x.st = .preempting ∨ x.killReq ∨ !x.onCores then s
    else match policyOf s t x with
      | .checkpoint => s.setTask v { x with st := .preempting }
      | .kill => s.setTask v { x with killReq := true }
      | _ => s

/-- A victim that has not begun to leave would receive no policy. -/
def unmoved (s : State) (t : Task) (v : Nat) : Bool :=
  match s.taskAt v with
  | some x => x.onCores && x.st != .preempting && !x.killReq && decide (policyOf s t x = .none)
  | none => false

/-- VICTIM_SELECTION (R402, R403): when any victim receives no policy, none is touched; the reservation of a segment whose draining
victim is judged so later is dropped. -/
def seekRoom (s : State) (n : Nat) (t : Task) (T : Nat) : State :=
  let found := match t.want with
    | some f => (victimsOn s n t T (segment f t.gsize)).map (fun l => (f, l))
    | none => chooseVictims s n t T
  match found with
  | none => s.setTask n { t with want := none }
  | some (f, vs) =>
    if vs.any (unmoved s t) then s.setTask n { t with want := none }
    else vs.foldl (applyPolicy t) (s.setTask n { t with want := some f })

/-- The requests of a task lie in the table of its first core's die (R405): those created while it waited move there. -/
def rehome (s : State) (n : Nat) (d : DieId) : State :=
  let other : DieId := 1 - d
  let mine := (s.die other).table.filter (fun e => e.task == n)
  (s.modDie other (fun x => { x with table := x.table.filter (fun e => e.task != n) })).modDie d
    (fun x => { x with table := x.table ++ mine })

/-- One entry of the pending list is tried by a decision at `T` (R399). -/
def tryPending (T : Nat) (s0 : State) (n : Nat) : State :=
  match s0.taskAt n with
  | none => s0
  | some t =>
    if !t.inList then s0
    else match candidate s0 n t T with
      | none => seekRoom s0 n t T
      | some f =>
        let s := touchHeaders s0 t
        match (taskHeaders s t).map (fun hs => segmentReason s t f hs) with
        | none => refuseTask s n 1
        | some (some r) => refuseTask s n r
        | some none => unlist (rehome (s.setTask n { t with st := .chosen, first := f, want := none }) n (dieOf f)) n

/-- PENDING_RETRY (R399) at a decision time. -/
def retryAt (T : Nat) (s : State) : State := s.pendingList.foldl (tryPending T) s
/-- PENDING_RETRY when a task finishes or is checkpointed, now. -/
def retryPending (s : State) : State := retryAt s.tsc.toNat s

/-! ## Decision (R396, R397) -/

/-- TASKID names another task of the queue that is not over. -/
def taskidInUse (s : State) (n : Nat) (t : Task) : Bool :=
  s.numbered.any (fun x => decide (x.1 ≠ n) && x.2.q == t.q && x.2.taskid == t.taskid && !x.2.warm && !x.2.orphan && !x.2.over)

/-- Step-program tasks placed, pending or checkpointed. -/
def stepTasks (s : State) (n : Nat) : Nat :=
  (s.numbered.filter (fun x => decide (x.1 ≠ n) && x.2.stepp && !x.2.warm && !x.2.over && x.2.st != .deciding)).length

/-- The first check of R396 that a LAUNCH fails. Those that need the segment are made here when START names it. -/
def launchReason (s : State) (n : Nat) (t : Task) : Option Nat :=
  match taskHeaders s t with
  | none => some 1
  | some hs =>
    let seg := match t.start with | some f => if t.badSegment then none else segmentReason s t f hs | none => none
    match seg with
    | some r => some r
    | none =>
      if t.stepp && hs.any (fun x => decide (4096 * x.2.scr < 18496)) then some 3
      else if t.badField then some 4
      else if taskidInUse s n t then some 5
      else if t.stepp && decide (4 ≤ stepTasks s n) then some 6
      else if (t.dlc || t.preload) && decide (t.part ≠ 0) then some 7
      else match t.preload, t.start with
        | true, some f =>
          if (segment f t.gsize).all (fun c => s.lend.getLsbD c.val && !dlcOn s c) then none else some 9
        | _, _ => none

/-- The preloaded task a WARM launch names. -/
def preloaded (s : State) (t : Task) : Option (Nat × Task) :=
  s.numbered.find? (fun x => x.2.q == t.q && x.2.taskid == t.taskid && x.2.preload && !x.2.orphan && decide (x.2.st = .placed) && !x.2.warmed)

/-- A WARM launch is decided: the task it names is released at max(AT, decision time) (R400). -/
def decideWarm (s : State) (n : Nat) (t : Task) : State :=
  if t.badField then refuseTask s n 4
  else if t.part ≠ 0 then refuseTask s n 7
  else match preloaded s t with
    | none => refuseTask s n 8
    | some (m, x) =>
      let at_ : Word := if t.at_.toNat < t.decidedAt then BitVec.ofNat 64 t.decidedAt else t.at_
      let s1 := s.setTask m { x with warmed := true, at_ := at_ }
      unblockLaunch (s1.setTask n { t with st := .completed }) n t

/-- A launch is decided. -/
def decide1 (s0 : State) (n : Nat) (t : Task) : State :=
  let s := if t.warm then s0 else touchHeaders s0 t
  if t.warm then decideWarm s n t
  else match launchReason s n t with
    | some r => refuseTask s n r
    | none =>
      let t1 := { t with st := .pending }
      enlist (s.setTask n t1) n t1

/-- The launch whose decision is due first: by decision time, then by queue (R397). -/
def dueLaunch (s : State) : Option (Nat × Task) :=
  firstBy (fun x y => lexLt [x.2.stamp.toNat, x.2.q.val, x.1] [y.2.stamp.toNat, y.2.q.val, y.1])
    (s.numbered.filter (fun x => decide (x.2.st = .deciding) && decide (x.2.decidedAt ≤ s.tsc.toNat)))

/-- Event LAUNCH_DECISION (R397, R399): the launch due first is decided, and the pending list is tried again. -/
def execEvLaunchDecision (s : State) : Out :=
  match dueLaunch s with
  | some (n, t) => .next (retryAt t.decidedAt (decide1 s n t))
  | none => .next (retryPending s)

/-! ## Placement and release (R22, R382, R383, R400, R431) -/

/-- Pool units of a core that contexts placed on it hold. -/
def regionTaken (s : State) (core : CoreId) (lo n : Nat) : Bool :=
  (coreCtxs core).any (fun k =>
    let r := (s.ctx k).csr
    (s.ctx k).placed && decide (lo < r.poolBase + r.poolReg + r.poolScr + r.poolL1) && decide (r.poolBase < lo + n))

/-- The base a member's region gets: that of a checkpoint image, or firmware's choice (R101, R381). -/
def baseFor (bases : List Nat) (i : Nat) (h : ImageHeader) : Nat := if h.clean then bases.getD i 0 else h.base

/-- The regions of some members fit the pools and meet no other (R13, R101). -/
def regionsOk (s : State) (t : Task) (bases : List Nat) (hs : List (Nat × ImageRef × ImageHeader)) : Bool :=
  hs.all (fun x =>
    let b := baseFor bases x.1 x.2.2
    decide (b + x.2.2.units ≤ 896) && !regionTaken s (ringAt t.first x.1) b x.2.2.units)

/-- One member is restored; GEN of its image with the state. -/
def placeMember (n : Nat) (t : Task) (bases : List Nat) (acc : Option (State × List (Nat × BitVec 32)))
    (x : Nat × ImageRef × ImageHeader) : Option (State × List (Nat × BitVec 32)) := do
  let (s0, gens) ← acc
  let k := memberAt t t.first x.1
  let ref := { x.2.1 with die := dieOf (coreOf k) }
  let s := ref.touchAll s0 x.2.2
  let (s1, g) ← restoreCtx s k ref x.2.2
    { base := baseFor bases x.1 x.2.2, gsize := t.gsize, rank := x.1, save := savePtr s t x.1, dlc := t.dlcLike, task := n,
      kept := t.kept[x.1]? }
  some (logOccupant (s1.modCtx k (fun c => { c with ended := t.ended })) k (some n), gens ++ [(x.1, g)])

/-- The walks that reading a member's image makes, on its die. -/
def touchMember (t : Task) (s : State) (x : Nat × ImageRef × ImageHeader) : State :=
  ImageRef.touchAll s { x.2.1 with die := dieOf (coreOf (memberAt t t.first x.1)) } x.2.2

/-- The gang's generation from those of its members: one whose arrival's generation has been released is a generation behind
(R176, R378). -/
def gangGen (l : List (BitVec 32)) : BitVec 32 :=
  let g := l.headD 0
  if l.any (fun x => x == g + 1) then g + 1 else g

/-- Arrivals of a restored member that belong to the generation already released. -/
def lateArrival (gen g : BitVec 32) (c : Ctx) : Ctx :=
  if c.arr && g != gen then { c with arr := false, arrDone := true } else c

/-! ## Leaving a context -/

/-- A context is left free, with its loads, its stores and its copies' writes performed and known to the device's units (R24); its
counters stay. -/
def freeCtx (s : State) (k : CtxId) : State :=
  let s0 := landFor (flush s k) k
  let s1 := (s0.ctx k).posted.foldl (fun s p => if hostRefuses s p.addr then s else performPending k s p) s0
  let s2 := learn s1 .unit ((agentsOf k).map s1.latest)
  let c := s2.ctx k
  let s3 := s2.setCtx k { Ctx.clean s.limits.wdfloor with
      cbud := c.cbud, issueLeft := c.issueLeft, lastIssue := c.lastIssue, issues := c.issues }
  logOccupant { s3 with
    steerClaims := s3.steerClaims.filter (fun x => x.ctx != k), early := s3.early.filter (fun e => e.ctx != k)
    bports := s3.bports.map (fun x => { x with unacked := x.unacked.filter (fun u => !u.owner.ofCtx k) }) } k none

/-- The members of a task that are placed. -/
def placedOf (s : State) (n : Nat) (t : Task) : List CtxId := t.members.filter (fun k => (s.ctx k).task == some n)

/-- A placement is refused: members already restored leave their contexts (R381). -/
def refusePlacement (s : State) (n : Nat) (t : Task) (reason : Nat) : State :=
  refuseTask ((placedOf s n t).foldl freeCtx s) n reason

/-- The gang is placed once both dies have restored their members (R22, R378, R400); their parked records resume (R376, R383). -/
def gangPlaced (s : State) (n : Nat) (t : Task) : State :=
  let g := gangGen (t.gens.map (·.2))
  let s1 := t.gens.foldl (fun s x => s.modCtx (memberAt t t.first x.1) (fun c => (lateArrival g x.2 c).resumeRestored)) s
  let t1 := { t with st := .placed, gen := g, gens := [], release := s.tsc, mixed := if t.saved then t.mixed else [] }
  unblockLaunch (s1.setTask n t1) n t1

/-- Event GANG_PLACEMENT (R400): the argument's die restores its own members of the task the argument names on the segment chosen for
it. An image that cannot be restored refuses the placement (R381). A core that has come to hold another deadline-class context
sends the launch back to the pending list (R39). -/
def execEvGangPlacement (s : State) : Out :=
  let n := s.arg.task
  match s.taskAt n with
  | none => .next s
  | some t =>
    if t.st ≠ .chosen then .next s
    else if t.dlcLike && (placedOf s n t).isEmpty && (segment t.first t.gsize).any (dlcOn s) then
      .next (enlist (s.setTask n { t with st := .pending }) n { t with st := .pending })
    else match taskHeaders s t with
      | none => .next (refusePlacement (touchHeaders s t) n t 1)
      | some hs =>
        match segmentReason s t t.first hs with
        | some r => .next (refusePlacement (touchHeaders s t) n t r)
        | none =>
          let half := ((List.range hs.length).zip hs).filter (fun x =>
            let k := memberAt t t.first x.1
            dieOf (coreOf k) == s.arg.die && (s.ctx k).task != some n)
          if !regionsOk s t s.arg.bases half then .next s
          else match half.foldl (placeMember n t s.arg.bases) (some (s, t.gens)) with
            | none => .next (refusePlacement (half.foldl (touchMember t) s) n t 1)
            | some (s1, gens) =>
              let t1 := { t with gens := gens }
              if gens.length < t.gsize then .next (s1.setTask n t1) else .next (gangPlaced s1 n t1)

/-- A member of a restored gang begins: the report its image held is delivered first (R383, R468), else one that waits. -/
def startMember (s : State) (k : CtxId) : State :=
  let c := { s.ctx k with run := .running, preHeld := false }
  match (s.ctx k).imageReport with
  | some t => raiseLater (s.setCtx k { c with heldReports := c.heldReports.dropLast }) k t
  | none => raiseHeld (s.setCtx k c) k

/-- The timestamp a placed task may be released from (R400). -/
def releaseFrom (t : Task) : Nat := if t.warmed then t.at_.toNat else Nat.max t.at_.toNat (t.release.toNat + 200)

/-- A borrower of a core: a placed context other than the deadline-class one. -/
def borrowers (s : State) (c : CoreId) : List CtxId := (coreCtxs c).filter (fun k => (s.ctx k).placed && !(s.ctx k).csr.dlc)

/-- The borrowers of a core are held (R39, R415). -/
def holdCore (s : State) (c : CoreId) : State :=
  (borrowers s c).foldl (fun s k => s.modCtx k (fun x => { x with csr := { x.csr with hold := true } })) s

/-- A gang can be released now. -/
def releasable (s : State) (t : Task) : Bool :=
  decide (t.st = .placed) && (!t.preload || t.warmed) && !t.killReq && decide (releaseFrom t ≤ s.tsc.toNat)

/-- A gang that can be released is released: the members issue. Those of a deadline-class task issue core by core once the reclaim of
R415 has ended there. -/
def releaseGang (s : State) (n : Nat) : State :=
  match s.taskAt n with
  | none => s
  | some t =>
    if !releasable s t then s
    else
      let s1 := t.members.foldl beginsAfter (s.setTask n { t with st := .released, release := s.tsc })
      if t.dlcLike then (segment t.first t.gsize).foldl holdCore s1 else t.members.foldl startMember s1

/-- Event GANG_RELEASE (R400). -/
def execEvGangRelease (s : State) : Out := .next (releaseGang s s.arg.task)

/-! ## Reclaim of lent cores (R415, R416) -/

/-- The started copies of a borrower park with HELD 0; a claimed cstrm has ended before. -/
def Ctx.parkStarted (c : Ctx) : Ctx :=
  [EngineQ.ci, EngineQ.co].foldl (fun c q =>
    c.setEntries q ((c.queue q).entries.map (fun e => if e.started && !e.done then Entry.park 0 e else e))) c

/-- The deadline-class context of a core. -/
def dlcOf (s : State) (c : CoreId) : Option CtxId := (coreCtxs c).find? (fun k => (s.ctx k).placed && (s.ctx k).csr.dlc)

/-- Steps 2 and 3 of R415 have come to their end: the started MX, SQ and VX entries of the borrowers have run to completion, no claimed
cstrm still runs, and what is all written has completed (R229). -/
def canPark (s : State) (c : CoreId) : Bool :=
  (borrowers s c).all (fun k => !(s.ctx k).stillWrites && !(s.ctx k).copyHolds .co && !(s.ctx k).copyHolds .ci)

/-- Steps 1 to 3 of R415. -/
def holdAndPark (s : State) (c : CoreId) : State :=
  (borrowers s c).foldl (fun s k => s.modCtx k (fun x => { x.parkStarted with csr := { x.csr with hold := true } })) s

/-- Byte range of a context's slots under a split. -/
def slotRange (w : BitVec 12) (k : CtxId) : Nat × Nat := (16384 * splitBase w (numOf k), 16384 * splitSlots w (numOf k))

/-- A context's slots lie elsewhere under another split. -/
def rangeMoves (a b : BitVec 12) (k : CtxId) : Bool := slotRange a k != slotRange b k

/-- Step 4 of R415: the slots of the borrowers that move are spilled, and the core takes RSPLIT; the radio context's rows go with
it, and what its new range adds reads 0. -/
def spillCore (s : State) (c : CoreId) (radio : CtxId) : State :=
  let x := s.core c
  let old := x.accsplit
  if old = s.rsplit ∨ x.savedSplit.isSome then s
  else
    let moved := (borrowers s c).filter (rangeMoves old s.rsplit)
    let spill := moved.foldl (fun m k => let r := slotRange old k; m.write r.1 (x.acc.read r.1 r.2)) x.spill
    let a := slotRange old radio
    let b := slotRange s.rsplit radio
    let rows := if rangeMoves old s.rsplit radio then
        x.acc.write b.1 ((x.acc.read a.1 a.2 ++ natBytes b.2 0).take b.2)
      else x.acc
    let s1 := s.setCore c { x with acc := rows, spill := spill, savedSplit := some old, accsplit := s.rsplit }
    moved.foldl (fun s k => s.modCtx k (fun y => { y with spilled := true })) s1

/-- Event RECLAIM (R415) on a core: with the radio context restored and released, steps 1 to 5; when it is ready again later, steps
1 to 3 (R416). -/
def execEvReclaim (s : State) : Out :=
  let c := s.arg.core
  match dlcOf s c with
  | none => .next s
  | some k =>
    if !canPark s c then .next s
    else match (s.ctx k).run, s.taskOf k with
      | .restored, some (n, t) =>
        if t.st ≠ .released then .next s
        else
          let s1 := (spillCore (holdAndPark s c) c k).setTask n { t with reclaimed := true }
          .next (startMember s1 k)
      | _, _ => if couldIssue s k then .next (holdAndPark s c) else .next s

/-- A borrower's hold ends: its parked copies resume, unless it has stopped for another reason (R416). -/
def Ctx.unhold (c : Ctx) : Ctx :=
  let c1 := { c with csr := { c.csr with hold := false } }
  if c.enginesRun then c1.resumeCopies 0 else c1

/-- Event HOLD_END (R416) on a core: its deadline-class context is not ready; a spilled borrower stays held. -/
def execEvHoldEnd (s : State) : Out :=
  let c := s.arg.core
  let busy : Bool := match dlcOf s c with
    | some k => couldIssue s k || (match (s.ctx k).run, s.taskOf k with
        | .restored, some (_, t) => decide (t.st = .released)
        | _, _ => false)
    | none => false
  if busy then .next s
  else .next ((borrowers s c).foldl (fun s k =>
    if (s.ctx k).csr.hold && !(s.ctx k).spilled then s.modCtx k (·.unhold) else s) s)

/-- Event SPILL_REFILL (R416) on a core: the radio task has left, the split returns and the slots are refilled. -/
def execEvSpillRefill (s : State) : Out :=
  let c := s.arg.core
  match (s.core c).savedSplit, dlcOf s c with
  | some old, none =>
    let x := s.core c
    let back := (borrowers s c).filter (fun k => (s.ctx k).spilled)
    let acc := back.foldl (fun m k => let r := slotRange old k; m.write r.1 (x.spill.read r.1 r.2)) x.acc
    let s1 := s.setCore c { x with acc := acc, spill := Mem.empty, savedSplit := none, accsplit := old }
    .next (back.foldl (fun s k => s.modCtx k (fun y => { y with spilled := false }.unhold)) s1)
  | _, _ => .next s

/-! ## Completion (R24, R401) -/

/-- A member is done: it has finished, its posted stores are accepted and its loads are answered. -/
def memberDone (s : State) (k : CtxId) : Bool := (s.ctx k).isFinished && (s.ctx k).posted.isEmpty && (s.ctx k).hostLoads.isEmpty

/-- Event TASK_COMPLETE (R401): every member has finished and Bushel's records of the task are in device memory (R469). -/
def execEvTaskComplete (s : State) : Out :=
  let n := s.arg.task
  match s.taskAt n with
  | none => .next s
  | some t =>
    if !((decide (t.st = .released) || decide (t.st = .preempting)) && t.members.all (memberDone s) && (!t.stepp || tablesClear s n)) then .next s
    else
      let s0 := (t.members.foldl freeCtx s).setTask n { t with st := .completed }
      let s1 := learn s0 .outside [s0.latest .unit]
      let s2 := writeCompletion s1 t 0
      .next (retryPending (if t.irq then raiseVec s2 t.vec else s2))

/-! ## Kill (R401, R469) -/

/-- The G-instructions on a die's unit, in their order of arrival (R315). -/
def arrivedG (s : State) (d : DieId) : List (CtxId × GOp × Word) :=
  let l := ((List.finRange 256).filter (fun j => dieOf (coreOf j) == d)).flatMap (fun j => (s.ctx j).gops.map (fun x => (j, x)))
  l.mergeSort (fun x y => decide (x.2.2.toNat < y.2.2.toNat) || (x.2.2 == y.2.2 && decide (x.1 ≤ y.1)))

/-- A G-instruction is performed if it is its context's oldest and its automata are not being restored. -/
def tryG (s : State) (x : CtxId × GOp × Word) : State :=
  match (s.ctx x.1).gops with
  | g :: r =>
    if g = x.2 ∧ !gWaits s x.1 g.1 g.2 then performG (s.modCtx x.1 (fun c => { c with gops := r })) x.1 g.1 else s
  | [] => s

/-- The G-instructions that a context has sent are performed, in the order of the unit; one whose automaton is still being restored is
lost with its context. -/
def finishG (s : State) (k : CtxId) : State :=
  if (s.ctx k).gops.isEmpty then s
  else ((arrivedG s (dieOf (coreOf k))).foldl tryG s).modCtx k (fun c => { c with gops := [] })

/-- A member of a killed task stops: the G-instructions sent are performed, its queues are discarded, no copy parks. -/
def stopMember (s : State) (k : CtxId) : State := freeCtx (finishG s k) k

/-- The killed task's record is written once nothing of it is left in Bushel's tables. -/
def finishKill (s : State) (n : Nat) : State :=
  match s.taskAt n with
  | none => s
  | some t =>
    if t.stepp && !tablesClear s n then s
    else writeCompletion (s.setTask n { t with st := .killed, killReq := false }) t 1

/-- A task is killed: its members stop at once, and its requests are disposed of. -/
def killTask (s : State) (n : Nat) : State :=
  match s.taskAt n with
  | none => s
  | some t =>
    if t.over then s
    else if t.st = .ending then finishKill s n
    else
      let s1 := (placedOf s n t).foldl stopMember s
      let t1 := { t with st := .ending, want := none, killReq := true }
      let s2 := unblockLaunch (unlist (s1.setTask n t1) n) n t1
      finishKill (if t.stepp then killRecords s2 n else s2) n

/-- Event TASK_KILL (R401): a kill that was ordered is made. -/
def execEvTaskKill (s : State) : Out :=
  let n := s.arg.task
  match s.taskAt n with
  | some t => if t.killReq then .next (retryPending (killTask s n)) else .next s
  | none => .next s

/-- Event DESTROY (R394): pending and checkpointed tasks are killed, placed ones too with KILL, and the queue stops. -/
def execEvDestroy (s : State) : Out :=
  let q := s.arg.hq
  .next (packetEvent s q [.destroy] (fun s p =>
    if p.place.level ≠ 0 then stopQueue s q codeBAD p.place
    else
      let mine := (s.numbered.filter (fun x => x.2.q == q && !x.2.orphan && !x.2.warm && !x.2.over)).map (·.1)
      let s1 := mine.foldl (fun s n =>
        match s.taskAt n with
        | some t =>
          if t.inList || decide (t.st = .deciding) then killTask s n
          else if p.flags % 2 = 1 then s.setTask n { t with killReq := true }
          else s
        | none => s) s
      stopQueue s1 q codeDESTROYED p.place))

/-! ## Pre-emption by checkpoint (R374 to R376, R403) -/

/-- A member that still issues, or has never issued, begins its drain. -/
def beginPreempt (s : State) (k : CtxId) : State :=
  match (s.ctx k).run with
  | .running | .waiting _ => s.modCtx k (fun c => { c.drainFor .preempt with preHeld := false })
  | .restored => s.modCtx k (·.drainFor .preempt)
  | _ => s

/-- A member has drained and parked for a pre-emption, or has finished; its posted stores are accepted and its loads answered (R176). -/
def preemptStopped (s : State) (k : CtxId) : Bool :=
  (match (s.ctx k).run with | .drained .preempt | .finished => true | _ => false)
    && (s.ctx k).posted.isEmpty && (s.ctx k).hostLoads.isEmpty && !(s.ctx k).spilled && !s.steerClaims.any (fun x => x.ctx == k)
    && !unackedOf s (·.ofCtx k)

/-- A running copy of another context still delivers into a context's scratchpad part (R376). -/
def deliveryInto (s : State) (k : CtxId) : Bool :=
  (List.finRange 64).any (fun c =>
    let j := ctxAt c (numOf k)
    decide (j ≠ k) && [EngineQ.ci, EngineQ.co].any (fun q =>
      match (s.ctx j).running q with
      | some (e, op) => (foreignCores j op).contains (coreOf k) && !e.dead && e.into.any (fun x => x.1 == coreOf k)
      | none => false))

/-- The images of a gang are written, up to one whose save area cannot be: then false. -/
def saveAll (s : State) (t : Task) : State × Bool :=
  t.members.foldl (fun acc k => if acc.2 then saveImage acc.1 k t.gen else acc) (s, true)

/-- Event PREEMPT_CHECKPOINT (R403): the members of a chosen victim begin to drain; once all have parked, and nothing is on its
way to them, their images are written and the task rejoins the pending list. -/
def execEvPreemptCheckpoint (s : State) : Out :=
  let n := s.arg.task
  match s.taskAt n with
  | none => .next s
  | some t =>
    if t.st ≠ .preempting ∨ t.killReq then .next s
    else
      let s1 := t.members.foldl beginPreempt s
      if !(t.members.all (preemptStopped s1) && !t.members.any (deliveryInto s1)) then .next s1
      else
        match saveAll s1 t with
        | (s2, false) => .next s2
        | (s2, true) =>
          let t1 := { t with st := .checkpointed, saved := true, kept := t.members.map (fun k => (s1.ctx k).kept) }
          let s3 := (t.members.foldl freeCtx s2).setTask n t1
          .next (retryPending (enlist s3 n t1))

/-! ## Answers to an escalation (R363, R404) -/

/-- Event ESCALATION_RESUME (R404): the context goes on where it stopped, with NOTE set; not after a drain under pre-emption was
abandoned, when firmware kills the task (R375, R403). -/
def execEvEscalationResume (s : State) : Out :=
  let k := s.arg.ctx
  match (s.ctx k).run with
  | .escalated _ =>
    if (s.ctx k).doomed then .next s
    else .next (raiseHeld (s.modCtx k (fun c => { c.resumeCopies 0 with run := .running, csr := { c.csr with note := true } })) k)
  | _ => .next s

/-- Event ESCALATION_KILL (R404): the context's task is killed. -/
def execEvEscalationKill (s : State) : Out :=
  let k := s.arg.ctx
  match (s.ctx k).run, (s.ctx k).task with
  | .escalated _, some n => .next (retryPending (killTask s n))
  | _, _ => .next s

end Sys2Proof.Machine
end

