-- ==== Sys2Proof/Machine/FwRegs.lean ====
section
/-!
DEFINITION. Firmware's registers: DSCARVE (R109), ACCSPLIT (R366), LEND and RCFG (R414), the partitions (R428, R429), PERIOD and the
budgets with their clamps (R410 to R413), the steering table (R430, R450, R451), and the registers without an event of their own (R5).
-/
namespace Sys2Proof.Machine

/-- A task holds contexts or is checkpointed. -/
def anyTaskHeld (s : State) : Bool := s.tasks.any (fun t => t.onCores || decide (t.st = .checkpointed) || (t.saved && decide (t.st = .chosen)))

/-- Event DSCARVE_WRITE (R109): a write that is taken leaves the carved range zero. -/
def execEvDscarveWrite (s : State) : Out :=
  let d := s.arg.die
  let v := Nat.min 64 (fldN s.arg.word 0 7)
  if (s.die d).dscarve.toNat ≠ v ∧ anyTaskHeld s then .next s
  else .next (s.modDie d (fun x => { x with dscarve := BitVec.ofNat 7 v, dsh := Mem.empty }))

/-! ## Accumulator splits (R366, R414) -/

/-- Every code of a split is used, and its slots total at most 32. -/
def splitOk (w : BitVec 12) : Bool :=
  (List.range 4).all (fun i => decide (fldN w (3 * i) 3 ≤ 4)) &&
    decide (((List.range 4).map (fun i => slotsOf (fldN w (3 * i) 3))).sum ≤ 32)

/-- Event ACCSPLIT_WRITE (R366): every context whose range changes has nothing placed, or is spilled (R415). -/
def execEvAccsplitWrite (s : State) : Out :=
  let c := s.arg.core
  let x := s.core c
  let w : BitVec 12 := fld s.arg.word 0 12
  let ok := splitOk w && (coreCtxs c).all (fun k =>
    !rangeMoves x.accsplit w k || !(s.ctx k).placed || (s.ctx k).spilled)
  .next (if ok then s.setCore c { x with accsplit := w } else s)

/-- Slots of a core's borrowers whose range differs between ACCSPLIT and an RSPLIT. -/
def movedSlots (s : State) (c : CoreId) (rsplit : BitVec 12) (rctx : Fin 4) : Nat :=
  let w := (s.core c).accsplit
  (((coreCtxs c).filter (fun k => decide (numOf k ≠ rctx) && rangeMoves w rsplit k)).map (fun k => splitSlots w (numOf k))).sum

/-- A write of LEND or RCFG is taken (R414). -/
def lendOk (s : State) (lend : BitVec 64) (rsplit : BitVec 12) (rctx : Fin 4) : Bool :=
  (List.finRange 64).all (fun c => !lend.getLsbD c.val || decide (movedSlots s c rsplit rctx ≤ 8))

/-- Event LEND_WRITE (R414). -/
def execEvLendWrite (s : State) : Out :=
  let v : BitVec 64 := s.arg.word
  .next (if lendOk s v s.rsplit s.rctx then { s with lend := v } else s)

/-- Event RCFG_WRITE (R414). -/
def execEvRcfgWrite (s : State) : Out :=
  let r : BitVec 12 := fld s.arg.word 12 12
  let x : Fin 4 := Fin.ofNat 4 (fldN s.arg.word 0 2)
  .next (if splitOk r && lendOk s s.lend r x then { s with rsplit := r, rctx := x } else s)

/-! ## Partitions (R428, R429) -/

/-- Event PTROOT_WRITE (R428): every translation of the partition goes from both dies, and as for tlbinv.ten at DEV scope the accesses
already translated are performed first; the write waits for those in flight (R427). -/
def execEvPtrootWrite (s : State) : Out :=
  let p := s.arg.part
  let ks := ctxsOf [0, 1]
  if tlbBlocked s ks then .next s
  else
    let s1 := flushAll s ks
    let s2 := s1.setPart p { s1.part p with root := fld s1.arg.word 12 36, ten := s1.arg.word.getLsbD 0 }
    .next (dropPartition s2 [0, 1] p)

/-- A task of the partition is placed on a core. -/
def partOn (s : State) (p : Fin 16) (c : CoreId) : Bool := (coreCtxs c).any (fun k => (s.ctx k).placed && (s.ctx k).csr.partn == p)

/-- Event PCORES_WRITE (R428). -/
def execEvPcoresWrite (s : State) : Out :=
  let p := s.arg.part
  let v : BitVec 64 := s.arg.word
  let held := (List.finRange 64).any (fun c => (s.part p).cores.getLsbD c.val && !v.getLsbD c.val && partOn s p c)
  .next (if held then s else s.setPart p { s.part p with cores := v })

/-- A queue is mapped to the partition. -/
def queueOf (s : State) (p : Fin 16) : Bool := s.hqueues.toList.any (fun q => match q.map with | some m => m.part == p | none => false)

/-- Event PRIGHTS_WRITE (R429). -/
def execEvPrightsWrite (s : State) : Out :=
  let p := s.arg.part
  let v := s.arg.word
  if !v.getLsbD 0 && queueOf s p then .next s
  else .next (s.setPart p { s.part p with
    blumus := v.getLsbD 4, hostw := v.getLsbD 3, fh := v.getLsbD 2, en := v.getLsbD 0 })

/-! ## Periods and budgets (R410 to R413) -/

/-- The number of the period a timestamp lies in. -/
def periodAt (s : State) : Nat := (s.tsc.toNat + s.len.toNat - s.phase.toNat % s.len.toNat) / s.len.toNat

/-- Event PERIOD_WRITE (R410). -/
def execEvPeriodWrite (s : State) : Out :=
  let l := Nat.max 125000 (Nat.min 10000000 (fldN s.arg.word 0 32))
  let s1 := { s with phase := fld s.arg.word 32 32, len := BitVec.ofNat 32 l }
  .next { s1 with period := periodAt s1 }

/-- Bytes of a budget of 4 KiB units. -/
def unitBytesOf (v : BitVec 32) : Nat := 4096 * v.toNat

/-- The period the counter stands in begins, when it is not the one begun last. -/
def beginPeriod (s : State) : State :=
  if periodAt s = s.period then s
  else { s with
    period := periodAt s
    ctxs := s.ctxs.map (fun c => { c with issueLeft := c.cbud })
    parts := s.parts.map (fun p => { p with
      dmemLeft := unitBytesOf p.dmem, linkLeft := unitBytesOf p.link, fhLeft := unitBytesOf p.fhb }) }

/-- Event BUDGET_PERIOD_START (R410): due once a period later than the one begun last has come. -/
def execEvBudgetPeriodStart (s : State) : Out := .next (beginPeriod s)

/-- Device-memory capacity of a period in 4 KiB units: 62,500 at LEN 500,000 (R412). -/
def periodUnits (s : State) : Nat := s.len.toNat / 8

/-- PBUD.DMEM as it is written for a partition (R412). -/
def clampDmem (s : State) (p : Fin 16) (v : BitVec 32) : BitVec 32 :=
  if p = 0 then v
  else
    let cap := periodUnits s
    let others := (((List.finRange 16).filter (fun q => decide (q ≠ 0) && decide (q ≠ p))).map (fun q => (s.part q).dmem.toNat)).sum
    let a := Nat.min v.toNat (s.limits.tenmax * cap / 256)
    BitVec.ofNat 32 (Nat.min a ((256 - s.limits.radiomin) * cap / 256 - others))

/-- What is left of a byte budget once a new one is written: a spent budget stays spent until the next period. -/
def leftAfter (old new : BitVec 32) (left : Nat) : Nat := if spent old left then 0 else unitBytesOf new

/-- Event BUDGET_WRITE (R411, R412). -/
def execEvBudgetWrite (s : State) : Out :=
  let v : BitVec 32 := fld s.arg.word 0 32
  match s.arg.budget with
  | .cbud k =>
    .next (s.modCtx k (fun c =>
      let dlc := match s.taskOf k with | some (_, t) => t.dlc | none => false
      let w := if dlc then BitVec.ofNat 32 (Nat.max v.toNat s.limits.issfloor) else v
      { c with cbud := w, issueLeft := if c.cbud ≠ 0xFFFFFFFF ∧ c.issueLeft = 0 then 0 else w }))
  | .dmem p =>
    let w := clampDmem s p v
    .next (s.setPart p { s.part p with dmem := w, dmemLeft := leftAfter (s.part p).dmem w (s.part p).dmemLeft })
  | .link p => .next (s.setPart p { s.part p with link := v, linkLeft := leftAfter (s.part p).link v (s.part p).linkLeft })
  | .fh p => .next (s.setPart p { s.part p with fhb := v, fhLeft := leftAfter (s.part p).fhb v (s.part p).fhLeft })

/-! ## The steering table (R430, R450, R451) -/

/-- An entry of the table. -/
def steerAt (s : State) (i : Fin 4096) : SteerEntry :=
  match s.steering.find? (fun x => x.1 == i) with | some x => x.2 | none => SteerEntry.zero

/-- An entry put into the list of written entries, by index. -/
def steerPut (i : Fin 4096) (e : SteerEntry) : List (Fin 4096 × SteerEntry) → List (Fin 4096 × SteerEntry)
  | [] => [(i, e)]
  | x :: r => if x.1 = i then (i, e) :: r else if i < x.1 then (i, e) :: x :: r else x :: steerPut i e r

/-- The binding an entry names (R451). -/
def SteerEntry.binding (e : SteerEntry) : BitVec 8 × BitVec 8 × BitVec 8 × BitVec 32 := (e.part, e.core, e.ctx, e.ring)

/-- The bindings in use: FHBIND.COUNT is their number. -/
def bindings (l : List (Fin 4096 × SteerEntry)) : List (BitVec 8 × BitVec 8 × BitVec 8 × BitVec 32) :=
  ((l.filter (·.2.valid)).map (·.2.binding)).eraseDups

/-- The entry may be installed (R430). -/
def steerAllowed (s : State) (e : SteerEntry) : Bool :=
  let p := s.part (Fin.ofNat 16 e.part.toNat)
  decide (e.part.toNat < 16) && decide (e.core.toNat < 64) && decide (e.ctx.toNat < 4) && p.fh && p.en && p.cores.getLsbD e.core.toNat

/-- Event STEERING_ENTRY_WRITE (R450, R451): the counters are read-only. -/
def execEvSteeringEntryWrite (s : State) : Out :=
  let i := s.arg.steer
  let old := steerAt s i
  let e := { s.arg.entry with deliv := old.deliv, drops := old.drops, lastSeq := old.lastSeq }
  let l := steerPut i e s.steering
  if e.valid && !(steerAllowed s e && decide ((bindings l).length ≤ 512)) then .next s
  else .next { s with steering := l }

/-! ## Registers without an event of their own (R5, R402, R418, R441, R446, R449, R457, R461) -/

/-- The speed a fronthaul port is brought up at; any other value takes it down (R449, R459). -/
def fhSpeedOf (v : Word) : Nat := if v = 25 ∨ v = 50 ∨ v = 100 then v.toNat else 0

/-- An entry of the MSI-X table written by the host. -/
def setMsix (s : State) (v : Fin 256) (x : MsixEntry) : State := { s with msix := s.msix.set v.val x }

/-- A vector is masked or unmasked: a message that is pending is sent as it is unmasked. -/
def maskMsix (s : State) (v : Fin 256) (on : Bool) : State :=
  let s1 := setMsix s v { s.msixOf v with mask := on }
  if !on && s.msixPending.getLsbD v.val then
    postMsi { s1 with msixPending := s.msixPending &&& ~~~(1#256 <<< v.val) } v (s.msiOf v).evcnt.toNat
  else s1

/-- Event REGISTER_WRITE (R5). -/
def execEvRegisterWrite (s : State) : Out :=
  let v := s.arg.word
  match s.arg.reg with
  | .preempt => .next { s with killgap := fld v 32 8, drainmax := fld v 0 32 }
  | .coalw i =>
    let w := Nat.max 1 (Nat.min 1000 (fldN v 0 10))
    .next (if barsRespond s then { s with msi := s.msi.set i.val { s.msiOf i with win := BitVec.ofNat 10 w } } else s)
  | .bwin p => .next { s with bports := s.bports.set p.val { s.bports[p.val] with bwinBase := fld v 0 21, bwinSize := fld v 32 24 } }
  | .snapat => .next { s with snapat := v }
  | .snapRearm => .next { s with snapArmed := true }
  | .ready d => .next (if (s.die d).bootStage = 8 then s.modDie d (fun x => { x with ready := true }) else s)
  | .fhPort p => .next { s with fhSpeed := s.fhSpeed.set p.val (fhSpeedOf v) }
  | .msixAddr i => .next (if barsRespond s then setMsix s i { s.msixOf i with addr := v } else s)
  | .msixData i => .next (if barsRespond s then setMsix s i { s.msixOf i with data := fld v 0 32 } else s)
  | .msixMask i => .next (if barsRespond s then maskMsix s i (v.getLsbD 0) else s)
  | .aerUncorr => .next { s with aerUncorr := s.aerUncorr &&& ~~~(fld v 0 32) }
  | .aerCorr => .next { s with aerCorr := s.aerCorr &&& ~~~(fld v 0 32) }

/-! ## Reads of registers (R5) -/

/-- A bit at a place of a word. -/
def bitAt (b : Bool) (n : Nat) : Nat := if b then 2 ^ n else 0

/-- BOOTSTAT (R461). -/
def bootstatWord (x : Die) : Word :=
  BitVec.ofNat 64 (bitAt x.ready 16 + 256 * x.failcode.toNat + bitAt x.copyB 4 + x.bootStage % 16)

/-- PRIGHTS (R429). -/
def prightsWord (x : Part) : Word :=
  BitVec.ofNat 64 (bitAt x.reclaim 5 + bitAt x.blumus 4 + bitAt x.hostw 3 + bitAt x.fh 2 + bitAt x.en 0)

/-- The 32 bytes of a steering entry (R450). -/
def steerBytes (e : SteerEntry) : List Byte :=
  leBytes 2 e.pcid.toNat ++ leBytes 2 e.pcidm.toNat ++ leBytes 2 e.seclo.toNat ++ leBytes 2 e.sechi.toNat
    ++ leBytes 1 (e.ports.toNat + bitAt e.dirm 4 + bitAt e.dir 5) ++ leBytes 1 (bitAt e.valid 0 + bitAt e.raw 1)
    ++ leBytes 1 e.part.toNat ++ leBytes 1 e.core.toNat ++ leBytes 1 e.ctx.toNat ++ leBytes 3 0 ++ leBytes 4 e.ring.toNat
    ++ leBytes 2 e.symm.toNat ++ leBytes 2 0 ++ leBytes 4 e.deliv.toNat ++ leBytes 4 e.drops.toNat

/-- What a read of a register that REGISTER_WRITE writes returns; those behind BAR 4 read 0 before READY (R461). -/
def fwValue (s : State) : FwReg → Word
  | .preempt => BitVec.ofNat 64 (s.killgap.toNat * 2 ^ 32 + s.drainmax.toNat)
  | .coalw v => if barsRespond s then BitVec.ofNat 64 ((s.msiOf v).evcnt.toNat * 2 ^ 32 + (s.msiOf v).win.toNat) else 0
  | .bwin p => BitVec.ofNat 64 (s.bports[p.val].bwinSize.toNat * 2 ^ 32 + s.bports[p.val].bwinBase.toNat)
  | .snapat => s.snapat
  | .snapRearm => 0
  | .ready d => BitVec.ofNat 64 (bitAt (s.die d).ready 0)
  | .fhPort p => BitVec.ofNat 64 s.fhSpeed[p.val]
  | .msixAddr v => if barsRespond s then (s.msixOf v).addr else 0
  | .msixData v => if barsRespond s then zext64 (s.msixOf v).data else 0
  | .msixMask v => if barsRespond s then BitVec.ofNat 64 (bitAt (s.msixOf v).mask 0) else 0
  | .aerUncorr => zext64 s.aerUncorr
  | .aerCorr => zext64 s.aerCorr

/-- What the latched set holds for a gang; 0 for one that did not stand then. -/
def snapGang (x : Snapshot) (task : Nat) (f : Nat × Nat × Nat → Nat) : Nat := ((x.gangs.find? (fun g => g.1 == task)).map f).getD 0

/-- What a read of a latched register returns (R457). -/
def snapValue (x : Snapshot) : SnapReg → Word
  | .ts => x.ts
  | .issues k => BitVec.ofNat 64 (x.issues.getD k.val 0)
  | .occupancy k q => BitVec.ofNat 64 ((x.occupancy.getD k.val []).getD q.idx.val 0)
  | .tokens k f => BitVec.ofNat 64 ((x.tokens.getD k.val []).getD f.val 0)
  | .nslots n => BitVec.ofNat 64 (snapGang x n (·.2.1))
  | .stepn n => BitVec.ofNat 64 (snapGang x n (·.2.2))
  | .firkin d => BitVec.ofNat 64 (x.firkin.getD d.val 0)
  | .frames p => BitVec.ofNat 64 (x.frames.getD p.val 0)
  | .unsteered p => BitVec.ofNat 64 (x.unsteered.getD p.val 0)
  | .drops p => BitVec.ofNat 64 (x.drops.getD p.val 0)

/-- What a read of a register returns (R5): the current value, and 0 for a write-only field (DB, STEP). -/
def regValue (s : State) : HwReg → Word
  | .fw r => fwValue s r
  | .doorbell q r off size => if barsRespond s && off == 8 && size == 4 then zext64 ((s.hq q).cons r) else 0
  | .bootstat d => bootstatWord (s.die d)
  | .fhbind => BitVec.ofNat 64 (bindings s.steering).length
  | .tsctl => zext64 s.adj
  | .tspps => s.tspps
  | .period => BitVec.ofNat 64 (s.phase.toNat * 2 ^ 32 + s.len.toNat)
  | .budget b => zext64 (match b with
      | .cbud k => (s.ctx k).cbud
      | .dmem p => (s.part p).dmem
      | .link p => (s.part p).link
      | .fh p => (s.part p).fhb)
  | .lend => s.lend
  | .rcfg => BitVec.ofNat 64 (s.rsplit.toNat * 2 ^ 12 + s.rctx.val)
  | .accsplit c => zext64 (s.core c).accsplit
  | .dscarve d => zext64 (s.die d).dscarve
  | .ptroot p => BitVec.ofNat 64 ((s.part p).root.toNat * 2 ^ 12 + bitAt (s.part p).ten 0)
  | .pcores p => (s.part p).cores
  | .prights p => prightsWord (s.part p)
  | .pending i => if barsRespond s then fld s.msixPending (64 * i.val) 64 else 0
  | .steer i w => BitVec.ofNat 64 (bytesNat (pbytes false ((steerBytes (steerAt s i)).drop (8 * w.val) |>.take 8)))
  | .snapshot r => snapValue s.snapshot r

/-- A register is read. -/
def regRead (s : State) (r : HwReg) : State := { s with replies := s.replies ++ [.reg (regValue s r)] }

end Sys2Proof.Machine
end

