-- ==== Sys2Proof/Machine/Fronthaul.lean ====
section
/-!
DEFINITION. The fronthaul: classification and steering of received frames (R449, R450), deliveries into stream rings (R452, R453),
and the timestamps of event messages (R454).
-/
namespace Sys2Proof.Machine

/-- The part of an entry's match that reads no section (R450). -/
def SteerEntry.hits (e : SteerEntry) (f : FhFrame) : Bool :=
  e.valid && e.ports.getLsbD f.port.val && ((f.pcId ^^^ e.pcid) &&& e.pcidm) == 0

/-- A section matches an entry that is not RAW. -/
def SteerEntry.hitsSection (e : SteerEntry) (f : FhFrame) (x : Section) : Bool :=
  e.hits f && !e.raw && decide (e.seclo.toNat ≤ x.sectionId.toNat) && decide (x.sectionId.toNat ≤ e.sechi.toNat)
    && e.symm.getLsbD f.symbolId.toNat && (!e.dirm || e.dir == f.dir)

/-- A delivery: its entry and what it carries; no section for a RAW entry. -/
structure Delivery where
  index : Fin 4096
  sectionId : BitVec 12
  payload : List Byte

/-- The lowest RAW entry a frame matches. -/
def rawHit (s : State) (f : FhFrame) : Option (Fin 4096 × SteerEntry) := s.steering.find? (fun x => x.2.raw && x.2.hits f)

/-- The lowest other entry a section matches, unless a RAW entry stands before it. -/
def sectionHit (s : State) (f : FhFrame) (x : Section) : Option (Fin 4096 × SteerEntry) :=
  match s.steering.find? (fun y => y.2.hitsSection f x), rawHit s f with
  | some y, some r => if y.1 < r.1 then some y else none
  | y, _ => y

/-- The deliveries of a type 0 frame: sections by their entries, and the whole payload once for a RAW entry that a section, or a
frame without sections, falls to. -/
def deliveriesOf (s : State) (f : FhFrame) : List Delivery :=
  let secs := f.sections.filterMap (fun x => (sectionHit s f x).map (fun y => ({ index := y.1, sectionId := x.sectionId, payload := x.bytes } : Delivery)))
  match rawHit s f with
  | some r =>
    if f.sections.isEmpty || f.sections.any (fun x => (sectionHit s f x).isNone) then
      { index := r.1, sectionId := 0, payload := f.payload } :: secs
    else secs
  | none => secs

/-- The ring a delivery goes to, when the core accepts it (R113, R139, R430): the context, the offset and the descriptor. -/
def steerRing (s : State) (e : SteerEntry) : Option (CtxId × Nat × RingDesc) :=
  let core : CoreId := Fin.ofNat 64 e.core.toNat
  let k := ctxAt core (Fin.ofNat 4 e.ctx.toNat)
  let c := s.ctx k
  let o := e.ring.toNat
  if c.placed && c.csr.partn.val == e.part.toNat && o % 32 == 0 && decide (c.scrStart ≤ o) && decide (o + 32 ≤ c.privStart) then
    let r := ringOf (s.read (.pool core) o 32)
    if r.valid c then some (k, o, r) else none
  else none

/-- A frame goes to the host whole: the partition's budget is spent, or the ring is refused (R453). -/
def toHostWhole (s : State) (d : Delivery) : Bool :=
  let e := steerAt s d.index
  let p := s.part (Fin.ofNat 16 e.part.toNat)
  spent p.fhb p.fhLeft || (steerRing s e).isNone

/-- The 32-byte header (R452); `n` numbers its reserved bytes. -/
def deliveryHeader (n : Nat) (ts : Word) (f : FhFrame) (d : Delivery) (gap : Bool) : List PByte :=
  natBytes 8 ts.toNat ++ natBytes 1 f.port.val ++ natBytes 1 f.msgType.toNat ++ natBytes 2 f.pcId.toNat ++ natBytes 2 f.seqId.toNat
    ++ natBytes 2 d.sectionId.toNat ++ natBytes 1 f.frameId.toNat
    ++ natBytes 2 (f.subframeId.toNat * 4096 + f.slotId.toNat * 64 + f.symbolId.toNat)
    ++ natBytes 1 ((if f.dir then 1 else 0) + (if gap then 2 else 0)) ++ natBytes 2 d.payload.length ++ freeBytes n 10

/-- An entry of the table changed. -/
def modSteer (s : State) (i : Fin 4096) (f : SteerEntry → SteerEntry) : State :=
  { s with steering := steerPut i (f (steerAt s i)) s.steering }

/-- STEERING_DELIVERY (R453): the slot is claimed and written, and published by R140; or the delivery is dropped. -/
def deliverSection (f : FhFrame) (s : State) (d : Delivery) : State :=
  let e := steerAt s d.index
  match steerRing s e with
  | none => s
  | some (k, o, r) =>
    if r.slotsz < 32 + d.payload.length || !r.room then
      { modSteer s d.index (fun e => { e with drops := e.drops + 1 }) with
        fhDrops := s.fhDrops.set f.port.val (s.fhDrops[f.port.val] + 1) }
    else
      let core := coreOf k
      let gap := match e.lastSeq with | some q => f.seqId != q + 1 | none => false
      let slot := r.base + r.resv.toNat % r.count * r.slotsz
      let s1 := setCounter s core o ringRESV (r.resv + 1)
      let s2 := s1.write (.pool core) slot (deliveryHeader s.fresh s.tsc f d gap ++ pbytes false d.payload)
      let p : Fin 16 := Fin.ofNat 16 e.part.toNat
      let s3 := s2.setPart p { s2.part p with fhLeft := (s2.part p).fhLeft - (32 + d.payload.length) }
      let s4 := modSteer s3 d.index (fun e => { e with deliv := e.deliv + 1, lastSeq := some f.seqId })
      { s4 with steerClaims := s4.steerClaims ++ [{ ctx := k, ring := o, claim := r.resv }], fresh := s4.fresh + 10 }

/-- Event FRONTHAUL_FRAME_RX (R449): a frame that comes to a port that is down is discarded (R459), and frames of one timestamp are
taken in the order of their ports (R451, R453). -/
def execEvFronthaulFrameRx (s : State) : Out :=
  let f := s.arg.frame
  if !f.fcsOk || s.fhSpeed[f.port.val] == 0 then .next s
  else
    let s1 := { s with fhFrames := s.fhFrames.set f.port.val (s.fhFrames[f.port.val] + 1) }.contend .steering f.port.val
    let host := { s1 with toHost := (s1.tsc, f) :: s1.toHost }
    if !(f.ecpri && f.msgType == 0) then .next host
    else
      let ds := deliveriesOf s1 f
      if ds.isEmpty || ds.any (toHostWhole s1) then .next host
      else
        let lost := (f.sections.filter (fun x => (sectionHit s1 f x).isNone)).length
        let missed := if (rawHit s1 f).isSome then 0 else lost
        let s2 := ds.foldl (deliverSection f) s1
        .next { s2 with unsteered := s2.unsteered.set f.port.val (s2.unsteered[f.port.val] + BitVec.ofNat 32 missed) }

/-- Event EVENT_MESSAGE_TX (R454): a port that is down sends nothing. -/
def execEvEventMessageTx (s : State) : Out :=
  .next (if s.fhSpeed[s.arg.port.val] == 0 then s else { s with txStamps := (s.arg.port, s.tsc) :: s.txStamps })

end Sys2Proof.Machine
end

