-- ==== Sys2Proof/Machine/Time.lean ====
section
/-!
DEFINITION. Time: the timestamp counter with its rate correction and steps (R454, R455), and the queue-stall watchdogs, which count
core cycles (R43, R375).
-/
namespace Sys2Proof.Machine

/-! ## The counter (R454, R455) -/

/-- The bound of ADJ: 500 ppm in units of 2^-40. -/
def adjMax : Int := 549755813

/-- Units of 2^-40 ns that pass in `ns` nanoseconds under ADJ, with the fraction carried. -/
def tscUnits (s : State) (ns : Nat) : Nat :=
  ((ns : Int) * 2 ^ 40 + (ns : Int) * s.adj.toInt + (s.tscFrac : Int)).toNat

/-- The counter goes on by `d`; a snapshot match on the way fires at its own timestamp (R457). -/
def tscForward (s : State) (d : Nat) : State :=
  let stop := s.tsc + BitVec.ofNat 64 d
  let gap := (s.snapat - s.tsc).toNat
  if s.snapat ≠ 0 ∧ 0 < gap ∧ gap ≤ d then { snapTrigger { s with tsc := s.snapat } with tsc := stop }
  else { s with tsc := stop }

/-- Event TSCTL_STEP (R454, R455): STEP of a written TSCTL is added at once; a period start, the releases of AT and a snapshot match
that the step passes happen at the step. -/
def execEvTsctlStep (s : State) : Out :=
  let v : BitVec 32 := fld s.arg.word 32 32
  if v.msb then .next s
  else
    let gap := (s.snapat - s.tsc).toNat
    let s0 := beginPeriod { s with tsc := s.tsc + zext64 v }
    let s1 := (List.range s0.tasks.length).foldl releaseGang s0
    .next (if s.snapat ≠ 0 ∧ 0 < gap ∧ gap ≤ v.toNat then snapTrigger s1 else s1)

/-- Event TSCTL_ADJ (R454): ADJ of a written TSCTL, clamped. -/
def execEvTsctlAdj (s : State) : Out :=
  let v : BitVec 32 := fld s.arg.word 0 32
  .next { s with adj := BitVec.ofInt 32 (max (-adjMax) (min adjMax v.toInt)) }

/-- Event PPS_EDGE (R454). -/
def execEvPpsEdge (s : State) : Out := .next { s with tspps := s.tsc }

/-! ## The watchdogs (R43) -/

/-- The head's push waits on a full FIFO. -/
def Ctx.headPushes (c : Ctx) (q : EngineQ) (e : Entry) : Bool :=
  e.done && !e.parked && ((e.pushP && decide (8 ≤ c.tok (fifoSP q))) || (e.pushN && decide (8 ≤ c.tok (fifoSN q))))

/-- A cstrm waits for a free slot, or for the producers before it to publish (R140). -/
def streamWaits (s : State) (k : CtxId) : Bool :=
  match (s.ctx k).running .co with
  | none => false
  | some (e, op) =>
    let core := scrCore e.ring
    let o := scrOff e.ring
    op.kind == .cstrm && !e.dead && !e.drop &&
    (match e.claim with
     | none =>
       match producerRing s k core o with
       | some r => decide (op.total ≤ r.slotsz) && !r.room
       | none => false
     | some n => e.slot.isSome && decide (op.total ≤ 256 * e.goff) && destOk s k core o 32 && ringFilled s core o != n)

/-- The head of a queue waits on a token, on a full FIFO, or as R140 and R326 count it. -/
def headWaits (s : State) (k : CtxId) (q : EngineQ) : Bool :=
  let c := s.ctx k
  match c.head q with
  | none => false
  | some e =>
    (!e.started && !e.parked && !(c.tokensThere q e && c.oloadDone e)) || c.headPushes q e
      || (decide (q = .co) && streamWaits s k)

/-- A record held for a return cannot resume while that handler runs. -/
def Ctx.handlerRuns (c : Ctx) (h : BitVec 2) : Bool := (h == 1 && c.csr.utvecAct) || (h == 2 && c.csr.sact)

/-- The FE waits in qwait on a queue whose head is held for the return of a running handler. -/
def Ctx.qwaitHeld (c : Ctx) : Bool :=
  match c.run with
  | .waiting (.qwait m) => allQueues.any (fun q => m.getLsbD q.idx.val &&
      (match c.head q with | some e => e.parked && c.handlerRuns e.held | none => false))
  | _ => false

/-- The watchdog of a context advances (R43). -/
def watchdogRuns (s : State) (k : CtxId) : Bool :=
  let c := s.ctx k
  c.enginesRun && (allQueues.any (headWaits s k) || c.qwaitHeld) && c.inBudget && !copyPaused s k .ci && !copyPaused s k .co
    && !heldNow s k

/-- A cycle of a drain counts toward its abandonment (R374, R375). -/
def drainRuns (s : State) (k : CtxId) : Bool :=
  (match (s.ctx k).run with | .draining _ => true | _ => false) && !heldNow s k

/-- The counters of a context after cycles in which nothing retires; a stall below the limit may be raised again. -/
def Ctx.idleFor (c : Ctx) (watch drain : Bool) (cycles : Nat) : Ctx :=
  let c1 := if watch then { c with watchdog := c.watchdog + cycles } else c
  let c2 := if drain then { c1 with drainIdle := c1.drainIdle + cycles } else c1
  if c.stallRaised && !c.stalled then { c2 with stallRaised := false } else c2

/-- Time passes: `ns` nanoseconds, and `cycles` core cycles in which nothing retires. What happens before and after it happens at
different moments (R40, R407). -/
def passTime (s0 : State) (ns cycles : Nat) : State :=
  let s := { s0 with clock := s0.clock + (if ns = 0 && cycles = 0 then 0 else 1) }
  let u := tscUnits s ns
  let s1 := { s with ctxs := Vector.ofFn (fun (k : Fin 256) => (s.ctx k).idleFor (watchdogRuns s k) (drainRuns s k) cycles) }
  tscForward { s1 with tscFrac := u % 2 ^ 40 } (u / 2 ^ 40)

end Sys2Proof.Machine
end

