-- ==== Sys2Proof/Machine/Links.lean ====
section
/-!
DEFINITION. The neighbours: Blumus flits and links (R445 to R447), the host's BAR 2 window (R443, R461), completions of host-window
accesses (R444), memory errors (R458), and page-table walks made ahead of an access (R422 to R424).
-/
namespace Sys2Proof.Machine

/-! ## Blumus (R445 to R447) -/

/-- A flit's address lies in BWIN, in installed memory. -/
def BPort.accepts (x : BPort) (a n : Nat) : Bool :=
  let lo := 65536 * x.bwinBase.toNat
  decide (lo ≤ a) && decide (a + n ≤ lo + 65536 * x.bwinSize.toNat) && validDev a && validDev (a + n - 1)

/-- The bytes of a flit: 64 at most, with the poison bit of their 8 bytes. -/
def Flit.moved (f : Flit) : List Moved :=
  (f.bytes.take 64).mapIdx (fun i b =>
    { pos := i, byte := { val := b, poison := f.poison.getLsbD (i / 8) }, dests := [(Space.dmem, f.addr + i)] })

/-- An accepted flit is applied: bytes written, or elements of a cred combined one at a time (R143, R447). -/
def applyFlit (s : State) (f : Flit) : State :=
  match f.cred with
  | some op => (credAll op none s f.moved).1
  | none => putWrites s (writesOf f.moved.reverse)

/-- Event BLUMUS_FLIT_RX: accepted in sequence; one accepted before is discarded, one ahead asks for a replay (R445); an address
outside BWIN is answered with an error (R446). -/
def execEvBlumusFlitRx (s : State) : Out :=
  let p := s.arg.port
  let f := s.arg.flit
  let x := s.bport p
  let ahead := (f.seq - x.rxSeq).toNat
  if !x.up then .next s
  else if ahead ≠ 0 then .next (if ahead < 2048 then s.setBport p { x with replayFrom := some x.rxSeq } else s)
  else
    let s1 := s.setBport p { x with rxSeq := x.rxSeq + 1, replayFrom := none }
    if x.accepts f.addr (f.bytes.take 64).length then .next (applyFlit s1 f)
    else .next { s1 with flitErrors := (p, f.seq) :: s1.flitErrors }

/-- The next granule of a running copy meets a dead link. -/
def meetsDeadLink (s : State) (k : CtxId) (q : EngineQ) : Bool :=
  match (s.ctx k).running q with
  | none => false
  | some (e, op) =>
    match (nextGranule s k e op).2.2.halt with
    | some (.link, _, _) => true
    | _ => false

/-- A running copy that crosses a dead link takes LINK (R130, R445). -/
def failOverLink (s : State) (x : CtxId × EngineQ) : State := if meetsDeadLink s x.1 x.2 then copyGranule s x.1 x.2 else s

/-- FCODE of a dead link (R439). -/
def codeLINK : BitVec 8 := slotCode .link

/-- The write-back of a die that flits belong to fails by the link (R439, R445; DEDUCED, log 121). -/
def failMove (s : State) (d : DieId) (o : FlitOf) : State :=
  match (s.die d).moves.findIdx? (fun m => !m.load && m.flits d == o) with
  | none => s
  | some n =>
    match (s.die d).moves[n]? with
    | none => s
    | some m => endWb (moveFailed s m codeLINK) d n m

/-- A copy whose flits a dying link has not acknowledged completes with LINK (R445). -/
def failUnacked (s : State) (u : Unacked) : State :=
  match u.owner with
  | .copy k q n =>
    s.modCtx k (fun c => c.setEntries q ((c.queue q).entries.map (fun e =>
      if e.seq = n ∧ !e.done then { e with fail := e.fail ||| failLINK, dead := e.dead || (e.started && !e.parked) } else e)))
  | o@(.move d _ _ _) => failMove s d o

/-- A link may be declared dead: 16 replays of one flit have failed, or 10 µs have passed without an acknowledgement. -/
def BPort.timesOut (x : BPort) (now : Word) : Bool :=
  decide (16 ≤ x.replays) || (!x.unacked.isEmpty && decide (x.since.toNat + 10000 ≤ now.toNat))

/-- Event LINK_DEAD (R445); with the flag the peer declares it (R459). -/
def execEvLinkDead (s : State) : Out :=
  let p := s.arg.port
  let x := s.bport p
  if !x.up || !(s.arg.flag || x.timesOut s.tsc) then .next s
  else
    let s1 := x.unacked.foldl failUnacked (s.setBport p { x with up := false, unacked := [], replays := 0 })
    .next ((((List.finRange 256).flatMap (fun k => [(k, EngineQ.ci), (k, EngineQ.co)])).foldl failOverLink) s1)

/-- Turn BLUMUS ACK: the oldest flit leaves the replay buffer. -/
def blumusAck (s : State) (p : Fin 4) : State :=
  let x := s.bport p
  s.setBport p { x with unacked := x.unacked.drop 1, replays := 0, since := s.tsc }

/-- Turn BLUMUS REPLAY: a replay of the oldest flit fails. -/
def blumusReplay (s : State) (p : Fin 4) : State :=
  let x := s.bport p
  if x.unacked.isEmpty then s else s.setBport p { x with replays := x.replays + 1 }

/-- Event LINK_RETRAIN (R445): a dead link returns with both counters at 0. -/
def execEvLinkRetrain (s : State) : Out :=
  let p := s.arg.port
  let x := s.bport p
  .next (if x.up then s
    else s.setBport p { x with up := true, txSeq := 0, rxSeq := 0, replayFrom := none, unacked := [], replays := 0 })

/-! ## Advanced Error Reporting (R441) -/

/-- Bits of the uncorrectable-error status: a poisoned packet, a completion timeout, an unsupported request. -/
def aerPOISONED : Nat := 12
def aerTIMEOUT : Nat := 14
def aerUNSUPPORTED : Nat := 20

/-- An error is logged when a condition holds. -/
def logError (s : State) (on : Bool) (bit : Nat) : State := if on then { s with aerUncorr := s.aerUncorr ||| (1#32 <<< bit) } else s

/-! ## BAR 2 (R441, R443, R461) -/

/-- Bytes of a host write with their places: those beyond the installed capacity are discarded. -/
def barBytes (a : Nat) (l : List Byte) : Writes :=
  (l.mapIdx (fun i b => (Space.dmem, a + i, ({ val := b, poison := false } : PByte)))).filter (fun w => validDev w.2.1)

/-- A granule of device memory poisoned. -/
def poisonGranule (s : State) (g : Nat) : State :=
  (List.range 32).foldl (fun u i => { u with dmem := u.dmem.set (32 * g + i) { u.dmem.get (32 * g + i) with poison := true } }) s

/-- The granules that writes of the present turn touch are stored poisoned (R458). -/
def poisonGranules (s : State) (ws : Writes) : State :=
  (ws.foldl (fun t w => poisonGranule t (w.2.1 / 32)) s).note s.writer
    (fun sp a n => sp == .dmem && ws.any (fun w => rangesMeet .dmem (w.2.1 / 32 * 32) 32 .dmem a n))

/-- Event BAR2_WRITE: the bytes of a host write at an offset; the flag is EP. Device observers see it at SYS scope, with what the host
has written before (R443). -/
def execEvBar2Write (s : State) : Out :=
  if !barsRespond s then .next (logError s true aerUNSUPPORTED)
  else
    let ws := barBytes s.arg.n s.arg.bytes
    let s1 := logError (putWrites s ws) s.arg.flag aerPOISONED
    let s2 := if s.arg.flag then poisonGranules s1 ws else s1
    .next (s2.addRel { at_ := .word .dmem s.arg.n s.arg.bytes.length, by_ := s.latest .outside, scope := 4, live := true })

/-- A byte of device memory as the host sees it (R133). -/
def hostByte (s : State) (a : Nat) : PByte := seenByte s none .dmem a

/-- The host reads a range as an acquire: it learns what precedes the releases at SYS scope that stand there, and a writer's FE has
performed it (R419, R443). -/
def hostAcquire (s : State) (a n : Nat) : State :=
  hearAt s .outside 4 ((List.range (a % 8 + n)).flatMap (fun i => if (a / 8 * 8 + i) % 8 = 0 then s.heardAt none .dmem (a / 8 * 8 + i) 8 else [])
    |>.filter (·.meets .dmem a n))

/-- Event BAR2_READ: `word` bytes from an offset, with the flag as an acquire; poison sets EP, and an offset beyond the capacity
completes with Unsupported Request. -/
def execEvBar2Read (s0 : State) : Out :=
  let a := s0.arg.n
  let n := s0.arg.word.toNat
  let ok := barsRespond s0 && decide (0 < n) && decide (a / 2 ^ 36 = (a + n - 1) / 2 ^ 36) && validDev a && validDev (a + n - 1)
  let s := if ok && s0.arg.flag then hostAcquire s0 a n else s0
  let r : Reply :=
    if ok then
      let l := (List.range n).map (fun i => hostByte s (a + i))
      .bar2 (l.map (·.val)) (anyPoison l)
    else .unsupported
  .next (logError { s with replies := s.replies ++ [r] } (!ok) aerUNSUPPORTED)

/-! ## Completions of host-window accesses (R444) -/

/-- What a completion brings a waiting load: bytes, or nothing where it is refused; none where it is no answer to it. -/
def answerFor (l : HostLoad) : HostAnswer → Option (Option (List PByte))
  | .data b => if b.length = l.size then some (some (pbytes false b)) else none
  | .poisoned b => if b.length = l.size then some (some (pbytes true b)) else none
  | .error => some none

/-- The oldest host load of a context ends: its register is written, or 0 with poison when it is refused; an ldaq acquires with it from
what the host has done (R120, R121). -/
def endHostLoad (s : State) (k : CtxId) (a : HostAnswer) : State :=
  match (s.ctx k).hostLoads with
  | [] => s
  | l :: r =>
    let s1 := if l.acq then acquire s k 4 [s.latest .outside] else s
    match answerFor l a with
    | none => s
    | some (some b) => s1.modCtx k (fun c => loadResult { c with hostLoads := r } l.d l.signed l.size b)
    | some none => s1.modCtx k (fun c => ({ c with hostLoads := r }.setRegP l.d 0 true).fail failREFUSED)

/-- The oldest posted store of a context is accepted, or refused: then it writes nothing. A poisoned one is counted already (R129). -/
def endPosted (s : State) (k : CtxId) (a : HostAnswer) : State :=
  match (s.ctx k).posted with
  | [] => s
  | p :: r =>
    let s1 := s.modCtx k (fun c => { c with posted := r })
    match a with
    | .error => s1.modCtx k (fun c => if p.poison then c.failMore failREFUSED else c.fail failREFUSED)
    | _ => performPending k s1 p

/-- The completion of a context's waiting load, or with the flag of its oldest posted store. -/
def completeHost (s : State) (a : HostAnswer) : State :=
  if s.arg.flag then endPosted s s.arg.ctx a else endHostLoad s s.arg.ctx a

/-- Event HOST_COMPLETION. -/
def execEvHostCompletion (s : State) : Out :=
  .next (logError (completeHost s s.arg.answer) (match s.arg.answer with | .poisoned _ => true | _ => false) aerPOISONED)

/-- Event HOST_COMPLETION_TIMEOUT: 50 µs without completion refuse the access. -/
def execEvHostCompletionTimeout (s : State) : Out := .next (logError (completeHost s .error) true aerTIMEOUT)

/-! ## Memory errors (R458) -/

/-- Event ECC_UNCORRECTABLE: the granule of a physical address becomes poisoned. -/
def execEvEccUncorrectable (s : State) : Out :=
  .next (if validDev s.arg.n then poisonGranules s [(.dmem, s.arg.n, { val := 0, poison := true })] else s)

/-- Turn ECC CORRECTED: a single-bit error of a granule is corrected, counted and reported. -/
def eccCorrected (s : State) (a : Nat) : State :=
  if validDev a then { s with eccCount := s.eccCount + 1, eccReports := s.eccReports ++ [a / 32 * 32] } else s

/-- Event MEMORY_SCRUB: the scrub reaches a granule and reports it when it is poisoned. -/
def execEvMemoryScrub (s : State) : Out :=
  let g := s.arg.n / 32 * 32
  .next (if anyPoison (s.dmem.read g 32) then { s with memErrors := s.memErrors ++ [g] } else s)

/-! ## Walks (R422 to R424) -/

/-- Event PAGE_TABLE_WALK: a walker serves a core's request for an address of a partition; what it finds fills the structures. -/
def execEvPageTableWalk (s : State) : Out :=
  let acc : Access := { rd := false, wr := false, x := false, host := true, blumus := true }
  let va := fldN s.arg.word 0 48
  match translate s (dieOf s.arg.core) (some s.arg.core) s.arg.part false acc va with
  | .ok (t, _, _) => .next t
  | .error (_, t) => .next t

end Sys2Proof.Machine
end

