-- ==== Sys2Proof/Machine/Boot.lean ====
section
/-!
DEFINITION. Resets (R459), the boot ROM's steps with the firmware checks and the safety limits (R460 to R464), and attestation
(R465, R466).
-/
namespace Sys2Proof.Machine

/-! ## Fuses and image fields (R462, R463) -/

/-- Bytes of the fuse block. -/
def fuseBytes (s : State) (off n : Nat) : List Byte := (List.range n).map (fun i => s.fuses.getD (off + i) 0)
/-- A little-endian number in the fuse block. -/
def fuseNat (s : State) (off n : Nat) : Nat := bytesNat (pbytes false (fuseBytes s off n))

def fuseEKH (s : State) : List Byte := fuseBytes s 0 48
def fuseLKH (s : State) : List Byte := fuseBytes s 48 32
def fuseAKH (s : State) : List Byte := fuseBytes s 80 48
def fuseUDS (s : State) : List Byte := fuseBytes s 128 48
def fuseSVN (s : State) : Nat := fuseNat s 176 2

/-- A fused limit: 0 leaves it to the image, a value outside the range is taken as the nearer end. -/
def fusedLimit (v lo hi : Nat) : Nat := if v = 0 then 0 else Nat.max lo (Nat.min hi v)

def fuseRADIOMIN (s : State) : Nat := fusedLimit (fuseNat s 178 1) 1 255
def fuseTENMAX (s : State) : Nat := fusedLimit (fuseNat s 179 1) 1 255
def fuseISSFLOOR (s : State) : Nat := fusedLimit (fuseNat s 180 4) 1 15000000
def fuseWDFLOOR (s : State) : Nat := fusedLimit (fuseNat s 184 1) 16 24

/-- Bytes of a firmware image. -/
def imgBytes (m : Mem) (off n : Nat) : List Byte := (m.read off n).map (·.val)
/-- A little-endian number in a firmware image. -/
def imgNat (m : Mem) (off n : Nat) : Nat := bytesNat (pbytes false (imgBytes m off n))

def imgBODYSZ (m : Mem) : Nat := imgNat m 8 4
def imgENTRY (m : Mem) : Nat := imgNat m 12 4
def imgSVN (m : Mem) : Nat := imgNat m 6 2
def imgRADIOMIN (m : Mem) : Nat := imgNat m 16 1
def imgTENMAX (m : Mem) : Nat := imgNat m 17 1
def imgWDFLOOR (m : Mem) : Nat := imgNat m 18 1
def imgISSFLOOR (m : Mem) : Nat := imgNat m 20 4

/-- The signed span: the header, then the body. -/
def imgSpan (m : Mem) : List Byte := imgBytes m 0 256 ++ imgBytes m 4352 (imgBODYSZ m)

/-- A limit is in its range, or the fuse supplies it. -/
def limitOk (fuse v lo hi : Nat) : Bool := fuse != 0 || (decide (lo ≤ v) && decide (v ≤ hi))

/-- Check 1 of R463. -/
def headerOk (s : State) (m : Mem) : Bool :=
  imgNat m 0 4 == 0x57474245 && imgNat m 4 2 == 1 &&
  decide (4 ≤ imgBODYSZ m) && decide (imgBODYSZ m ≤ 8384256) && imgBODYSZ m % 4 == 0 &&
  imgENTRY m % 4 == 0 && decide (imgENTRY m < imgBODYSZ m) &&
  (imgBytes m 19 1 ++ imgBytes m 24 232 ++ imgBytes m 3172 1180).all (· == 0) &&
  limitOk (fuseRADIOMIN s) (imgRADIOMIN m) 1 255 && limitOk (fuseTENMAX s) (imgTENMAX m) 1 255 &&
  limitOk (fuseWDFLOOR s) (imgWDFLOOR m) 16 24 && limitOk (fuseISSFLOOR s) (imgISSFLOOR m) 1 15000000

/-- FIRMWARE_VERIFY of an image: the first failing check of R463 in its order, or none. -/
def verifyCopy (s : State) (m : Mem) : Option (BitVec 8) :=
  let ekey := imgBytes m 256 96
  let lkey := imgBytes m 448 56
  if !headerOk s m then some 7
  else if Config.sha384 ekey ≠ fuseEKH s then some 2
  else if !Config.ecdsaOk ekey (imgSpan m) (imgBytes m 352 96) then some 3
  else if Config.sha256 lkey ≠ fuseLKH s then some 4
  else if !Config.lmsOk lkey (imgSpan m) (imgBytes m 504 2668) then some 5
  else if imgSVN m < fuseSVN s then some 6
  else none

/-! ## Resets (R459, R467) -/

/-- A die before the boot ROM's first step. -/
def Die.unbooted : Die := { Die.reset with bootStage := 0 }

/-- Both kinds of reset: every unit as after reset, device memory as it stands until step 3 of R460; what lies outside the module,
what it has already sent, and the model's own fields stay. -/
def resetUnits (s : State) : State :=
  { State.reset with
    dies := Vector.replicate 2 Die.unbooted, dmem := s.dmem, measured := false
    fuses := s.fuses, flash := s.flash
    hostMem := s.hostMem, hostRefused := s.hostRefused, peerMem := s.peerMem, peerWin := s.peerWin
    marks := s.marks, src := s.src, writer := s.writer, late := s.late, sent := s.sent, toHost := s.toHost, txStamps := s.txStamps, flitErrors := s.flitErrors, replies := s.replies
    clock := s.clock, agenda := s.agenda, cur := s.cur, arg := s.arg, fresh := s.fresh }

/-- The fuse block as it is sensed: a bit once programmed stays (R462). -/
def senseFuses (old new : List Byte) : List Byte :=
  (List.range (Nat.max old.length new.length)).map (fun i => old.getD i 0 ||| new.getD i 0)

/-- Event COLD_RESET: the fuse block is sensed, with what the argument's bytes have added to it; the counter starts at 0. -/
def execEvColdReset (s : State) : Out := .next { resetUnits s with fuses := senseFuses s.fuses s.arg.bytes }

/-- Event MODULE_RESET: the counter goes on. -/
def execEvModuleReset (s : State) : Out := .next { resetUnits s with tsc := s.tsc, tscFrac := s.tscFrac }

/-! ## The boot ROM (R460, R464) -/

/-- The die halts with a cause (R461). -/
def haltDie (s : State) (d : DieId) (code : BitVec 8) : State := s.modDie d (fun x => { x with bootStage := 15, failcode := code })
/-- The die has completed a step. -/
def stageDone (s : State) (d : DieId) (n : Nat) : State := s.modDie d (fun x => { x with bootStage := n })

/-- Device memory of a die is zeroed, which clears every poison (step 3). -/
def zeroDie (m : Mem) (d : DieId) : Mem :=
  { cells := m.cells.filter (fun c => c.1 / 2 ^ 36 != d.val), poison := m.poison.filter (fun a => a / 2 ^ 36 != d.val) }

/-- Step 3: the die's device memory holds zeros for every observer. -/
def zeroMemory (s : State) (d : DieId) : State :=
  { s with
    dmem := zeroDie s.dmem d, stale := s.stale.filter (fun x => decide (homeDie x.addr ≠ d))
    rels := s.rels.filter (fun r => match r.at_ with | .word .dmem a _ => decide (homeDie a ≠ d) | _ => true) }

/-- A boot-flash copy is read into the die's reserved L2 (steps 4 and 5). -/
def readCopy (s : State) (d : DieId) (c : Fin 2) : State := s.modDie d (fun x => { x with bootImage := s.flash[c.val], copyB := c == 1 })

/-- The copy read last is verified: one that passes is remembered for step 6. -/
def tryCopy (s0 : State) (d : DieId) (c : Fin 2) (step : Nat) (failed : BitVec 8 → State → State) : State :=
  let s := readCopy s0 d c
  let m := (s.die d).bootImage
  match verifyCopy s m with
  | none => s.modDie d (fun x => { x with
      bootStage := step, bootDigest := some (Config.sha384 (imgSpan m)), bootSvn := BitVec.ofNat 16 (imgSVN m) })
  | some code => failed code s

/-- The other die. -/
def otherDie (d : DieId) : DieId := 1 - d

/-- Both dies have passed with the same copy and the same digest. -/
def diesAgree (a b : Die) : Bool := b.bootStage != 15 && a.copyB == b.copyB && a.bootDigest.isSome && a.bootDigest == b.bootDigest

/-- LIMIT_LOCK (R464), with the limits of a verified image. -/
def lockedLimits (s : State) (m : Mem) : Limits :=
  let pick := fun f v => if f = 0 then v else f
  { radiomin := pick (fuseRADIOMIN s) (imgRADIOMIN m), tenmax := pick (fuseTENMAX s) (imgTENMAX m),
    issfloor := pick (fuseISSFLOOR s) (imgISSFLOOR m), wdfloor := pick (fuseWDFLOOR s) (imgWDFLOOR m) }

/-- Step 7: the limits, QWDOG of every context, the measurements. -/
def lockAll (s : State) (m : Mem) : State :=
  let l := lockedLimits s m
  { s with limits := l, ctxs := Vector.replicate 256 (Ctx.clean l.wdfloor), measured := true }

/-- Event BOOT_ROM_STEP (R460) of a die: the flag says that the ROM's self-check, or memory training, fails; for the self-check R461
names no FAILCODE. A die that waits for the other's verdict, has halted, or runs firmware does nothing. -/
def execEvBootRomStep (s : State) : Out :=
  let d := s.arg.die
  let x := s.die d
  let y := s.die (otherDie d)
  match x.bootStage with
  | 0 =>
    .next (if s.arg.flag then haltDie (s.drawn 1) d (Config.freeByte s.fresh)
      else if (fuseEKH s).all (· == 0) || (fuseLKH s).all (· == 0) then haltDie s d 1 else stageDone s d 1)
  | 1 => .next (if s.arg.flag then haltDie s d 8 else stageDone s d 2)
  | 2 => .next (stageDone (zeroMemory s d) d 3)
  | 3 => .next (tryCopy s d 0 4 (fun _ t => stageDone t d 4))
  | 4 => .next (if x.bootDigest.isSome then stageDone s d 5 else tryCopy s d 1 5 (fun code t => haltDie t d code))
  | 5 =>
    if y.bootStage < 5 then .next s
    else if diesAgree x y then .next (stageDone s d 6)
    else
      let s1 := haltDie s d 9
      .next (if y.bootStage = 15 then s1 else haltDie s1 (otherDie d) 9)
  | 6 => .next (stageDone (if s.measured then s else lockAll s x.bootImage) d 7)
  | 7 => .next (stageDone (s.modDie d (fun z => { z with entry := some (BitVec.ofNat 32 (imgENTRY x.bootImage)) })) d 8)
  | _ => .next s

/-! ## Attestation (R465, R466) -/

/-- A message returned over DOE. -/
def reply (s : State) (r : Reply) : Out := .next { s with replies := s.replies ++ [r] }

/-- The SHA-384 digest of the running copy's signed span. -/
def runningDigest (s : State) : List Byte := (s.die 0).bootDigest.getD Config.resetDigest

/-- Certificate slot 0 is answered: the attestation key exists and the stored root hashes to AKH. -/
def slotAnswers (s : State) (slot : Nat) : Bool := s.measured && slot == 0 && Config.sha384 Config.rootCert == fuseAKH s

/-- Event GET_VERSION: SPDM 1.2. -/
def execEvGetVersion (s : State) : Out := reply s (.version 1 2)
/-- Event GET_CAPABILITIES. -/
def execEvGetCapabilities (s : State) : Out := reply s .capabilities
/-- Event NEGOTIATE_ALGORITHMS: the flag says that the requester offers ECDSA P-384 and SHA-384. -/
def execEvNegotiateAlgorithms (s : State) : Out := reply s (.algorithms s.arg.flag)

/-- Event GET_DIGESTS. -/
def execEvGetDigests (s : State) : Out :=
  reply s (if slotAnswers s 0 then .digests [Config.sha384 (Config.certChain (fuseUDS s) (runningDigest s))] else .spdmError)

/-- Event GET_CERTIFICATE of slot `n`. -/
def execEvGetCertificate (s : State) : Out :=
  reply s (if slotAnswers s s.arg.n then .certificate (Config.certChain (fuseUDS s) (runningDigest s)) else .spdmError)

/-- Event CHALLENGE of slot `n` with a nonce. -/
def execEvChallenge (s : State) : Out :=
  reply s (if slotAnswers s s.arg.n then .challengeAuth (Config.attest (fuseUDS s) (runningDigest s) (leBytes 32 s.arg.nonce.toNat))
    else .spdmError)

/-- A measurement by its index (R466). -/
def measurement (s : State) (i : Nat) : Option (List Byte) :=
  match i with
  | 1 => some (Config.romRevision ++ leBytes 8 1)
  | 2 => some (Config.sha384 (fuseEKH s ++ fuseLKH s ++ fuseAKH s ++ leBytes 2 (fuseSVN s)))
  | 3 => some (runningDigest s)
  | 4 =>
    let l := s.limits
    some (leBytes 1 l.radiomin ++ leBytes 1 l.tenmax ++ leBytes 1 l.wdfloor ++ [0] ++ leBytes 4 l.issfloor)
  | 5 => some ((if (s.die 0).copyB then 1 else 0) :: leBytes 2 (s.die 0).bootSvn.toNat)
  | _ => none

/-- Event GET_MEASUREMENTS of index `n`; 0xFF asks for all. -/
def execEvGetMeasurements (s : State) : Out :=
  let n := s.arg.n
  let all := if n = 0xFF then [1, 2, 3, 4, 5] else [n]
  let got := all.filterMap (fun i => (measurement s i).map (fun v => Reply.measurement (BitVec.ofNat 8 i) v))
  if s.measured && !got.isEmpty then .next { s with replies := s.replies ++ got } else reply s .spdmError

end Sys2Proof.Machine
end

