-- ==== Sys2Proof/Machine/Turns.lean ====
section
/-!
DEFINITION. What moves next: the head of the agenda, or the issue arbiter of the current core (R20, R38, R120, R423, R424, R454); and
the smallest machine that runs one given word next.
-/
namespace Sys2Proof.Machine

/-- What a step does: run an instruction or event at a state, or answer. -/
inductive Plan where
  | exec (i : Instr) (s : State)
  | out (o : Out)

/-- The FE of a context issues what stands at its pc (R38, R159, R182). -/
def planIssue (s0 : State) (k : CtxId) : Plan :=
  let s := { s0 with cur := k, src := k.val, writer := s0.latest (.fe k) }
  match fetchNext s k with
  | .trap t s1 => .out (finish s1 (.error (t, s1)))
  | .bad w s1 => .out (badWord w s1)
  | .instr i s1 => .exec i s1

/-- Firmware runs on both dies. -/
def firmwareRuns (s : State) : Bool := (s.die 0).bootStage == 8 && (s.die 1).bootStage == 8

/-- Events that happen whether or not firmware runs: resets, the boot ROM's steps, SPDM, the timing input, accesses to BAR 2 and to
configuration space (R461). -/
def beforeFirmware (i : Instr) (a : Arg) : Bool :=
  match i with
  | .evColdReset | .evModuleReset | .evBootRomStep | .evGetVersion | .evGetCapabilities | .evNegotiateAlgorithms | .evGetDigests
  | .evGetCertificate | .evChallenge | .evGetMeasurements | .evPpsEdge | .evBar2Read | .evBar2Write | .evEccUncorrectable => true
  | .evRegisterWrite => (match a.reg with | .aerUncorr | .aerCorr => true | _ => false)
  | _ => false

/-- The number of an engine in R456. -/
def EngineQ.unit (q : EngineQ) : Nat := match q with | .ci => 0 | .mx => 1 | .sq => 2 | .vx => 3 | .co => 4

/-- The source number of an engine of a context's core. -/
def engineSrc (k : CtxId) (q : EngineQ) : Nat := 256 + 8 * (coreOf k).val + q.unit

/-- The source number of an event (R456). -/
def eventSrc (i : Instr) (a : Arg) : Nat :=
  match i with
  | .evEntryStart | .evEntryRetire | .evCopyGranule | .evCopyComplete => engineSrc a.ctx a.q
  | .evStreamSlotClaim | .evStreamSlotPublish =>
    match a.producer with | .stream k => engineSrc k .co | .steering _ _ => 1035
  | .evMadderPerform => 1028 + (dieOf (coreOf a.ctx)).val
  | .evFirkinLoad | .evFirkinWriteback => 1026 + a.die.val
  | .evPageTableWalk => a.n
  | .evBar2Write | .evBar2Read | .evHostCompletion | .evHostCompletionTimeout | .evDoorbell => 1030
  | .evBlumusFlitRx => 1031 + a.port.val
  | .evFronthaulFrameRx => 1035
  | .evPpsEdge => 1036
  | .evSnapshotPinEdge => 1037
  | .evAbwaitWake | .evSlwaitWake | .evSlpopWake | .evQwaitWake | .evFenceComplete | .evWfiWake | .evGbarRelease => a.ctx.val
  | _ => 1024 + a.die.val

/-- The entry at the head of a queue writes. -/
def headWriter (s : State) (k : CtxId) (q : EngineQ) : Knower :=
  { who := .eng k q, since := (((s.ctx k).head q).map (·.ord)).getD 0 }

/-- Who writes memory in an event. -/
def eventWriter (s : State) (i : Instr) (a : Arg) : Knower :=
  match i with
  | .evEntryStart | .evEntryRetire | .evCopyGranule | .evCopyComplete => headWriter s a.ctx a.q
  | .evStreamSlotClaim | .evStreamSlotPublish =>
    (match a.producer with | .stream k => headWriter s k .co | .steering _ _ => s.latest .unit)
  | .evMadderPerform => s.latest (.gram a.ctx)
  | .evBar2Write | .evBlumusFlitRx => s.latest .outside
  | .evAbwaitWake | .evSlwaitWake | .evSlpopWake | .evQwaitWake | .evFenceComplete | .evWfiWake => s.latest (.fe a.ctx)
  | _ => s.latest .unit

/-- An event of the table, which is no instruction word, with its argument. -/
def planEvent (s : State) (i : Instr) (a : Arg) : Plan :=
  if (encode i).isNone && (beforeFirmware i a || firmwareRuns s) then
    .exec i { s with arg := a, src := eventSrc i a, writer := eventWriter s i a }
  else .out (.next s)

/-- A mapping firmware may set (R385, R429). -/
def mapOk (s : State) (m : QMap) : Bool :=
  decide (1 ≤ m.rings) && decide (m.rings ≤ 8) && decide (9 ≤ m.sizeLog) && decide (m.sizeLog ≤ 17) &&
  (m.bases.toList.take m.rings).all (fun b => b.toNat % 4096 == 0 && !malformed b && windowCode b == 0) &&
  m.status.toNat % 16 == 0 && !malformed m.status && windowCode m.status == 0 && (s.part m.part).en

/-- A packet that a thread of a queue can take next: its place. -/
def halfRead (s : State) (q : Fin 32) : Option Place :=
  match takePacket s q 0, takePacket s q 1 with
  | .packet p _ _ _, _ => some p.place
  | _, .packet p _ _ _ => some p.place
  | _, _ => none

/-- A queue that is unmapped leaves its tasks unnamed by it; with a packet half read it stops with QUEUE_TORN (R394). -/
def unmap (s : State) (q : Fin 32) (torn : Bool) : State :=
  match torn, halfRead s q with
  | true, some x => stopQueue s q codeTORN x
  | _, _ =>
    let s1 := s.setHq q HQueue.unmapped
    { s1 with tasks := s1.tasks.map (fun t => if t.q = q then { t with orphan := true } else t) }

/-- One buffered store is performed before its turn when no older one of the context reaches a byte of it (R119, R120); loads of the
context that read one of its bytes were performed as it issued. -/
def drainOne (s : State) (k : CtxId) (i : Nat) : State :=
  let c := s.ctx k
  match c.sbuf[i]? with
  | none => s
  | some p =>
    if (c.sbuf.take i).any (fun o => o.meets p.space p.addr p.bytes.length) then s
    else (performPending k s p).modCtx k (fun c => { c with sbuf := c.sbuf.eraseIdx i })

/-- One load that a context has still to perform is performed, unless an older one reads a byte of it (R119, R120). -/
def lateLoadNow (s : State) (k : CtxId) (i : Nat) : State :=
  let c := s.ctx k
  match c.lateLoads[i]? with
  | none => s
  | some l =>
    if (c.lateLoads.take i).any (fun o => o.meets l.space l.addr l.size) then s
    else performLoad k (s.modCtx k (fun c => { c with lateLoads := c.lateLoads.eraseIdx i })) l

/-- A turn other than an issue or an event. -/
def other (s : State) (t : Turn) : State :=
  match t with
  | .issue _ => s
  | .event _ _ => s
  | .tick ns cycles => passTime s ns cycles
  | .drain k i => drainOne s k i
  | .relax k d l => s.modCtx k (fun c => { c with defers := d, lags := l })
  | .loadNow k i => lateLoadNow s k i
  | .land i => landOne s i
  | .tlbEvict c i => s.setCore c { s.core c with tlb := (s.core c).tlb.eraseIdx i }
  | .l2Evict d i => s.modDie d (fun x => { x with l2tlb := x.l2tlb.eraseIdx i })
  | .walkEvict d i => s.modDie d (fun x => { x with walkCache := x.walkCache.eraseIdx i })
  | .mapQueue q m =>
    if firmwareRuns s && mapOk s m && (s.hq q).map.isNone then s.setHq q { HQueue.unmapped with map := some m } else s
  | .unmapQueue q torn => unmap s q torn
  | .regRead x => regRead s x
  | .blumusAck p => blumusAck s p
  | .blumusReplay p => blumusReplay s p
  | .eccCorrected a => eccCorrected s a
  | .readAhead k sp a => readAhead s k sp a
  | .dropAhead i => { s with early := s.early.eraseIdx i }
  | .remoteFill d a => if firmwareRuns s then remoteFill s d a else s
  | .hostFill a => if barsRespond s then fillStale s none a else s
  | .dropStale i => { s with stale := s.stale.eraseIdx i }
  | .engineWrite k q i => engineWrite { s with writer := headWriter s k q } k q i
  | .hostWrite a l => { s with hostMem := s.hostMem.write a l }
  | .hostRefuse a on => { s with hostRefused := if on then a :: s.hostRefused else s.hostRefused.filter (fun x => x / 4 != a / 4) }
  | .peerWrite p a l => { s with peerMem := s.peerMem.set p.val ((s.peerMem[p.val]).write a l) }
  | .peerWindow p b n => { s with peerWin := s.peerWin.set p.val (b, n) }
  | .flashWrite c a l => { s with flash := s.flash.set c.val ((s.flash[c.val]).write a (pbytes false l)) }

/-- Both dies have halted in the boot ROM (R460). -/
def bothHalted (s : State) : Bool := (s.die 0).bootStage == 15 && (s.die 1).bootStage == 15

/-- What the next step does. With nothing on the agenda the core of `cur` issues, if one of its contexts is ready. An issue turn goes to
the arbiter's choice on its core (R38). -/
def plan (s : State) : Plan :=
  match s.agenda with
  | [] =>
    match arbiterPick s (coreOf s.cur) with
    | some k => planIssue s k
    | none => .out (if bothHalted s then .fault .halted else .next s)
  | t :: rest =>
    let s1 := { s with agenda := rest }
    match t with
    | .issue c => (match arbiterPick s1 c with | some k => planIssue s1 k | none => .out (.next s1))
    | .event i a => planEvent s1 i a
    | t => .out (.next (other s1 t))

/-! ## After a turn: whether it came in order -/

/-- A turn that comes too late at its timestamp does not happen (R456): on an empty agenda a nanosecond passes. -/
def passOver (s : State) : State :=
  match s.agenda with
  | [] => passTime s 1 0
  | _ :: r => { s with agenda := r }

/-- The outcome of a turn of a state. -/
def afterTurn (s : State) (o : Out) : Out :=
  match o with
  | .next t => .next (if t.late then passOver s else t)
  | o => o

/-! ## One word, placed where the next step fetches -/

/-- The 64-bit entry of a table: a pointer to the next, or a leaf of an executable, readable and writable page. -/
def entryPointer (table : Nat) : List PByte := natBytes 8 (table + 1)
def entryLeaf (page : Nat) : List PByte := natBytes 8 (page + 0x1F)

/-- Device memory with a four-level table at 0x1000 and below that maps virtual 0x10000 to the page at 0x10000. -/
def placeTables (m : Mem) : Mem :=
  (((m.write 0x1000 (entryPointer 0x2000)).write 0x2000 (entryPointer 0x3000)).write 0x3000 (entryPointer 0x4000)).write
    0x4008 (entryLeaf 0x10000)

/-- Context 0 of core 0 is alone on its core. -/
def emptyCore (s : State) : State :=
  let c := Ctx.clean s.limits.wdfloor
  ((s.setCtx 1 c).setCtx 2 c).setCtx 3 c

/-- The machine with a word where context 0 of core 0 fetches next: a task runs there in partition 0, whose table maps the page, and
nothing stale is held of it. -/
def placeWord (s0 : State) (w : Nat) : State :=
  let s := emptyCore s0
  let c := s.ctx 0
  let s1 := s.setCtx 0 { c with
    run := .running, pc := 0x10000, sbuf := [], hostLoads := [], posted := [], lateLoads := [], defers := false, lags := false, cbud := 0xFFFFFFFF
    csr := { c.csr with partn := 0, hold := false } }
  let s2 := (s1.setPart 0 { s.part 0 with root := 1, ten := true }).setCore 0 { s.core 0 with tlb := [] }
  { s2.modDie 0 (fun x => { x with l2tlb := [], walkCache := [] }) with
    dmem := (placeTables s.dmem).write 0x10000 (natBytes 4 w ++ natBytes 4 0), early := [], stale := [], posts := [], rels := [], marks := [], late := false,
    agenda := [.issue 0], cur := 0 }

end Sys2Proof.Machine
end

