-- ==== Sys2Proof/Machine/Dispatch.lean ====
section
/-!
DEFINITION. One arm per constructor of Instr, each one direct call of its meaning.
-/
namespace Sys2Proof.Machine

def exec (i : Instr) (s : State) : Host.Outcome State Fault Refusal :=
  match i with
  | .add d a b => Sys2Proof.Machine.execAdd d a b s
  | .sub d a b => Sys2Proof.Machine.execSub d a b s
  | .and d a b => Sys2Proof.Machine.execAnd d a b s
  | .or d a b => Sys2Proof.Machine.execOr d a b s
  | .xor d a b => Sys2Proof.Machine.execXor d a b s
  | .andn d a b => Sys2Proof.Machine.execAndn d a b s
  | .sll d a b => Sys2Proof.Machine.execSll d a b s
  | .srl d a b => Sys2Proof.Machine.execSrl d a b s
  | .sra d a b => Sys2Proof.Machine.execSra d a b s
  | .addw d a b => Sys2Proof.Machine.execAddw d a b s
  | .subw d a b => Sys2Proof.Machine.execSubw d a b s
  | .min d a b => Sys2Proof.Machine.execMin d a b s
  | .max d a b => Sys2Proof.Machine.execMax d a b s
  | .minu d a b => Sys2Proof.Machine.execMinu d a b s
  | .maxu d a b => Sys2Proof.Machine.execMaxu d a b s
  | .clz d a => Sys2Proof.Machine.execClz d a s
  | .ctz d a => Sys2Proof.Machine.execCtz d a s
  | .popc d a => Sys2Proof.Machine.execPopc d a s
  | .addi d a imm => Sys2Proof.Machine.execAddi d a imm s
  | .andi d a imm => Sys2Proof.Machine.execAndi d a imm s
  | .ori d a imm => Sys2Proof.Machine.execOri d a imm s
  | .xori d a imm => Sys2Proof.Machine.execXori d a imm s
  | .slli d a imm => Sys2Proof.Machine.execSlli d a imm s
  | .srli d a imm => Sys2Proof.Machine.execSrli d a imm s
  | .srai d a imm => Sys2Proof.Machine.execSrai d a imm s
  | .addiw d a imm => Sys2Proof.Machine.execAddiw d a imm s
  | .mul d a b => Sys2Proof.Machine.execMul d a b s
  | .mulh d a b => Sys2Proof.Machine.execMulh d a b s
  | .mulhu d a b => Sys2Proof.Machine.execMulhu d a b s
  | .mulhsu d a b => Sys2Proof.Machine.execMulhsu d a b s
  | .div d a b => Sys2Proof.Machine.execDiv d a b s
  | .divu d a b => Sys2Proof.Machine.execDivu d a b s
  | .rem d a b => Sys2Proof.Machine.execRem d a b s
  | .remu d a b => Sys2Proof.Machine.execRemu d a b s
  | .mulw d a b => Sys2Proof.Machine.execMulw d a b s
  | .divw d a b => Sys2Proof.Machine.execDivw d a b s
  | .remw d a b => Sys2Proof.Machine.execRemw d a b s
  | .cmp p a b c => Sys2Proof.Machine.execCmp p a b c s
  | .cmpi p a imm c => Sys2Proof.Machine.execCmpi p a imm c s
  | .pand p a b => Sys2Proof.Machine.execPand p a b s
  | .por p a b => Sys2Proof.Machine.execPor p a b s
  | .pxor p a b => Sys2Proof.Machine.execPxor p a b s
  | .pnot p a => Sys2Proof.Machine.execPnot p a s
  | .br p o => Sys2Proof.Machine.execBr p o s
  | .brF p o => Sys2Proof.Machine.execBrF p o s
  | .jmp o => Sys2Proof.Machine.execJmp o s
  | .call o => Sys2Proof.Machine.execCall o s
  | .jr a => Sys2Proof.Machine.execJr a s
  | .callr a => Sys2Proof.Machine.execCallr a s
  | .loopi d imm => Sys2Proof.Machine.execLoopi d imm s
  | .loopb a o => Sys2Proof.Machine.execLoopb a o s
  | .ldB d b o => Sys2Proof.Machine.execLdB d b o s
  | .ldH d b o => Sys2Proof.Machine.execLdH d b o s
  | .ldW d b o => Sys2Proof.Machine.execLdW d b o s
  | .ldD d b o => Sys2Proof.Machine.execLdD d b o s
  | .ldBu d b o => Sys2Proof.Machine.execLdBu d b o s
  | .ldHu d b o => Sys2Proof.Machine.execLdHu d b o s
  | .ldWu d b o => Sys2Proof.Machine.execLdWu d b o s
  | .ldaq d b c z => Sys2Proof.Machine.execLdaq d b c z s
  | .stB r b o => Sys2Proof.Machine.execStB r b o s
  | .stH r b o => Sys2Proof.Machine.execStH r b o s
  | .stW r b o => Sys2Proof.Machine.execStW r b o s
  | .stD r b o => Sys2Proof.Machine.execStD r b o s
  | .strl r b c z => Sys2Proof.Machine.execStrl r b c z s
  | .amoSwap d a z q l c => Sys2Proof.Machine.execAmoSwap d a z q l c s
  | .amoAdd d a z q l c => Sys2Proof.Machine.execAmoAdd d a z q l c s
  | .amoAnd d a z q l c => Sys2Proof.Machine.execAmoAnd d a z q l c s
  | .amoOr d a z q l c => Sys2Proof.Machine.execAmoOr d a z q l c s
  | .amoXor d a z q l c => Sys2Proof.Machine.execAmoXor d a z q l c s
  | .amoMax d a z q l c => Sys2Proof.Machine.execAmoMax d a z q l c s
  | .amoMin d a z q l c => Sys2Proof.Machine.execAmoMin d a z q l c s
  | .amoMaxu d a z q l c => Sys2Proof.Machine.execAmoMaxu d a z q l c s
  | .amoMinu d a z q l c => Sys2Proof.Machine.execAmoMinu d a z q l c s
  | .cas d a b z q l c => Sys2Proof.Machine.execCas d a b z q l c s
  | .fence d c => Sys2Proof.Machine.execFence d c s
  | .qwait b => Sys2Proof.Machine.execQwait b s
  | .gbarStep d => Sys2Proof.Machine.execGbarStep d s
  | .abinit a => Sys2Proof.Machine.execAbinit a s
  | .abarm a b => Sys2Proof.Machine.execAbarm a b s
  | .abwait a p => Sys2Proof.Machine.execAbwait a p s
  | .slwait d a b => Sys2Proof.Machine.execSlwait d a b s
  | .slpop d a => Sys2Proof.Machine.execSlpop d a s
  | .slfree a => Sys2Proof.Machine.execSlfree a s
  | .lea1 d a b => Sys2Proof.Machine.execLea1 d a b s
  | .lea2 d a b => Sys2Proof.Machine.execLea2 d a b s
  | .lea4 d a b => Sys2Proof.Machine.execLea4 d a b s
  | .lea8 d a b => Sys2Proof.Machine.execLea8 d a b s
  | .ispace d a => Sys2Proof.Machine.execIspace d a s
  | .cvspaceOff d a => Sys2Proof.Machine.execCvspaceOff d a s
  | .cvspacePrv d a => Sys2Proof.Machine.execCvspacePrv d a s
  | .cvspaceScr d a => Sys2Proof.Machine.execCvspaceScr d a s
  | .cvspaceDsh d a => Sys2Proof.Machine.execCvspaceDsh d a s
  | .wbase d w => Sys2Proof.Machine.execWbase d w s
  | .rdcsr d imm => Sys2Proof.Machine.execRdcsr d imm s
  | .wrcsr a imm => Sys2Proof.Machine.execWrcsr a imm s
  | .rdts d => Sys2Proof.Machine.execRdts d s
  | .trap n => Sys2Proof.Machine.execTrap n s
  | .shape h a b => Sys2Proof.Machine.execShape h a b s
  | .shrdLo d h => Sys2Proof.Machine.execShrdLo d h s
  | .shrdHi d h => Sys2Proof.Machine.execShrdHi d h s
  | .gbind a b => Sys2Proof.Machine.execGbind a b s
  | .gadv a b => Sys2Proof.Machine.execGadv a b s
  | .gmask a b c => Sys2Proof.Machine.execGmask a b c s
  | .gsnap a b => Sys2Proof.Machine.execGsnap a b s
  | .gfork a b c => Sys2Proof.Machine.execGfork a b c s
  | .groll a b => Sys2Proof.Machine.execGroll a b s
  | .gstat a b => Sys2Proof.Machine.execGstat a b s
  | .qrd d a b => Sys2Proof.Machine.execQrd d a b s
  | .qwr d a b => Sys2Proof.Machine.execQwr d a b s
  | .qslot d a => Sys2Proof.Machine.execQslot d a s
  | .qstop d a b => Sys2Proof.Machine.execQstop d a b s
  | .qret a b => Sys2Proof.Machine.execQret a b s
  | .qfault a b => Sys2Proof.Machine.execQfault a b s
  | .escal a => Sys2Proof.Machine.execEscal a s
  | .tlbinvVa a c => Sys2Proof.Machine.execTlbinvVa a c s
  | .tlbinvTen c => Sys2Proof.Machine.execTlbinvTen c s
  | .qdrop b => Sys2Proof.Machine.execQdrop b s
  | .tokset a f => Sys2Proof.Machine.execTokset a f s
  | .parkdrop o imm => Sys2Proof.Machine.execParkdrop o imm s
  | .poisclr d => Sys2Proof.Machine.execPoisclr d s
  | .limm u => Sys2Proof.Machine.execLimm u s
  | .cin e a b c r => Sys2Proof.Machine.execCin e a b c r s
  | .cnestL e a b c l => Sys2Proof.Machine.execCnestL e a b c l s
  | .cnestGo e a b c r => Sys2Proof.Machine.execCnestGo e a b c r s
  | .cgath e a b c r => Sys2Proof.Machine.execCgath e a b c r s
  | .cpack e a b c r => Sys2Proof.Machine.execCpack e a b c r s
  | .cunpk e a b c r => Sys2Proof.Machine.execCunpk e a b c r s
  | .cmcast e a b c r => Sys2Proof.Machine.execCmcast e a b c r s
  | .cfill e a b c r => Sys2Proof.Machine.execCfill e a b c r s
  | .cout e a b c r => Sys2Proof.Machine.execCout e a b c r s
  | .credAddf e a b c r => Sys2Proof.Machine.execCredAddf e a b c r s
  | .credAddbf e a b c r => Sys2Proof.Machine.execCredAddbf e a b c r s
  | .credAddi e a b c r => Sys2Proof.Machine.execCredAddi e a b c r s
  | .credMaxf e a b c r => Sys2Proof.Machine.execCredMaxf e a b c r s
  | .credMinf e a b c r => Sys2Proof.Machine.execCredMinf e a b c r s
  | .cstrm e a b c => Sys2Proof.Machine.execCstrm e a b c s
  | .cnestoL e a b c l => Sys2Proof.Machine.execCnestoL e a b c l s
  | .cnestoGo e a b c r => Sys2Proof.Machine.execCnestoGo e a b c r s
  | .mcfg e a => Sys2Proof.Machine.execMcfg e a s
  | .mwld e a b => Sys2Proof.Machine.execMwld e a b s
  | .mwswap e => Sys2Proof.Machine.execMwswap e s
  | .msclA e a b => Sys2Proof.Machine.execMsclA e a b s
  | .msclW e a => Sys2Proof.Machine.execMsclW e a s
  | .mma e a b c m => Sys2Proof.Machine.execMma e a b c m s
  | .mzero e a => Sys2Proof.Machine.execMzero e a s
  | .mdrain e a b c p sat m => Sys2Proof.Machine.execMdrain e a b c p sat m s
  | .scfg e a => Sys2Proof.Machine.execScfg e a s
  | .sdecay e a b c => Sys2Proof.Machine.execSdecay e a b c s
  | .schunk e a b c => Sys2Proof.Machine.execSchunk e a b c s
  | .sstep e a b c => Sys2Proof.Machine.execSstep e a b c s
  | .sout e a b c => Sys2Proof.Machine.execSout e a b c s
  | .ssnap e a b c => Sys2Proof.Machine.execSsnap e a b c s
  | .sfork e a b c => Sys2Proof.Machine.execSfork e a b c s
  | .sroll e a b c => Sys2Proof.Machine.execSroll e a b c s
  | .scommit e a => Sys2Proof.Machine.execScommit e a s
  | .spairBf16 e a b => Sys2Proof.Machine.execSpairBf16 e a b s
  | .spairFp32 e a b => Sys2Proof.Machine.execSpairFp32 e a b s
  | .spairPair e a b => Sys2Proof.Machine.execSpairPair e a b s
  | .vld e d a b m => Sys2Proof.Machine.execVld e d a b m s
  | .vst e d a b m sat r => Sys2Proof.Machine.execVst e d a b m sat r s
  | .vaddF e d a b m => Sys2Proof.Machine.execVaddF e d a b m s
  | .vsubF e d a b m => Sys2Proof.Machine.execVsubF e d a b m s
  | .vmulF e d a b m => Sys2Proof.Machine.execVmulF e d a b m s
  | .vfmaF e d a b m => Sys2Proof.Machine.execVfmaF e d a b m s
  | .vfnmaF e d a b m => Sys2Proof.Machine.execVfnmaF e d a b m s
  | .vminF e d a b m => Sys2Proof.Machine.execVminF e d a b m s
  | .vmaxF e d a b m => Sys2Proof.Machine.execVmaxF e d a b m s
  | .vabsF e d a m => Sys2Proof.Machine.execVabsF e d a m s
  | .vnegF e d a m => Sys2Proof.Machine.execVnegF e d a m s
  | .vcadd e d a b m => Sys2Proof.Machine.execVcadd e d a b m s
  | .vcmul e d a b m => Sys2Proof.Machine.execVcmul e d a b m s
  | .vaddI e d a b m => Sys2Proof.Machine.execVaddI e d a b m s
  | .vsubI e d a b m => Sys2Proof.Machine.execVsubI e d a b m s
  | .vmulI e d a b m => Sys2Proof.Machine.execVmulI e d a b m s
  | .vand e d a b m => Sys2Proof.Machine.execVand e d a b m s
  | .vor e d a b m => Sys2Proof.Machine.execVor e d a b m s
  | .vxor e d a b m => Sys2Proof.Machine.execVxor e d a b m s
  | .vsll e d a b m => Sys2Proof.Machine.execVsll e d a b m s
  | .vsrl e d a b m => Sys2Proof.Machine.execVsrl e d a b m s
  | .vsra e d a b m => Sys2Proof.Machine.execVsra e d a b m s
  | .vminI e d a b m => Sys2Proof.Machine.execVminI e d a b m s
  | .vmaxI e d a b m => Sys2Proof.Machine.execVmaxI e d a b m s
  | .vaddsI e d a b m => Sys2Proof.Machine.execVaddsI e d a b m s
  | .vsubsI e d a b m => Sys2Proof.Machine.execVsubsI e d a b m s
  | .vcmpEqF e d a b m => Sys2Proof.Machine.execVcmpEqF e d a b m s
  | .vcmpLtF e d a b m => Sys2Proof.Machine.execVcmpLtF e d a b m s
  | .vcmpLeF e d a b m => Sys2Proof.Machine.execVcmpLeF e d a b m s
  | .vcmpUnF e d a b m => Sys2Proof.Machine.execVcmpUnF e d a b m s
  | .vcmpEqI e d a b m => Sys2Proof.Machine.execVcmpEqI e d a b m s
  | .vcmpLtI e d a b m => Sys2Proof.Machine.execVcmpLtI e d a b m s
  | .vcmpLtuI e d a b m => Sys2Proof.Machine.execVcmpLtuI e d a b m s
  | .vsel e d a b m => Sys2Proof.Machine.execVsel e d a b m s
  | .mand e d a b m => Sys2Proof.Machine.execMand e d a b m s
  | .mor e d a b m => Sys2Proof.Machine.execMor e d a b m s
  | .mxor e d a b m => Sys2Proof.Machine.execMxor e d a b m s
  | .mnot e d a m => Sys2Proof.Machine.execMnot e d a m s
  | .vrotr e d a b m => Sys2Proof.Machine.execVrotr e d a b m s
  | .vbcr e d a b m => Sys2Proof.Machine.execVbcr e d a b m s
  | .vredrAdd e d a m => Sys2Proof.Machine.execVredrAdd e d a m s
  | .vredrMax e d a m => Sys2Proof.Machine.execVredrMax e d a m s
  | .vredrMin e d a m => Sys2Proof.Machine.execVredrMin e d a m s
  | .vrotc e d a b m => Sys2Proof.Machine.execVrotc e d a b m s
  | .vbcc e d a b m => Sys2Proof.Machine.execVbcc e d a b m s
  | .vredcAdd e d a m => Sys2Proof.Machine.execVredcAdd e d a m s
  | .vredcMax e d a m => Sys2Proof.Machine.execVredcMax e d a m s
  | .vredcMin e d a m => Sys2Proof.Machine.execVredcMin e d a m s
  | .vxchC e d a b m => Sys2Proof.Machine.execVxchC e d a b m s
  | .vxchR e d a b m => Sys2Proof.Machine.execVxchR e d a b m s
  | .vslice e d a b j => Sys2Proof.Machine.execVslice e d a b j s
  | .vins e d a b j => Sys2Proof.Machine.execVins e d a b j s
  | .vext e d a b j => Sys2Proof.Machine.execVext e d a b j s
  | .vsfExp2 e d a m => Sys2Proof.Machine.execVsfExp2 e d a m s
  | .vsfExp e d a m => Sys2Proof.Machine.execVsfExp e d a m s
  | .vsfLog2 e d a m => Sys2Proof.Machine.execVsfLog2 e d a m s
  | .vsfLn e d a m => Sys2Proof.Machine.execVsfLn e d a m s
  | .vsfSigmoid e d a m => Sys2Proof.Machine.execVsfSigmoid e d a m s
  | .vsfTanh e d a m => Sys2Proof.Machine.execVsfTanh e d a m s
  | .vsfSilu e d a m => Sys2Proof.Machine.execVsfSilu e d a m s
  | .vsfSoftplus e d a m => Sys2Proof.Machine.execVsfSoftplus e d a m s
  | .vsfSinpi e d a m => Sys2Proof.Machine.execVsfSinpi e d a m s
  | .vsfCospi e d a m => Sys2Proof.Machine.execVsfCospi e d a m s
  | .vrcp e d a m => Sys2Proof.Machine.execVrcp e d a m s
  | .vrsq e d a m => Sys2Proof.Machine.execVrsq e d a m s
  | .vrmsPart e d a => Sys2Proof.Machine.execVrmsPart e d a s
  | .vrms e d a b => Sys2Proof.Machine.execVrms e d a b s
  | .vcvt e d a k m sat r => Sys2Proof.Machine.execVcvt e d a k m sat r s
  | .vqmx e d a q => Sys2Proof.Machine.execVqmx e d a q s
  | .vbkt e d a b m => Sys2Proof.Machine.execVbkt e d a b m s
  | .vmsk e d a b m => Sys2Proof.Machine.execVmsk e d a b m s
  | .vrand e d a b m => Sys2Proof.Machine.execVrand e d a b m s
  | .vpark e k a => Sys2Proof.Machine.execVpark e k a s
  | .vunpark e d k => Sys2Proof.Machine.execVunpark e d k s
  | .ox e d a b m n => Sys2Proof.Machine.execOx e d a b m n s
  | .oload e n a b => Sys2Proof.Machine.execOload e n a b s
  | .ounld e n => Sys2Proof.Machine.execOunld e n s
  | .ostat e d => Sys2Proof.Machine.execOstat e d s
  | .ret => Sys2Proof.Machine.execRet s
  | .gbar => Sys2Proof.Machine.execGbar s
  | .yield => Sys2Proof.Machine.execYield s
  | .yieldExit => Sys2Proof.Machine.execYieldExit s
  | .utret => Sys2Proof.Machine.execUtret s
  | .sret => Sys2Proof.Machine.execSret s
  | .tlbinvAll => Sys2Proof.Machine.execTlbinvAll s
  | .wfi => Sys2Proof.Machine.execWfi s
  | .ochinv => Sys2Proof.Machine.execOchinv s
  | .snaptrig => Sys2Proof.Machine.execSnaptrig s
  | .evEntryStart => Sys2Proof.Machine.execEvEntryStart s
  | .evEntryRetire => Sys2Proof.Machine.execEvEntryRetire s
  | .evCopyGranule => Sys2Proof.Machine.execEvCopyGranule s
  | .evCopyComplete => Sys2Proof.Machine.execEvCopyComplete s
  | .evStreamSlotClaim => Sys2Proof.Machine.execEvStreamSlotClaim s
  | .evStreamSlotPublish => Sys2Proof.Machine.execEvStreamSlotPublish s
  | .evAbwaitWake => Sys2Proof.Machine.execEvAbwaitWake s
  | .evSlwaitWake => Sys2Proof.Machine.execEvSlwaitWake s
  | .evSlpopWake => Sys2Proof.Machine.execEvSlpopWake s
  | .evQwaitWake => Sys2Proof.Machine.execEvQwaitWake s
  | .evFenceComplete => Sys2Proof.Machine.execEvFenceComplete s
  | .evWfiWake => Sys2Proof.Machine.execEvWfiWake s
  | .evGbarRelease => Sys2Proof.Machine.execEvGbarRelease s
  | .evQueueStall => Sys2Proof.Machine.execEvQueueStall s
  | .evDrainAndPark => Sys2Proof.Machine.execEvDrainAndPark s
  | .evDrainAbandon => Sys2Proof.Machine.execEvDrainAbandon s
  | .evUserTrapDelivery => Sys2Proof.Machine.execEvUserTrapDelivery s
  | .evSupervisorTrapDelivery => Sys2Proof.Machine.execEvSupervisorTrapDelivery s
  | .evEscalation => Sys2Proof.Machine.execEvEscalation s
  | .evMadderPerform => Sys2Proof.Machine.execEvMadderPerform s
  | .evStepBoundary => Sys2Proof.Machine.execEvStepBoundary s
  | .evFirkinLoad => Sys2Proof.Machine.execEvFirkinLoad s
  | .evFirkinWriteback => Sys2Proof.Machine.execEvFirkinWriteback s
  | .evRecordWriteback => Sys2Proof.Machine.execEvRecordWriteback s
  | .evPageTableWalk => Sys2Proof.Machine.execEvPageTableWalk s
  | .evDoorbell => Sys2Proof.Machine.execEvDoorbell s
  | .evNop => Sys2Proof.Machine.execEvNop s
  | .evLaunch => Sys2Proof.Machine.execEvLaunch s
  | .evLaunchWarm => Sys2Proof.Machine.execEvLaunchWarm s
  | .evWait => Sys2Proof.Machine.execEvWait s
  | .evWaitSatisfied => Sys2Proof.Machine.execEvWaitSatisfied s
  | .evSignal => Sys2Proof.Machine.execEvSignal s
  | .evIndirect => Sys2Proof.Machine.execEvIndirect s
  | .evCreate => Sys2Proof.Machine.execEvCreate s
  | .evReady => Sys2Proof.Machine.execEvReady s
  | .evCancel => Sys2Proof.Machine.execEvCancel s
  | .evRemove => Sys2Proof.Machine.execEvRemove s
  | .evEnd => Sys2Proof.Machine.execEvEnd s
  | .evPacketFence => Sys2Proof.Machine.execEvPacketFence s
  | .evPacketFenceDone => Sys2Proof.Machine.execEvPacketFenceDone s
  | .evDestroy => Sys2Proof.Machine.execEvDestroy s
  | .evLaunchDecision => Sys2Proof.Machine.execEvLaunchDecision s
  | .evGangPlacement => Sys2Proof.Machine.execEvGangPlacement s
  | .evGangRelease => Sys2Proof.Machine.execEvGangRelease s
  | .evTaskComplete => Sys2Proof.Machine.execEvTaskComplete s
  | .evTaskKill => Sys2Proof.Machine.execEvTaskKill s
  | .evPreemptCheckpoint => Sys2Proof.Machine.execEvPreemptCheckpoint s
  | .evEscalationResume => Sys2Proof.Machine.execEvEscalationResume s
  | .evEscalationKill => Sys2Proof.Machine.execEvEscalationKill s
  | .evBudgetPeriodStart => Sys2Proof.Machine.execEvBudgetPeriodStart s
  | .evReclaim => Sys2Proof.Machine.execEvReclaim s
  | .evHoldEnd => Sys2Proof.Machine.execEvHoldEnd s
  | .evSpillRefill => Sys2Proof.Machine.execEvSpillRefill s
  | .evInterruptWindowExpiry => Sys2Proof.Machine.execEvInterruptWindowExpiry s
  | .evDscarveWrite => Sys2Proof.Machine.execEvDscarveWrite s
  | .evAccsplitWrite => Sys2Proof.Machine.execEvAccsplitWrite s
  | .evLendWrite => Sys2Proof.Machine.execEvLendWrite s
  | .evRcfgWrite => Sys2Proof.Machine.execEvRcfgWrite s
  | .evPtrootWrite => Sys2Proof.Machine.execEvPtrootWrite s
  | .evPcoresWrite => Sys2Proof.Machine.execEvPcoresWrite s
  | .evPrightsWrite => Sys2Proof.Machine.execEvPrightsWrite s
  | .evPeriodWrite => Sys2Proof.Machine.execEvPeriodWrite s
  | .evBudgetWrite => Sys2Proof.Machine.execEvBudgetWrite s
  | .evSteeringEntryWrite => Sys2Proof.Machine.execEvSteeringEntryWrite s
  | .evTsctlStep => Sys2Proof.Machine.execEvTsctlStep s
  | .evTsctlAdj => Sys2Proof.Machine.execEvTsctlAdj s
  | .evRegisterWrite => Sys2Proof.Machine.execEvRegisterWrite s
  | .evFronthaulFrameRx => Sys2Proof.Machine.execEvFronthaulFrameRx s
  | .evPpsEdge => Sys2Proof.Machine.execEvPpsEdge s
  | .evSnapshotPinEdge => Sys2Proof.Machine.execEvSnapshotPinEdge s
  | .evSnapatMatch => Sys2Proof.Machine.execEvSnapatMatch s
  | .evBlumusFlitRx => Sys2Proof.Machine.execEvBlumusFlitRx s
  | .evLinkDead => Sys2Proof.Machine.execEvLinkDead s
  | .evLinkRetrain => Sys2Proof.Machine.execEvLinkRetrain s
  | .evBar2Write => Sys2Proof.Machine.execEvBar2Write s
  | .evBar2Read => Sys2Proof.Machine.execEvBar2Read s
  | .evHostCompletion => Sys2Proof.Machine.execEvHostCompletion s
  | .evHostCompletionTimeout => Sys2Proof.Machine.execEvHostCompletionTimeout s
  | .evEccUncorrectable => Sys2Proof.Machine.execEvEccUncorrectable s
  | .evMemoryScrub => Sys2Proof.Machine.execEvMemoryScrub s
  | .evColdReset => Sys2Proof.Machine.execEvColdReset s
  | .evModuleReset => Sys2Proof.Machine.execEvModuleReset s
  | .evBootRomStep => Sys2Proof.Machine.execEvBootRomStep s
  | .evGetVersion => Sys2Proof.Machine.execEvGetVersion s
  | .evGetCapabilities => Sys2Proof.Machine.execEvGetCapabilities s
  | .evNegotiateAlgorithms => Sys2Proof.Machine.execEvNegotiateAlgorithms s
  | .evGetDigests => Sys2Proof.Machine.execEvGetDigests s
  | .evGetCertificate => Sys2Proof.Machine.execEvGetCertificate s
  | .evChallenge => Sys2Proof.Machine.execEvChallenge s
  | .evGetMeasurements => Sys2Proof.Machine.execEvGetMeasurements s
  | .evFirmwareNotification => Sys2Proof.Machine.execEvFirmwareNotification s
  | .evEventMessageTx => Sys2Proof.Machine.execEvEventMessageTx s

end Sys2Proof.Machine
end

