-- ==== Sys2Proof/Machine/Step.lean ====
section
/-!
DEFINITION. One step of the machine: what moves next (Turns.lean) runs. A word placed for the next step to run.
-/
namespace Sys2Proof.Machine

/-- One step. -/
def step (s : State) : Host.Outcome State Fault Refusal :=
  afterTurn s (match plan s with
    | .exec i t => exec i t
    | .out o => o)

/-- The machine whose next step runs the word `w`; every instruction is 32 bits, so no bit stands above `nbits`. -/
def State.withFetchWord (s : State) (nbits w : Nat) : State := placeWord s (w % 2 ^ nbits % 2 ^ 32)

end Sys2Proof.Machine
end

