-- ==== Sys2Proof/Safety.lean ====
section
/-!
DEFINITION. The terms in which claims speak of the machine: how an instruction completes and what it leaves alone; the results the
spec's tables give the front-end instructions, written down again as arithmetic on numbers, beside the meanings of Machine/;
the canonical form of every memory.
-/
namespace Sys2Proof.Machine

/-- The outcome is a next state. -/
def Completes (o : Out) : Prop := ∃ t, o = .next t

/-- Every memory of the device and of its neighbours is in canonical form. -/
def State.memWf (s : State) : Bool :=
  s.dmem.wf && s.hostMem.wf && s.peerMem.all Mem.wf && s.flash.all Mem.wf && s.dies.all (fun d => d.dsh.wf) &&
  s.cores.all (fun c => c.pool.wf && c.acc.wf && c.spill.wf)

/-! ## The issuing context -/

/-- The context that issues. -/
def State.me (s : State) : Ctx := s.ctx s.cur
/-- A scalar register of the issuing context, as a source reads it (R86). -/
def State.val (s : State) (r : Reg5) : Word := s.me.reg r
/-- A source that holds no poison (R175). -/
def State.clean (s : State) (r : Reg5) : Prop := s.me.regPoison r = false

/-- An instruction of a context, whose accesses have led to a state, has had the effect `f` on the context there, and one issue slot is
spent (R38). -/
def State.didBy (s : State) (k : CtxId) (f : Ctx → Ctx) : State := issued k (s.modCtx k f)
/-- The instruction has had the effect `f` on the issuing context, and one issue slot is spent (R38). -/
def State.did (s : State) (f : Ctx → Ctx) : State := s.didBy s.cur f
/-- The state in which a context issues what its fetch finds, with the rest of the agenda to come. -/
def State.issuing (s : State) (rest : List Turn) (k : CtxId) : State :=
  { s with agenda := rest, cur := k, src := k.val, writer := s.latest (.fe k) }
/-- The state in which an event of the table happens on its argument. -/
def State.happening (s : State) (rest : List Turn) (i : Instr) (a : Arg) : State :=
  { s with agenda := rest, arg := a, src := eventSrc i a, writer := eventWriter s i a }
/-- The instruction has taken a precise trap at a state (R44, R159). -/
def State.trapped (s : State) (c : TrapCode) (v : Word) : State := raise (issued s.cur s) s.cur (feTrap c v)

/-- Outside the issuing context and the issue clock, the device is as before. -/
def sameDevice (s t : State) : Prop :=
  t = { s with ctxs := t.ctxs, clock := t.clock } ∧ ∀ k, k ≠ s.cur → t.ctx k = s.ctx k

/-- The context is as before in everything but its scalar registers, its pc and its issue counts. -/
def sameButRegs (c d : Ctx) : Prop :=
  d = { c with s := d.s, pc := d.pc, issues := d.issues, lastIssue := d.lastIssue, issueLeft := d.issueLeft }
/-- The same for the predicates. -/
def sameButPreds (c d : Ctx) : Prop :=
  d = { c with p := d.p, pc := d.pc, issues := d.issues, lastIssue := d.lastIssue, issueLeft := d.issueLeft }

/-- Every byte of every memory, and every byte as the context's own loads see it, reads as before. -/
def sameBytes (s t : State) : Prop :=
  ∀ sp a, (t.memOf sp).get a = (s.memOf sp).get a ∧ viewByte t s.cur sp a = viewByte s s.cur sp a

/-! ## Results on numbers -/

/-- The low `n` bits of a word as a signed number. -/
def lowInt (n : Nat) (x : Word) : Int := (x.setWidth n).toInt
/-- A signed number cut to 32 bits and sign-extended (the w forms). -/
def wide32 (x : Int) : Word := BitVec.ofInt 64 (BitVec.ofInt 32 x).toInt
/-- How many bits from one end on are 0. -/
def zerosFrom (bit : Nat → Bool) : Nat := ((List.range 64).takeWhile (fun j => !bit j)).length
/-- How many bits are 1. -/
def onesIn (x : Word) : Nat := (List.range 64).countP (fun j => x.getLsbD j)

/-- MAJ 0x00: destination, sources and result of each form (R177). -/
def aluClaim (v : Reg5 → Word) : Instr → Option (Reg5 × List Reg5 × Word)
  | .add d a b => some (d, [a, b], BitVec.ofNat 64 ((v a).toNat + (v b).toNat))
  | .sub d a b => some (d, [a, b], BitVec.ofInt 64 ((v a).toInt - (v b).toInt))
  | .and d a b => some (d, [a, b], v a &&& v b)
  | .or d a b => some (d, [a, b], v a ||| v b)
  | .xor d a b => some (d, [a, b], v a ^^^ v b)
  | .andn d a b => some (d, [a, b], v a &&& ~~~v b)
  | .sll d a b => some (d, [a, b], BitVec.ofNat 64 ((v a).toNat * 2 ^ ((v b).toNat % 64)))
  | .srl d a b => some (d, [a, b], BitVec.ofNat 64 ((v a).toNat / 2 ^ ((v b).toNat % 64)))
  | .sra d a b => some (d, [a, b], BitVec.ofInt 64 ((v a).toInt / 2 ^ ((v b).toNat % 64)))
  | .addw d a b => some (d, [a, b], wide32 ((v a).toInt + (v b).toInt))
  | .subw d a b => some (d, [a, b], wide32 ((v a).toInt - (v b).toInt))
  | .min d a b => some (d, [a, b], BitVec.ofInt 64 (min (v a).toInt (v b).toInt))
  | .max d a b => some (d, [a, b], BitVec.ofInt 64 (max (v a).toInt (v b).toInt))
  | .minu d a b => some (d, [a, b], BitVec.ofNat 64 (min (v a).toNat (v b).toNat))
  | .maxu d a b => some (d, [a, b], BitVec.ofNat 64 (max (v a).toNat (v b).toNat))
  | .clz d a => some (d, [a], BitVec.ofNat 64 (zerosFrom (fun j => (v a).getLsbD (63 - j))))
  | .ctz d a => some (d, [a], BitVec.ofNat 64 (zerosFrom (fun j => (v a).getLsbD j)))
  | .popc d a => some (d, [a], BitVec.ofNat 64 (onesIn (v a)))
  | _ => none

/-- The immediate bits of a form that a LIMM may extend: the prefix's 22 bits above the field, or the field alone (R148). -/
abbrev Prefix := Option (BitVec 22)
/-- Its signed value. -/
def Prefix.int {n : Nat} (u : Prefix) (i : BitVec n) : Int := match u with | none => i.toInt | some x => (x ++ i).toInt
/-- Its unsigned value. -/
def Prefix.nat {n : Nat} (u : Prefix) (i : BitVec n) : Nat := match u with | none => i.toNat | some x => (x ++ i).toNat
/-- How far behind the pc the extended word stands. -/
def Prefix.off (u : Prefix) : Nat := match u with | none => 0 | some _ => 4

/-- MAJ 0x01, alone or behind a LIMM, with the immediate as a signed number; a shift by 0 to 63 (R148, R178). -/
def immClaim (u : Prefix) (v : Reg5 → Word) : Instr → Option (Reg5 × Reg5 × Word)
  | .addi d a i => some (d, a, BitVec.ofInt 64 ((v a).toInt + u.int i))
  | .andi d a i => some (d, a, v a &&& BitVec.ofInt 64 (u.int i))
  | .ori d a i => some (d, a, v a ||| BitVec.ofInt 64 (u.int i))
  | .xori d a i => some (d, a, v a ^^^ BitVec.ofInt 64 (u.int i))
  | .slli d a i => some (d, a, BitVec.ofNat 64 ((v a).toNat * 2 ^ u.nat i))
  | .srli d a i => some (d, a, BitVec.ofNat 64 ((v a).toNat / 2 ^ u.nat i))
  | .srai d a i => some (d, a, BitVec.ofInt 64 ((v a).toInt / 2 ^ u.nat i))
  | .addiw d a i => some (d, a, wide32 ((v a).toInt + u.int i))
  | _ => none

/-- The shift immediates of MAJ 0x01 that lie outside 0 to 63 (R178). -/
def badShift (u : Prefix) : Instr → Bool
  | .slli _ _ i | .srli _ _ i | .srai _ _ i => decide (63 < u.nat i)
  | _ => false

/-- A quotient that truncates toward zero, all ones for the divisor 0 (R179). -/
def quotient (n : Nat) (x y : Int) : Word := if y = 0 then BitVec.ofInt 64 (-1) else BitVec.ofInt 64 (BitVec.ofInt n (x.tdiv y)).toInt
/-- Its remainder, with the sign of the dividend; the dividend for the divisor 0 (R179). -/
def remainder (x y : Int) : Word := if y = 0 then BitVec.ofInt 64 x else BitVec.ofInt 64 (x.tmod y)

/-- MAJ 0x02 (R179). -/
def mulClaim (v : Reg5 → Word) : Instr → Option (Reg5 × List Reg5 × Word)
  | .mul d a b => some (d, [a, b], BitVec.ofNat 64 ((v a).toNat * (v b).toNat))
  | .mulh d a b => some (d, [a, b], BitVec.ofInt 64 ((v a).toInt * (v b).toInt / 2 ^ 64))
  | .mulhu d a b => some (d, [a, b], BitVec.ofNat 64 ((v a).toNat * (v b).toNat / 2 ^ 64))
  | .mulhsu d a b => some (d, [a, b], BitVec.ofInt 64 ((v a).toInt * (v b).toNat / 2 ^ 64))
  | .div d a b => some (d, [a, b], quotient 64 (v a).toInt (v b).toInt)
  | .divu d a b => some (d, [a, b], if v b = 0 then BitVec.ofInt 64 (-1) else BitVec.ofNat 64 ((v a).toNat / (v b).toNat))
  | .rem d a b => some (d, [a, b], remainder (v a).toInt (v b).toInt)
  | .remu d a b => some (d, [a, b], BitVec.ofNat 64 ((v a).toNat % (v b).toNat))
  | .mulw d a b => some (d, [a, b], wide32 ((v a).toInt * (v b).toInt))
  | .divw d a b => some (d, [a, b], quotient 32 (lowInt 32 (v a)) (lowInt 32 (v b)))
  | .remw d a b => some (d, [a, b], remainder (lowInt 32 (v a)) (lowInt 32 (v b)))
  | _ => none

/-- MAJ 0x0B without a trap, but for the window forms (R196). -/
def leaClaim (v : Reg5 → Word) : Instr → Option (Reg5 × List Reg5 × Word)
  | .lea1 d a b => some (d, [a, b], BitVec.ofNat 64 ((v a).toNat + (v b).toNat * 1))
  | .lea2 d a b => some (d, [a, b], BitVec.ofNat 64 ((v a).toNat + (v b).toNat * 2))
  | .lea4 d a b => some (d, [a, b], BitVec.ofNat 64 ((v a).toNat + (v b).toNat * 4))
  | .lea8 d a b => some (d, [a, b], BitVec.ofNat 64 ((v a).toNat + (v b).toNat * 8))
  | _ => none

/-- The condition of a code of cond4 on two values; none for a reserved code (R152, R180). -/
def condClaim (c : Nat) (x y : Word) : Option Prop :=
  match c with
  | 0 => some (x = y)
  | 1 => some (x ≠ y)
  | 2 => some (x.toInt < y.toInt)
  | 3 => some (y.toInt ≤ x.toInt)
  | 4 => some (x.toNat < y.toNat)
  | 5 => some (y.toNat ≤ x.toNat)
  | 6 => some (y.toInt < x.toInt)
  | 7 => some (x.toInt ≤ y.toInt)
  | 8 => some (y.toNat < x.toNat)
  | 9 => some (x.toNat ≤ y.toNat)
  | _ => none

/-- cmpi, alone or behind a LIMM: predicate written, source, and what it says (R148, R180). -/
def cmpiClaim (u : Prefix) (s : State) : Instr → Option (Reg3 × Reg5 × Prop)
  | .cmpi p a i c => (condClaim c.toNat (s.val a) (BitVec.ofInt 64 (u.int i))).map (fun x => (p, a, x))
  | _ => none

/-- MAJ 0x03: predicate written, sources, and what it says (R180). -/
def predClaim (s : State) : Instr → Option (Reg3 × List Reg5 × Prop)
  | .cmp p a b c => (condClaim c.toNat (s.val a) (s.val b)).map (fun x => (p, [a, b], x))
  | .cmpi p a i c => (cmpiClaim none s (.cmpi p a i c)).map (fun x => (x.1, [x.2.1], x.2.2))
  | .pand p a b => some (p, [], s.me.pred a = true ∧ s.me.pred b = true)
  | .por p a b => some (p, [], s.me.pred a = true ∨ s.me.pred b = true)
  | .pxor p a b => some (p, [], s.me.pred a ≠ s.me.pred b)
  | .pnot p a => some (p, [], s.me.pred a = false)
  | _ => none

/-! ## Control transfers (R181 to R183) -/

/-- A transfer: its sources, whether its target stands in a register, the target where it is taken, its other effects. -/
structure Transfer where
  sources : List Reg5
  fromReg : Bool
  target : Option Word
  effect : Ctx → Ctx

/-- pc + 4 x off for a signed offset, from the word that holds it. -/
def fromPc (u : Prefix) (s : State) (o : Int) : Word := s.me.pc + BitVec.ofNat 64 u.off + BitVec.ofInt 64 (4 * o)
/-- The address after an instruction, its prefix included. -/
def nextPc (u : Prefix) (s : State) : Word := s.me.pc + BitVec.ofNat 64 (u.off + 4)
/-- VRB after one loop turn: (VRB - 1) mod 16 (R183). -/
def turned (c : Ctx) : Ctx := { c with csr := { c.csr with vrb := BitVec.ofNat 4 ((c.csr.vrb.toNat + 15) % 16) } }

/-- The forms of MAJ 0x04 and 0x05 that take an offset or a count, alone or behind a LIMM; loopi is no transfer but writes its count
(R148, R181, R183). -/
def offsetClaim (u : Prefix) (s : State) : Instr → Option Transfer
  | .br p o => some ⟨[], false, if s.me.pred p then some (fromPc u s (u.int o)) else none, id⟩
  | .brF p o => some ⟨[], false, if s.me.pred p then none else some (fromPc u s (u.int o)), id⟩
  | .jmp o => some ⟨[], false, some (fromPc u s (u.int o)), id⟩
  | .call o => some ⟨[], false, some (fromPc u s (u.int o)), fun c => c.setReg 1 (nextPc u s)⟩
  | .loopi d n => some ⟨[], false, none, fun c => c.setReg d (BitVec.ofNat 64 (u.nat n))⟩
  | .loopb a o => some ⟨[a], false, if s.val a = 1 then none else some (fromPc u s (u.int o)),
      fun c => turned (c.setReg a (BitVec.ofInt 64 ((s.val a).toInt - 1)))⟩
  | _ => none

/-- loopi and loopb with the register field 0 (R183). -/
def badLoop : Instr → Bool
  | .loopi d _ => decide (d = 0)
  | .loopb a _ => decide (a = 0)
  | _ => false

/-- MAJ 0x04 and 0x05 (R181, R183). -/
def transferClaim (s : State) : Instr → Option Transfer
  | .jr a => some ⟨[a], true, some (s.val a), id⟩
  | .callr a => some ⟨[a], true, some (s.val a), fun c => c.setReg 1 (s.me.pc + 4)⟩
  | .ret => some ⟨[1], true, some (s.val 1), id⟩
  | i => offsetClaim none s i

/-- What a target is refused for (R182): outside the 48-bit range, in a window, or off a word in a register. -/
def targetFault (fromReg : Bool) (t : Word) : Option TrapCode :=
  if t.toInt < -(2 ^ 47) ∨ 2 ^ 47 ≤ t.toInt then some .addressInvalid
  else if 0xF0 ≤ t.toNat / 2 ^ 40 % 256 ∧ t.toNat / 2 ^ 40 % 256 ≤ 0xF2 then some .addressInvalid
  else if fromReg = true ∧ t.toNat % 4 ≠ 0 then some .misaligned
  else none

/-! ## Pointers (R107, R184) -/

/-- A pointer that check 1 of R184 refuses: outside the 48-bit range, or with bits set that its window keeps 0. -/
def malformedPtr (p : Word) : Prop :=
  p.toInt < -(2 ^ 47) ∨ 2 ^ 47 ≤ p.toInt ∨
  (p.toNat / 2 ^ 40 % 256 = 0xF0 ∧ 2 ^ 24 ≤ p.toNat % 2 ^ 40) ∨
  (p.toNat / 2 ^ 40 % 256 = 0xF1 ∧ 2 ^ 22 ≤ p.toNat % 2 ^ 34) ∨
  (p.toNat / 2 ^ 40 % 256 = 0xF2 ∧ 2 ^ 22 ≤ p.toNat % 2 ^ 39)

/-- The pointers to an offset of the three windows (R107, R198). -/
def privAt (o : Nat) : Word := BitVec.ofNat 64 (0xFFFFF00000000000 + o)
def scrAt (c : CoreId) (o : Nat) : Word := BitVec.ofNat 64 (0xFFFFF10000000000 + c.val * 2 ^ 34 + o)
def dshAt (d : DieId) (o : Nat) : Word := BitVec.ofNat 64 (0xFFFFF20000000000 + d.val * 2 ^ 39 + o)

/-! ## Loads, stores, atomics (R184 to R188) -/

/-- Base + offset x size (R184). -/
def plainAddr (u : Prefix) (s : State) (b : Reg5) (o : BitVec 9) (size : Nat) : Word :=
  BitVec.ofInt 64 ((s.val b).toInt + u.int o * size)

/-- A load: destination, base, address, bytes, and whether the value is signed. -/
structure LoadForm where
  d : Reg5
  b : Reg5
  addr : Word
  size : Nat
  signed : Bool

/-- Plain loads, alone or behind a LIMM (R148, R184). -/
def plainLoad (u : Prefix) (s : State) : Instr → Option LoadForm
  | .ldB d b o => some ⟨d, b, plainAddr u s b o 1, 1, true⟩
  | .ldH d b o => some ⟨d, b, plainAddr u s b o 2, 2, true⟩
  | .ldW d b o => some ⟨d, b, plainAddr u s b o 4, 4, true⟩
  | .ldD d b o => some ⟨d, b, plainAddr u s b o 8, 8, true⟩
  | .ldBu d b o => some ⟨d, b, plainAddr u s b o 1, 1, false⟩
  | .ldHu d b o => some ⟨d, b, plainAddr u s b o 2, 2, false⟩
  | .ldWu d b o => some ⟨d, b, plainAddr u s b o 4, 4, false⟩
  | _ => none

/-- Every load; ldaq takes its address as it stands (R185). -/
def loadClaim (s : State) : Instr → Option LoadForm
  | .ldaq d b _ z => some ⟨d, b, s.val b, 2 ^ z.toNat, false⟩
  | i => plainLoad none s i

/-- The 64-bit value of `size` little-endian bytes. -/
def loadedValue (signed : Bool) (size : Nat) (bs : List PByte) : Word :=
  let n := bytesNat bs
  if signed ∧ 2 ^ (8 * size - 1) ≤ n then BitVec.ofInt 64 (n - 2 ^ (8 * size)) else BitVec.ofNat 64 n

/-- A value that memory gave goes to a register: poisoned bytes poison it, and the failure is kept for FENCE (R126, R129). -/
def received (c : Ctx) (d : Reg5) (v : Word) (p : Bool) : Ctx :=
  if p then (c.setRegP d v true).fail 4 else c.setReg d v

/-- A load takes the value of bytes of memory at a state. -/
def loadTakes (s : State) (k : CtxId) (x : LoadForm) (sp : Space) (a off : Nat) : State :=
  let bs := viewBytes s k sp a x.size
  s.didBy k (fun c => (received c x.d (loadedValue x.signed x.size bs) (anyPoison bs)).advance off)

/-- The load whose address stands, `off` behind the pc: the register is written with the bytes that the context's loads see, behind its
own accesses to them (R119), or is still to come: from the host (R444), or from memory in a context that performs its loads late (R120,
R175, R184). -/
def loadDone (s : State) (x : LoadForm) (sp : Space) (a off : Nat) : State :=
  if sp = .host then s.did (fun c =>
    { c with hostLoads := c.hostLoads ++ [({ acq := false, d := x.d, addr := a, size := x.size, signed := x.signed } : HostLoad)] }.advance off)
  else if s.me.defers && aheadSpace s.cur sp then (settleRange s s.cur sp a x.size).didBy s.cur (fun c =>
    { c with lateLoads := c.lateLoads ++
      [({ d := x.d, space := sp, addr := a, size := x.size, signed := x.signed, stamp := s.clock } : LateLoad)] }.advance off)
  else loadTakes (settleRange s s.cur sp a x.size) s.cur x sp a off

/-- A store: data register, base, address, bytes. -/
structure StoreForm where
  r : Reg5
  b : Reg5
  addr : Word
  size : Nat

/-- Plain stores, alone or behind a LIMM (R148, R184). -/
def plainStore (u : Prefix) (s : State) : Instr → Option StoreForm
  | .stB r b o => some ⟨r, b, plainAddr u s b o 1, 1⟩
  | .stH r b o => some ⟨r, b, plainAddr u s b o 2, 2⟩
  | .stW r b o => some ⟨r, b, plainAddr u s b o 4, 4⟩
  | .stD r b o => some ⟨r, b, plainAddr u s b o 8, 8⟩
  | _ => none

/-- Every store; strl takes its address as it stands (R185). -/
def storeClaim (s : State) : Instr → Option StoreForm
  | .strl r b _ z => some ⟨r, b, s.val b, 2 ^ z.toNat⟩
  | i => plainStore none s i

/-- The scope code of a release store. -/
def releaseScope : Instr → Option (BitVec 3)
  | .strl _ _ c _ => some c
  | _ => none
/-- The scope code of an acquire load. -/
def acquireScope : Instr → Option (BitVec 3)
  | .ldaq _ _ c _ => some c
  | _ => none

/-- Byte `i` of a register (R4). -/
def regByte (v : Word) (i : Nat) : Byte := BitVec.ofNat 8 (v.toNat / 2 ^ (8 * i))
/-- The low bytes of a register. -/
def regBytes (v : Word) (size : Nat) : List Byte := (List.range size).map (regByte v)

/-- The store whose address stands: it is buffered, or posted to the host, and ends what the context had read ahead there (R119, R120,
R444); `rel` is the scope of a release store. -/
def storePut (s : State) (x : StoreForm) (sp : Space) (a : Nat) (rel : Option Nat) : State :=
  storeTo s s.cur sp a (regBytes (s.val x.r) x.size) (s.me.regPoison x.r) rel

/-- The store as it waits in the context. -/
def pendingOf (s : State) (x : StoreForm) (sp : Space) (a : Nat) (rel : Option Nat) : Pending :=
  { space := sp, addr := a, bytes := regBytes (s.val x.r) x.size, poison := s.me.regPoison x.r, stamp := s.clock, rel := rel }

/-- No load of the context still to be performed reads a byte of a range (R119). -/
def noLateLoad (s : State) (sp : Space) (a n : Nat) : Prop := ∀ l ∈ s.me.lateLoads, l.meets sp a n = false

/-- An atomic: address register, sources, bytes, AQ, RL, scope code, destination, and the number it writes for the old one, if any, at
8 x n bits. -/
structure Atomic where
  addr : Reg5
  sources : List Reg5
  n : Nat
  acquire : Bool
  release : Bool
  scope : BitVec 3
  dest : Reg5
  new : Nat → Option Nat

/-- SIZE 0 is 4 bytes, SIZE 1 is 8 (R186). -/
def atomBytes (z : BitVec 1) : Nat := 4 + 4 * z.toNat
/-- Signed reading of a number of `n` bytes. -/
def asInt (n x : Nat) : Int := (BitVec.ofNat (8 * n) x).toInt

/-- An amo with its operation on numbers of `n` bytes. -/
def amoClaim (s : State) (d a : Reg5) (z q l : BitVec 1) (c : BitVec 3) (f : Nat → Nat → Nat → Nat) : Option Atomic :=
  let n := atomBytes z
  some ⟨a, [d, a], n, decide (q = 1), decide (l = 1), c, d, fun old => some (f n old ((s.val d).toNat % 2 ^ (8 * n)) % 2 ^ (8 * n))⟩

/-- MAJ 0x08 (R186, R187). -/
def atomicClaim (s : State) : Instr → Option Atomic
  | .amoSwap d a z q l c => amoClaim s d a z q l c (fun _ _ v => v)
  | .amoAdd d a z q l c => amoClaim s d a z q l c (fun _ old v => old + v)
  | .amoAnd d a z q l c => amoClaim s d a z q l c (fun _ old v => old &&& v)
  | .amoOr d a z q l c => amoClaim s d a z q l c (fun _ old v => old ||| v)
  | .amoXor d a z q l c => amoClaim s d a z q l c (fun _ old v => old ^^^ v)
  | .amoMax d a z q l c => amoClaim s d a z q l c (fun n old v => if asInt n old < asInt n v then v else old)
  | .amoMin d a z q l c => amoClaim s d a z q l c (fun n old v => if asInt n v ≤ asInt n old then v else old)
  | .amoMaxu d a z q l c => amoClaim s d a z q l c (fun _ old v => max old v)
  | .amoMinu d a z q l c => amoClaim s d a z q l c (fun _ old v => min old v)
  | .cas d a b z q l c =>
    let n := atomBytes z
    some ⟨a, [d, a, b], n, decide (q = 1), decide (l = 1), c, d,
      fun old => if old = (s.val d).toNat % 2 ^ (8 * n) then some ((s.val b).toNat % 2 ^ (8 * n)) else none⟩
  | _ => none

/-- The scope an atomic acts at (R125). -/
def atomScope (s : State) (x : Atomic) : Nat := honoured (s.val x.addr) x.scope

/-- Every word that an agent's loads are served from is free of what the makers of releases know to be overwritten (R121, R122). -/
def knowsWhat (t : State) (a : Agent) (l : List Rel) : Prop :=
  ∀ r ∈ l, (∀ e ∈ t.early, e.of a = true → goneFor e.gone [r.by_] = false) ∧ (∀ x ∈ t.stale, x.of a = true → goneFor x.gone [r.by_] = false)

/-- Every word a context still holds from ahead of its order was overwritten, and not in the one order that an acquire at a scope ends
(R120, R124). -/
def pastAcquire (t : State) (k : CtxId) (scope : Nat) : Prop :=
  ∀ e ∈ t.early, e.ctx = k → ∃ p, e.gone = some p ∧ (p.common = true → scope < p.scope)

/-- Nothing has happened but that walkers were granted and a poisoned entry was reported (R422, R425). -/
def onlyReports (s t : State) : Prop :=
  t = { s with memErrors := t.memErrors, marks := t.marks, late := t.late } ∧
  (t.memErrors = s.memErrors ∨ ∃ a, t.memErrors = s.memErrors ++ [a])

/-- Only translation structures have been filled, and walkers granted. -/
def onlyFills (s t : State) : Prop :=
  t = { s with cores := t.cores, dies := t.dies, marks := t.marks, late := t.late } ∧
  (∀ c, t.core c = { s.core c with tlb := (t.core c).tlb }) ∧
  (∀ d, t.die d = { s.die d with l2tlb := (t.die d).l2tlb, walkCache := (t.die d).walkCache })

/-! ## Engine instructions at dispatch (R26, R86, R91, R96) -/

/-- What an engine instruction sends: its queue, its DEP field, what has to hold, the operation captured, the change to the
dispatch views, and the oload its captured plane waits for. -/
structure Sent where
  q : EngineQ
  dep : Dep
  ok : Prop
  op : EngineOp
  view : Ctx → Ctx
  waitVx : Option (BitVec 32)

/-- The context after an instruction has been sent at a moment. -/
def Sent.effect (x : Sent) (now : Nat) (c : Ctx) : Ctx :=
  (c.enqueue x.q x.dep { op := x.op, view := x.view, waitVx := x.waitVx } now).advance 0

/-- A form that changes no view and waits for no plane. -/
def sends (q : EngineQ) (dep : Dep) (ok : Prop) (op : EngineOp) : Option Sent := some ⟨q, dep, ok, op, id, none⟩

/-- The physical tile of a name: 0 to 15 stand, 16 to 31 rotate with VRB (R90). -/
def tileNo (s : State) (r : Reg5) : Nat := if r.toNat < 16 then r.toNat else 16 + (r.toNat + s.me.csr.vrb.toNat) % 16
/-- The physical mask of a name: 0 to 3 stand, 4 to 7 rotate (R90). -/
def maskNo (s : State) (m : Reg3) : Nat := if m.toNat < 4 then m.toNat else 4 + (m.toNat + s.me.csr.vrb.toNat) % 4
/-- Every named tile is below T (R88). -/
def tilesIn (s : State) (l : List Reg5) : Prop := ∀ r ∈ l, r.toNat < s.me.csr.tiles

/-- A lane operation on named tiles under a mask. -/
def sendLane (s : State) (e : Dep) (op : LaneOp) (d a b : Reg5) (m : Reg3) : Option Sent :=
  sends .vx e (tilesIn s [d, a, b]) (.lane op (tileNo s d) (tileNo s a) (tileNo s b) (maskNo s m))
/-- A compare. -/
def sendCmp (s : State) (e : Dep) (op : CmpOp) (d : Reg3) (a b : Reg5) (m : Reg3) : Option Sent :=
  sends .vx e (tilesIn s [a, b]) (.vcmp op (maskNo s d) (tileNo s a) (tileNo s b) (maskNo s m))
/-- A mask operation. -/
def sendMask (s : State) (e : Dep) (op : MaskOp) (d a b m : Reg3) : Option Sent :=
  sends .vx e True (.mask op (maskNo s d) (maskNo s a) (maskNo s b) (maskNo s m))
/-- A move with a scalar below a limit (R281, R283). -/
def sendMove (s : State) (e : Dep) (op : Nat → MoveOp) (lim : Nat) (d a b : Reg5) (m : Reg3) : Option Sent :=
  sends .vx e (tilesIn s [d, a] ∧ s.clean b ∧ (s.val b).toNat < lim)
    (.move (op (s.val b).toNat) (tileNo s d) (tileNo s a) (maskNo s m))
/-- A special function (R285). -/
def sendVsf (s : State) (e : Dep) (f : SfOp) (d a : Reg5) (m : Reg3) : Option Sent :=
  sends .vx e (tilesIn s [d, a]) (.vsf f (tileNo s d) (tileNo s a) (maskNo s m))

/-- Lane arithmetic, compares, selects, masks, special functions (R276 to R280, R285). -/
def laneClaim (s : State) : Instr → Option Sent
  | .vaddF e d a b m => sendLane s e .addF d a b m
  | .vsubF e d a b m => sendLane s e .subF d a b m
  | .vmulF e d a b m => sendLane s e .mulF d a b m
  | .vfmaF e d a b m => sendLane s e .fmaF d a b m
  | .vfnmaF e d a b m => sendLane s e .fnmaF d a b m
  | .vminF e d a b m => sendLane s e .minF d a b m
  | .vmaxF e d a b m => sendLane s e .maxF d a b m
  | .vabsF e d a m => sendLane s e .absF d a a m
  | .vnegF e d a m => sendLane s e .negF d a a m
  | .vcadd e d a b m => sendLane s e .cadd d a b m
  | .vcmul e d a b m => sendLane s e .cmul d a b m
  | .vaddI e d a b m => sendLane s e .addI d a b m
  | .vsubI e d a b m => sendLane s e .subI d a b m
  | .vmulI e d a b m => sendLane s e .mulI d a b m
  | .vand e d a b m => sendLane s e .andI d a b m
  | .vor e d a b m => sendLane s e .orI d a b m
  | .vxor e d a b m => sendLane s e .xorI d a b m
  | .vsll e d a b m => sendLane s e .sllI d a b m
  | .vsrl e d a b m => sendLane s e .srlI d a b m
  | .vsra e d a b m => sendLane s e .sraI d a b m
  | .vminI e d a b m => sendLane s e .minI d a b m
  | .vmaxI e d a b m => sendLane s e .maxI d a b m
  | .vaddsI e d a b m => sendLane s e .addsI d a b m
  | .vsubsI e d a b m => sendLane s e .subsI d a b m
  | .vcmpEqF e d a b m => sendCmp s e .eqF d a b m
  | .vcmpLtF e d a b m => sendCmp s e .ltF d a b m
  | .vcmpLeF e d a b m => sendCmp s e .leF d a b m
  | .vcmpUnF e d a b m => sendCmp s e .unF d a b m
  | .vcmpEqI e d a b m => sendCmp s e .eqI d a b m
  | .vcmpLtI e d a b m => sendCmp s e .ltI d a b m
  | .vcmpLtuI e d a b m => sendCmp s e .ltuI d a b m
  | .vsel e d a b m => sends .vx e (tilesIn s [d, a, b]) (.vsel (tileNo s d) (tileNo s a) (tileNo s b) (maskNo s m))
  | .mand e d a b m => sendMask s e .and d a b m
  | .mor e d a b m => sendMask s e .or d a b m
  | .mxor e d a b m => sendMask s e .xor d a b m
  | .mnot e d a m => sendMask s e .not d a a m
  | .vsfExp2 e d a m => sendVsf s e .exp2 d a m
  | .vsfExp e d a m => sendVsf s e .exp d a m
  | .vsfLog2 e d a m => sendVsf s e .log2 d a m
  | .vsfLn e d a m => sendVsf s e .ln d a m
  | .vsfSigmoid e d a m => sendVsf s e .sigmoid d a m
  | .vsfTanh e d a m => sendVsf s e .tanh d a m
  | .vsfSilu e d a m => sendVsf s e .silu d a m
  | .vsfSoftplus e d a m => sendVsf s e .softplus d a m
  | .vsfSinpi e d a m => sendVsf s e .sinpi d a m
  | .vsfCospi e d a m => sendVsf s e .cospi d a m
  | .vrcp e d a m => sends .vx e (tilesIn s [d, a]) (.vrcp (tileNo s d) (tileNo s a) (maskNo s m))
  | .vrsq e d a m => sends .vx e (tilesIn s [d, a]) (.vrsq (tileNo s d) (tileNo s a) (maskNo s m))
  | .vrmsPart e d a => sends .vx e (tilesIn s [d, a]) (.vrmsPart (tileNo s d) (tileNo s a))
  | .vcvt e d a k m sat r => sends .vx e (tilesIn s [d, a] ∧ k.toNat ≤ 8)
      (.vcvt k.toNat (decide (sat = 1)) r (tileNo s d) (tileNo s a) (maskNo s m))
  | .vqmx e d a q => sends .vx e (tilesIn s [d, a, d + 1] ∧ d.toNat ≠ 31)
      (.vqmx q (tileNo s d) (tileNo s (d + 1)) (tileNo s a))
  | .vredrAdd e d a m => sends .vx e (tilesIn s [d, a]) (.redr .add (tileNo s d) (tileNo s a) (maskNo s m))
  | .vredrMax e d a m => sends .vx e (tilesIn s [d, a]) (.redr .max (tileNo s d) (tileNo s a) (maskNo s m))
  | .vredrMin e d a m => sends .vx e (tilesIn s [d, a]) (.redr .min (tileNo s d) (tileNo s a) (maskNo s m))
  | .vredcAdd e d a m => sends .vx e (tilesIn s [d, a]) (.redc .add (tileNo s d) (tileNo s a) (maskNo s m))
  | .vredcMax e d a m => sends .vx e (tilesIn s [d, a]) (.redc .max (tileNo s d) (tileNo s a) (maskNo s m))
  | .vredcMin e d a m => sends .vx e (tilesIn s [d, a]) (.redc .min (tileNo s d) (tileNo s a) (maskNo s m))
  | _ => none

/-- A record a form names passes the checks of R95. -/
def recordIn (s : State) (h : Reg4) (dest : Bool) : Prop := shapeTrap (shapeFields (s.me.shape h)) dest s.me = none
/-- The fields of a named record. -/
def shapeAt (s : State) (h : Reg4) : Shape := shapeFields (s.me.shape h)
/-- The sum of a scalar and the J field of a form (R284). -/
def indexSum (s : State) (b : Reg5) (j : BitVec 3) : Nat := ((s.val b).toNat + j.toNat) % 2 ^ 64
/-- Row and column of a window's origin lie inside a record, the column at a multiple of 64, every other bit 0 (R273). -/
def originIn (v : Word) (h : Shape) : Prop :=
  v.toNat = v.toNat % 2 ^ 11 + v.toNat / 2 ^ 32 % 2 ^ 17 * 2 ^ 32 ∧ v.toNat % 2 ^ 11 < h.rows ∧
  v.toNat / 2 ^ 32 < h.cols ∧ v.toNat / 2 ^ 32 % 64 = 0
/-- A record a vector load or store takes (R273). -/
def vectorRecord (h : Shape) : Prop :=
  (h.space = 0 ∧ h.ilv = 0 ∧ (h.fmt ≤ 7 ∨ (9 ≤ h.fmt ∧ h.fmt ≤ 12) ∨ h.fmt = 14)) ∨ (h.space ≠ 0 ∧ (h.fmt = 0 ∨ h.fmt = 7))

/-- Vector forms with a record, a scalar, a pointer or a park position (R99, R273 to R275, R281 to R284, R286, R289 to R292). -/
def vectorClaim (s : State) : Instr → Option Sent
  | .vld e d a b m => sends .vx e
      (tilesIn s [d] ∧ s.clean b ∧ recordIn s a false ∧ vectorRecord (shapeAt s a) ∧ originIn (s.val b) (shapeAt s a))
      (.vld (tileNo s d) (s.me.shape a) ((s.val b).toNat % 2 ^ 11) ((s.val b).toNat / 2 ^ 32) (maskNo s m))
  | .vst e d a b m sat r => sends .vx e
      (tilesIn s [d] ∧ s.clean b ∧ recordIn s a true ∧ vectorRecord (shapeAt s a) ∧ originIn (s.val b) (shapeAt s a))
      (.vst (tileNo s d) (s.me.shape a) ((s.val b).toNat % 2 ^ 11) ((s.val b).toNat / 2 ^ 32) (maskNo s m) (decide (sat = 1)) r)
  | .vrotr e d a b m => sendMove s e .rotr (2 ^ 64) d a b m
  | .vbcr e d a b m => sendMove s e .bcr 64 d a b m
  | .vrotc e d a b m => sendMove s e .rotc (2 ^ 64) d a b m
  | .vbcc e d a b m => sendMove s e .bcc 16 d a b m
  | .vxchC e d a b m => sendMove s e .xchC 64 d a b m
  | .vxchR e d a b m => sendMove s e .xchR 16 d a b m
  | .vslice e d a b j => sends .vx e (tilesIn s [d, a, a + 1] ∧ a.toNat ≠ 31 ∧ s.clean b ∧ indexSum s b j ≤ 64)
      (.vslice (tileNo s d) (tileNo s a) (tileNo s (a + 1)) (indexSum s b j))
  | .vins e d a b j => sends .vx e (tilesIn s [d, a] ∧ s.clean b ∧ indexSum s b j ≤ 15)
      (.vins (tileNo s d) (tileNo s a) (indexSum s b j))
  | .vext e d a b j => sends .vx e (tilesIn s [d, a] ∧ s.clean b ∧ indexSum s b j ≤ 1023)
      (.vext (tileNo s d) (tileNo s a) (indexSum s b j))
  | .vrms e d a b => sends .vx e (tilesIn s [d, a] ∧ s.clean b ∧ (s.val b).toNat / 2 ^ 32 ≠ 0)
      (.vrms (tileNo s d) (tileNo s a) ((s.val b).toNat / 2 ^ 32) ((s.val b).setWidth 32))
  | .vbkt e d a b m =>
      let v := s.val b
      sends .vx e
        (tilesIn s [a] ∧ s.clean b ∧ recordIn s d true ∧ (shapeAt s d).linear = true ∧ (shapeAt s d).fmt = 8 ∧
          (shapeAt s d).rows = 1 ∧ v.toNat / 2 ^ 36 = 0 ∧ 8 ≤ v.toNat / 2 ^ 32 ∧ v.toNat / 2 ^ 32 ≤ 13 ∧
          v.toNat % 2 ^ 32 ≤ 4294966272 ∧ (shapeAt s d).cols = 2 ^ (v.toNat / 2 ^ 32))
        (.vbkt (s.me.shape d) (tileNo s a) (v.toNat / 2 ^ 32) (v.toNat % 2 ^ 32) (maskNo s m))
  | .vmsk e d a b m =>
      let o := (ownPointer s (s.val b) 128 8).toOption
      sends .vx e (tilesIn s [d, a] ∧ s.clean b ∧ o.isSome)
        (.vmsk (tileNo s d) (tileNo s a) (BitVec.ofNat 64 (o.getD 0)) (maskNo s m))
  | .vrand e d a b m => sends .vx e (tilesIn s [d] ∧ s.clean a ∧ s.clean b) (.vrand (tileNo s d) (s.val a) (s.val b) (maskNo s m))
  | .vpark e k a => some ⟨.vx, e, tilesIn s [a] ∧ k.toNat < s.npark s.cur, .vpark k.toNat (tileNo s a),
      fun c => { c with csr := { c.csr with parkocc := c.csr.parkocc ||| BitVec.ofNat 32 (2 ^ k.toNat) } }, none⟩
  | .vunpark e d k => some ⟨.vx, e, tilesIn s [d] ∧ k.toNat < s.npark s.cur ∧ s.me.csr.parkocc.getLsbD k.toNat = true,
      .vunpark (tileNo s d) k.toNat,
      fun c => { c with csr := { c.csr with parkocc := c.csr.parkocc &&& ~~~BitVec.ofNat 32 (2 ^ k.toNat) } }, none⟩
  | _ => none

/-- The implied tiles of an ox form: after va from 3 inputs on, after vb for 4, after vd for 2 results (R331). -/
def oxExtra (v : OView) (d a b : Reg5) : List Reg5 :=
  (if 3 ≤ v.nin then [a] else []) ++ (if 4 ≤ v.nin then [b] else []) ++ (if v.nout = 2 then [d] else [])

/-- The custom forms and their management (R325 to R331). -/
def ochreClaim (s : State) : Instr → Option Sent
  | .ox e d a b m n =>
      let v := s.me.view n
      some ⟨.vx, e,
        v.loaded = true ∧ tilesIn s [d, a] ∧ (2 ≤ v.nin → tilesIn s [b]) ∧ (v.nin = 1 → b = 0) ∧
          (∀ r ∈ oxExtra v d a b, r.toNat ≠ 31 ∧ r.toNat + 1 < s.me.csr.tiles),
        .ox (slotNo n) v.cur v.nin v.nout (tileNo s d) (tileNo s (d + 1)) (tileNo s a) (tileNo s b) (tileNo s (a + 1))
          (tileNo s (b + 1)) (maskNo s m),
        id, s.me.oloadFor (slotNo n) v.cur⟩
  | .oload e n a b =>
      let v := (s.val b).toNat
      let o := (ownPointer s (s.val a) 16 16).toOption
      let t : Fin 2 := if s.me.slotEmpty (slotNo n) then 0 else 1 - (s.me.view n).cur
      some ⟨.vx, e,
        s.clean a ∧ s.clean b ∧ v / 2 ^ 24 = 0 ∧ 1 ≤ v / 2 ^ 16 ∧ v / 2 ^ 16 ≤ 64 ∧ 1 ≤ v / 2 ^ 8 % 2 ^ 8 ∧ v / 2 ^ 8 % 2 ^ 8 ≤ 4 ∧
          (v % 2 ^ 8 = 1 ∨ v % 2 ^ 8 = 2) ∧ o.isSome,
        .oload (slotNo n) t (BitVec.ofNat 64 (o.getD 0)) (v / 2 ^ 16) (v / 2 ^ 8 % 2 ^ 8) (v % 2 ^ 8),
        fun c => c.setView n { loaded := true, cur := t, nin := v / 2 ^ 8 % 2 ^ 8, nout := v % 2 ^ 8 }, none⟩
  | .ounld e n =>
      if (s.me.view n).loaded then
        some ⟨.vx, e, True, .ounld (slotNo n), fun c => c.setView n { s.me.view n with loaded := false }, none⟩
      else sends .vx e True .relay
  | .ostat e d => sends .vx e (tilesIn s [d]) (.ostat (tileNo s d))
  | _ => none

/-- A matrix form with a change to the matrix view. -/
def sendsView (q : EngineQ) (dep : Dep) (ok : Prop) (op : EngineOp) (f : MView → MView) : Option Sent :=
  some ⟨q, dep, ok, op, fun c => { c with mview := f c.mview }, none⟩

/-- A record in linear scratchpad form, in accumulator form. -/
def linearRec (h : Shape) : Prop := h.space = 0 ∧ h.ilv = 0
/-- The rows an mma takes: those of the activations, or the count in a register (R247). -/
def mmaRows (s : State) (b : Reg4) (c : Reg5) : Nat := if c = 0 then (shapeAt s b).rows else (s.val c).toNat
/-- Scale rows an operation takes: one for each 32 of its MX elements' rows. -/
def mmaScales (s : State) (b : Reg4) (n : Nat) : Nat := if 9 ≤ (shapeAt s b).fmt ∧ (shapeAt s b).fmt ≤ 12 then (n + 31) / 32 else 0

/-- An mscl of `n` rows of scales (R246). -/
def sendScales (s : State) (e : Dep) (src : List Reg5) (p : Word) (n : Nat) : Option Sent :=
  let o := (ownPointer s p (64 * n) 64).toOption
  sendsView .mx e ((∀ r ∈ src, s.clean r) ∧ 1 ≤ n ∧ n ≤ 64 ∧ s.me.mview.scales + n ≤ 64 ∧ o.isSome)
    (.mscl (BitVec.ofNat 64 (o.getD 0)) n) (fun v => { v with scales := v.scales + n })

/-- The matrix engine's forms (R243 to R255). -/
def matrixClaim (s : State) : Instr → Option Sent
  | .mcfg e a =>
      let v := s.val a
      let ok := s.clean a ∧ v.toNat % 2 ^ 8 = 0 ∧ v.toNat / 2 ^ 16 % 2 ^ 16 = 0 ∧ v.toNat / 2 ^ 54 = 0
      if v = s.me.mview.mxcfg then sends .mx e ok .relay else sendsView .mx e ok (.mcfg v) (fun x => { x with mxcfg := v })
  | .mwld e a b =>
      let v := (s.val b).toNat
      let h := shapeAt s a
      let take := if 9 ≤ h.fmt ∧ h.fmt ≤ 12 then 2 else 0
      sendsView .mx e
        (s.clean b ∧ recordIn s a false ∧ h.space = 0 ∧ h.ilv = 1 ∧ v / 2 ^ 32 = 0 ∧ v % 2 ^ 16 < h.rows / 64 ∧
          v / 2 ^ 16 < h.cols / 64 ∧ take ≤ s.me.mview.scales)
        (.mwld (s.me.shape a) (v % 2 ^ 16) (v / 2 ^ 16)) (fun x => { x with shadow := some h.fmt, scales := x.scales - take })
  | .mwswap e => sendsView .mx e True .mwswap (fun x => { x with active := x.shadow, shadow := x.active })
  | .msclA e a b => sendScales s e [a, b] (s.val a) (s.val b).toNat
  | .msclW e a => sendScales s e [a] (s.val a) 2
  | .mma e a b c m =>
      let ha := shapeAt s a
      let hb := shapeAt s b
      let w := s.me.mview.active.getD 0
      let n := mmaRows s b c
      let rate := (mmaRate w hb.fmt).getD 0
      let ok := s.clean c ∧ recordIn s a true ∧ recordIn s b false ∧ s.me.mview.active.isSome ∧ ha.space = 1 ∧ linearRec hb ∧
        ha.rows = hb.rows ∧ (m.getLsbD 1 = true → ha.cols % 2 = 0 ∧ hb.cols % 2 = 0) ∧ (mmaRate w hb.fmt).isSome ∧ hb.cols ≤ 64 ∧
        (if w = 6 then m.getLsbD 0 = false ∧ ha.fmt = 7 else ha.fmt = if m.getLsbD 0 then 13 else 0) ∧
        n ≤ hb.rows ∧ (n * rate + 1) / 2 ≤ 1024 ∧ mmaScales s b n ≤ s.me.mview.scales
      if n = 0 then sends .mx e ok .relay
      else sendsView .mx e ok (.mma m (s.me.shape a) (s.me.shape b) n) (fun x => { x with scales := x.scales - mmaScales s b n })
  | .mzero e a => sends .mx e (recordIn s a true ∧ (shapeAt s a).space = 1) (.mzero (s.me.shape a))
  | .mdrain e a b c p sat m =>
      let ha := shapeAt s a
      let hb := shapeAt s b
      let v := s.me.view c
      let sc := s.me.mview.mxcfg.toNat / 2 ^ 32 % 2 ^ 22
      let sn := ha.rows * (ha.cols / 32)
      some ⟨.mx, e,
        (p = 0 → c = 0) ∧ (p = 1 → v.loaded = true ∧ v.nin = 1 ∧ v.nout = 1 ∧ ha.fmt ≠ 13) ∧ recordIn s a true ∧
          recordIn s b false ∧ linearRec ha ∧ hb.space = 1 ∧ ha.rows = hb.rows ∧ ha.cols = hb.cols ∧
          drainPair hb.fmt ha.fmt = true ∧
          (ha.fmt = 12 → ha.cols % 32 = 0 ∧ sc + sn ≤ s.me.scrSize ∧ ha.hits sc (sc + sn) = false) ∧
          (ha.fmt = 13 → s.me.mview.mxcfg.toNat / 2 ^ 8 % 2 ^ 8 = 0),
        .mdrain m (decide (sat = 1)) (if p = 1 then some (slotNo c, v.cur) else none) (s.me.shape a) (s.me.shape b),
        id, if p = 1 then s.me.oloadFor (slotNo c) v.cur else none⟩
  | _ => none

/-- A state record of N columns, an input of M rows, an output of M rows (R257). -/
def stateRec (h : Shape) (n : Nat) : Prop := h.fmt = 13 ∧ h.rows = 64 ∧ h.cols = n ∧ h.ilv = 0
def inputRec (h : Shape) (n m : Nat) : Prop := linearRec h ∧ h.fmt = 0 ∧ h.cols = 65 + 2 * n ∧ h.rows = m
def outputRec (h : Shape) (m : Nat) : Prop := h.fmt = 0 ∧ h.cols = 64 ∧ h.ilv = 0 ∧ h.rows = m
/-- A version store of V versions (R265). -/
def storeRec (h : Shape) (v : Nat) : Prop := linearRec h ∧ h.fmt = 13 ∧ h.rows = 64 * v + 1 ∧ 1 ≤ v ∧ v ≤ 8
/-- TLEN and N of the SQCFG view. -/
def tlenOf (s : State) : Nat := s.me.mview.sqcfg.toNat / 2 ^ 16 % 2 ^ 8
def nOf (s : State) : Nat := s.me.mview.sqcfg.toNat / 2 ^ 8 % 2 ^ 8

/-- The checks of ssnap, sfork and sroll (R265). -/
def versionIn (s : State) (toStore : Bool) (a b : Reg4) (c : Reg5) : Prop :=
  s.clean c ∧ recordIn s a toStore ∧ recordIn s b (!toStore) ∧ s.me.mview.sqcfg ≠ 0 ∧
  (∃ v, storeRec (shapeAt s a) v ∧ (s.val c).toNat < v) ∧ (shapeAt s a).cols = nOf s ∧ stateRec (shapeAt s b) (nOf s) ∧
  (shapeAt s b).overlaps (shapeAt s a) = false

/-- An spair (R264). -/
def sendPair (s : State) (e : Dep) (f : PairFmt) (code : Nat) (a b : Reg4) : Option Sent :=
  let ha := shapeAt s a
  let hb := shapeAt s b
  sends .sq e
    (recordIn s a true ∧ recordIn s b false ∧ hb.ilv = 0 ∧ (hb.fmt = 0 ∨ hb.fmt = 1 ∨ hb.fmt = 13) ∧ ha.ilv = 0 ∧ ha.fmt = code ∧
      ha.rows = hb.rows ∧ ha.cols = hb.cols ∧ ha.rows * ha.cols ≤ 524288 ∧
      (ha.overlaps hb = false ∨ (f = .pair ∧ s.me.shape a = s.me.shape b)))
    (.spair f (s.me.shape a) (s.me.shape b))

/-- The scan engine's forms (R257 to R266). -/
def scanClaim (s : State) : Instr → Option Sent
  | .scfg e a =>
      let v := s.val a
      let ok := s.clean a ∧ v.toNat % 2 ^ 8 = 0 ∧ v.toNat / 2 ^ 24 = 0 ∧ 1 ≤ v.toNat / 2 ^ 16 ∧ v.toNat / 2 ^ 16 ≤ 64 ∧
        1 ≤ v.toNat / 2 ^ 8 % 2 ^ 8 ∧ v.toNat / 2 ^ 8 % 2 ^ 8 ≤ 128
      if v = s.me.mview.sqcfg then sends .sq e ok .relay else sendsView .sq e ok (.scfg v) (fun x => { x with sqcfg := v })
  | .sdecay e a b c =>
      let ha := shapeAt s a
      let hb := shapeAt s b
      sends .sq e
        (s.clean c ∧ recordIn s a true ∧ recordIn s b false ∧ linearRec ha ∧ ha.fmt = 14 ∧ ha.cols = 1 ∧ linearRec hb ∧ hb.fmt = 0 ∧
          hb.cols = 1 ∧ hb.rows = ha.rows ∧ ha.overlaps hb = false)
        (.sdecay (s.me.shape a) (s.me.shape b) ((s.val c).setWidth 32))
  | .schunk e a b c =>
      sends .sq e
        (recordIn s a true ∧ recordIn s b false ∧ recordIn s c true ∧ s.me.mview.sqcfg ≠ 0 ∧ stateRec (shapeAt s a) (nOf s) ∧
          inputRec (shapeAt s b) (nOf s) (tlenOf s) ∧ outputRec (shapeAt s c) (tlenOf s) ∧
          (shapeAt s c).overlaps (shapeAt s a) = false ∧ (shapeAt s c).overlaps (shapeAt s b) = false ∧
          (shapeAt s a).overlaps (shapeAt s b) = false)
        (.schunk (s.me.shape a) (s.me.shape b) (s.me.shape c))
  | .sstep e a b c =>
      sends .sq e
        (recordIn s a true ∧ recordIn s b false ∧ recordIn s c true ∧ s.me.mview.sqcfg ≠ 0 ∧ stateRec (shapeAt s a) (nOf s) ∧
          inputRec (shapeAt s b) (nOf s) (shapeAt s b).rows ∧ (shapeAt s b).rows ≤ 64 ∧
          outputRec (shapeAt s c) (shapeAt s b).rows ∧ (shapeAt s c).overlaps (shapeAt s a) = false ∧
          (shapeAt s c).overlaps (shapeAt s b) = false ∧ (shapeAt s a).overlaps (shapeAt s b) = false)
        (.sstep (s.me.shape a) (s.me.shape b) (s.me.shape c))
  | .sout e a b c =>
      sends .sq e
        (recordIn s a false ∧ recordIn s b false ∧ recordIn s c true ∧ s.me.mview.sqcfg ≠ 0 ∧ stateRec (shapeAt s a) (nOf s) ∧
          linearRec (shapeAt s b) ∧ (shapeAt s b).fmt = 0 ∧ (shapeAt s b).cols = nOf s ∧ (shapeAt s b).rows ≤ 64 ∧
          outputRec (shapeAt s c) (shapeAt s b).rows ∧ (shapeAt s c).overlaps (shapeAt s a) = false ∧
          (shapeAt s c).overlaps (shapeAt s b) = false)
        (.sout (s.me.shape a) (s.me.shape b) (s.me.shape c))
  | .ssnap e a b c => sends .sq e (versionIn s true a b c) (.ssnap (s.me.shape a) (s.me.shape b) (s.val c).toNat)
  | .sfork e a b c => sends .sq e (versionIn s false a b c) (.sfork (s.me.shape a) (s.me.shape b) (s.val c).toNat)
  | .sroll e a b c => sends .sq e (versionIn s false a b c) (.sroll (s.me.shape a) (s.me.shape b) (s.val c).toNat)
  | .scommit e a => sends .sq e (recordIn s a true ∧ ∃ v, storeRec (shapeAt s a) v) (.scommit (s.me.shape a))
  | .spairBf16 e a b => sendPair s e .bf16 1 a b
  | .spairFp32 e a b => sendPair s e .fp32 0 a b
  | .spairPair e a b => sendPair s e .pair 13 a b
  | _ => none

/-! ## Copies at dispatch (R210 to R227) -/

/-- The barrier register of a .bar form and the pointer in it (R157, R213). -/
def barSource (c : Reg5) (r : BitVec 1) : List Reg5 := if r = 1 then [c + 1] else []
def barWord (s : State) (c : Reg5) (r : BitVec 1) : Option Word := if r = 1 then some (s.val (c + 1)) else none
/-- The sources of a copy are clean, and the register after `c` exists where it is named. -/
def copySources (s : State) (l : List Reg5) (c : Reg5) (r : BitVec 1) : Prop :=
  (∀ x ∈ l ++ barSource c r, s.clean x) ∧ (r = 1 → c.toNat ≠ 31)
/-- A byte count: a multiple of 4 up to the limit (R210). -/
def countIn (n : Word) : Prop := n.toNat % 4 = 0 ∧ n.toNat ≤ 268435452
/-- An extent passes the address checks of R211, and its window. -/
def passes (s : State) (x : Extent) (foreign : Bool) (w : Window) : Prop := copyPointer s x foreign = .ok w
/-- Destination and source pass, the barrier too, and they do not overlap (R211 to R213). -/
def placesIn (s : State) (x y : Extent) (foreign : Bool) (bar : Option Word) : Prop :=
  (∃ w, passes s x foreign w ∧ barPointer s bar (w.coreFor (coreOf s.cur)) = .ok ()) ∧ (∃ w, passes s y false w) ∧
  extentsMeet x y = false
/-- The word's base is in a window of the core itself: private or scratchpad (R225). -/
def ownWindow (p : Word) : Prop := ¬ malformedPtr p ∧ (p.toNat / 2 ^ 40 % 256 = 0xF0 ∨ p.toNat / 2 ^ 40 % 256 = 0xF1)

/-- The copy of a form with its registers. -/
def copyRec (s : State) (kind : CopyKind) (a b c : Reg5) (r : BitVec 1) (n : Nat) : CopyOp :=
  { kind := kind, ra := s.val a, rb := s.val b, rc := s.val c, bar := barWord s c r, mask := 0, shape := 0, levels := [], total := n }

/-- cin and cout (R216). -/
def sendCopy (s : State) (q : EngineQ) (e : Dep) (kind : CopyKind) (foreign : Bool) (a b c : Reg5) (r : BitVec 1) : Option Sent :=
  let n := (s.val c).toNat
  sends q e
    (copySources s [a, b, c] c r ∧ countIn (s.val c) ∧
      placesIn s (extentOf (s.val a) n) (extentOf (s.val b) n) foreign (barWord s c r))
    (.copy (copyRec s kind a b c r n))

/-- A reducing copy (R225). -/
def sendReduce (s : State) (e : Dep) (op : CredOp) (a b c : Reg5) (r : BitVec 1) : Option Sent :=
  let n := (s.val c).toNat
  sends .co e
    (copySources s [a, b, c] c r ∧ countIn (s.val c) ∧ ownWindow (s.val b) ∧
      placesIn s (extentOf (s.val a) n) (extentOf (s.val b) n) true (barWord s c r))
    (.copy (copyRec s (.cred op) a b c r n))

/-- A nest level written (R217). -/
def sendLevel (s : State) (q : EngineQ) (e : Dep) (kind : CopyKind) (a b c : Reg5) (l : BitVec 3) : Option Sent :=
  let stride := fun (v : Word) => v.toInt % 4 = 0 ∧ -(2 ^ 31) ≤ v.toInt ∧ v.toInt ≤ 2 ^ 31 - 4
  let put := fun (v : Vector Level 6) =>
    Vector.ofFn (fun i : Fin 6 => if i.val = l.toNat then ⟨(s.val a).toNat, (s.val b).toInt, (s.val c).toInt⟩ else v[i.val])
  some ⟨q, e,
    (∀ x ∈ [a, b, c], s.clean x) ∧ l.toNat < 6 ∧ (s.val a).toNat ≤ 1048576 ∧ stride (s.val b) ∧ stride (s.val c),
    .copy { copyRec s kind a b c 0 0 with mask := BitVec.ofNat 64 l.toNat },
    fun k => if q = .co then { k with nestCo := put k.nestCo } else { k with nestCi := put k.nestCi }, none⟩

/-- A nest started (R218): the first C levels, their counts' product in words. -/
def sendNest (s : State) (q : EngineQ) (e : Dep) (kind : CopyKind) (a b c : Reg5) (r : BitVec 1) : Option Sent :=
  let ls := ((s.me.nest q).toList).take (s.val c).toNat
  let total := 4 * (ls.map (·.n)).prod
  sends q e
    (copySources s [a, b, c] c r ∧ 1 ≤ (s.val c).toNat ∧ (s.val c).toNat ≤ 6 ∧ total ≤ 268435452 ∧
      placesIn s (nestExtent (s.val a) total (ls.map (fun l => (l.n, l.ds)))) (nestExtent (s.val b) total (ls.map (fun l => (l.n, l.ss))))
        (decide (q = .co)) (barWord s c r))
    (.copy { copyRec s kind a b c r total with levels := ls })

/-- A pack or unpack (R222, R223): the rows of the record one after another, `pack` toward the linear side. -/
def sendPack (s : State) (e : Dep) (pack : Bool) (a : Reg4) (b c : Reg5) (r : BitVec 1) : Option Sent :=
  let h := shapeAt s a
  let n := (s.val c).toNat
  let lin := extentOf (s.val b) ((h.rows - 1) * n + h.rowBytes)
  let rec' := extentOf (scrAt (coreOf s.cur) (s.me.scrStart + h.base)) h.extent
  sends .ci e
    (copySources s [b, c] c r ∧ recordIn s a (!pack) ∧ h.space = 0 ∧ 2 ≤ h.ilv ∧ h.fmt ≤ 12 ∧ h.rowBytes % 4 = 0 ∧ n % 4 = 0 ∧
      (h.rowBytes ≤ n ∨ (pack = false ∧ n = 0)) ∧
      (∃ w, passes s lin false w ∧
        barPointer s (barWord s c r) (if pack then w.coreFor (coreOf s.cur) else coreOf s.cur) = .ok ()) ∧
      extentsMeet lin rec' = false)
    (.copy { copyRec s (if pack then .cpack else .cunpk) b b c r (h.rows * h.rowBytes) with ra := 0, shape := s.me.shape a })

/-- The copy forms (R216 to R227). -/
def copyClaim (s : State) : Instr → Option Sent
  | .cin e a b c r => sendCopy s .ci e .cin false a b c r
  | .cout e a b c r => sendCopy s .co e .cout true a b c r
  | .cfill e a b c r =>
      let n := (s.val c).toNat
      sends .ci e
        (copySources s [a, b, c] c r ∧ countIn (s.val c) ∧
          ∃ w, passes s (extentOf (s.val a) n) false w ∧ barPointer s (barWord s c r) (w.coreFor (coreOf s.cur)) = .ok ())
        (.copy (copyRec s .cfill a b c r n))
  | .cnestL e a b c l => sendLevel s .ci e .nest a b c l
  | .cnestoL e a b c l => sendLevel s .co e .nesto a b c l
  | .cnestGo e a b c r => sendNest s .ci e .nest a b c r
  | .cnestoGo e a b c r => sendNest s .co e .nesto a b c r
  | .cgath e a b c r =>
      let d := s.val c
      let total := gathRows d * gathRowsz d
      sends .ci e
        (copySources s [a, b, c] c r ∧ gathOk s d = true ∧ (∃ w, passes s (pageExtent (s.val b) d) false w) ∧
          ∃ w, passes s (extentOf (s.val a) total) false w ∧ barPointer s (barWord s c r) (w.coreFor (coreOf s.cur)) = .ok ())
        (.copy (copyRec s .cgath a b c r total))
  | .cpack e a b c r => sendPack s e true a b c r
  | .cunpk e a b c r => sendPack s e false a b c r
  | .cmcast e a b c r =>
      let mk := s.val (a + 1)
      let own := mk.getLsbD (coreOf s.cur).val
      let n := (s.val c).toNat
      let here := extentOf (withCore (s.val a) (coreOf s.cur)) (if own then n else 0)
      sends .ci e
        (a.toNat ≠ 31 ∧ copySources s [a, a + 1, b, c] c r ∧ countIn (s.val c) ∧ ¬ malformedPtr (s.val a) ∧
          (s.val a).toNat / 2 ^ 40 % 256 = 0xF1 ∧ (∃ w, passes s here false w) ∧ (∃ w, passes s (extentOf (s.val b) n) false w) ∧
          mcastBar s (barWord s c r) own = .ok () ∧ extentsMeet here (extentOf (s.val b) n) = false)
        (.copy { copyRec s .cmcast a b c r (if mk = 0 then 0 else n) with mask := mk })
  | .credAddf e a b c r => sendReduce s e .addf a b c r
  | .credAddbf e a b c r => sendReduce s e .addbf a b c r
  | .credAddi e a b c r => sendReduce s e .addi a b c r
  | .credMaxf e a b c r => sendReduce s e .maxf a b c r
  | .credMinf e a b c r => sendReduce s e .minf a b c r
  | .cstrm e a b c =>
      let n := (s.val c).toNat
      sends .co e
        ((∀ x ∈ [a, b, c], s.clean x) ∧ n % 4 = 0 ∧ n ≤ 65536 ∧ ¬ malformedPtr (s.val a) ∧
          (s.val a).toNat / 2 ^ 40 % 256 = 0xF1 ∧ (s.val a).toNat % 32 = 0 ∧ (∃ w, passes s (extentOf (s.val a) 32) true w) ∧
          ∃ w, passes s (extentOf (s.val b) n) false w)
        (.copy (copyRec s .cstrm a b c 0 n))
  | _ => none

/-! ## Copies as they move (R216 to R226, R228) -/

/-- The place of an address of a copy, in the window of its pointer or by translation, with what translation structures have been filled
on the way (R113, R228). -/
def PlaceOf (u : State) (k : CtxId) (acc : Access) (code : Nat) (va : Word) (sp : Space) (a : Nat) : Prop :=
  ∃ s1 s2, onlyFills u s1 ∧ copyPlace s1 k acc code va = .ok (s2, sp, a)

/-- The byte there as the units of the context's die see it (R116). -/
def ReadsAt (u : State) (k : CtxId) (code : Nat) (va : Word) (v : PByte) : Prop :=
  ∃ sp a, PlaceOf u k accCopySrc code va sp a ∧ v = dieByte u (dieOf (coreOf k)) sp a

/-- The value of one half of a byte. -/
def halfOf (y : PByte) (high : Bool) : Nat := if high then y.val.toNat / 16 else y.val.toNat % 16

/-- A byte that a copy moves is the one its source gives: a constant, the byte at an address, two halves of bytes, or a byte of the page
that a page-list entry names. `own` says what the destination holds. -/
def TakenFrom (u : State) (k : CtxId) (op : CopyOp) (v : PByte) (own : PByte → Prop) : ByteSrc → Prop
  | .const b => v = b
  | .at va => ReadsAt u k op.srcWindow va v
  | .halves lo none => ∃ x y, ReadsAt u k op.srcWindow lo.1 x ∧ own y ∧
      v.val.toNat = halfOf x lo.2 + 16 * halfOf y true ∧ v.poison = (x.poison || y.poison)
  | .halves lo (some hi) => ∃ x y, ReadsAt u k op.srcWindow lo.1 x ∧ ReadsAt u k op.srcWindow hi.1 y ∧
      v.val.toNat = halfOf x lo.2 + 16 * halfOf y hi.2 ∧ v.poison = (x.poison || y.poison)
  | .paged entry off => ∃ l : List PByte, l.length = 8 ∧
      (∀ i, i < 8 → ReadsAt u k op.srcWindow (entry + BitVec.ofNat 64 i) (l.getD i ⟨0, false⟩)) ∧
      (anyPoison l = true → v.poison = true ∧ gathSlotv op.rc = false) ∧
      (anyPoison l = false → ReadsAt u k 0 (BitVec.ofNat 64 (bytesNat l) + BitVec.ofNat 64 off) v)

/-- The distance a nest has gone at word `j`: the sum over its levels of index times stride, i0 fastest (R219). -/
def nestGone (f : Level → Int) (ls : List Level) (j : Nat) : Int :=
  ((List.range ls.length).map (fun i =>
    let l := ls.getD i ⟨0, 0, 0⟩
    Int.ofNat (j / ((ls.take i).map (·.n)).prod % l.n) * f l)).sum

/-! ## Special registers (R104, R231, R364) -/

/-- Sign and zero bits aside, a handler or resume address in a CSR: bits [63:2] in place. -/
def atBit2 (x : BitVec 62) : Nat := 4 * x.toNat
/-- The value of a Bool. -/
def bitN (b : Bool) : Nat := if b then 1 else 0

/-- CSRs by number: the value rdcsr gives, as a sum of fields in place. -/
def csrClaim (s : State) (n : Nat) : Option Nat :=
  let r := s.me.csr
  match n with
  | 0x000 => some 1
  | 0x001 => some (s.cur.val + r.rank.toNat * 2 ^ 8 + r.gsize.toNat * 2 ^ 16)
  | 0x002 => some r.stepn.toNat
  | 0x003 => some r.nslots.toNat
  | 0x004 => some r.ragbase.toNat
  | 0x005 => some r.remt.toNat
  | 0x008 => some r.vrb.toNat
  | 0x009 => some (s.pslots s.cur % 256 + r.dslots % 256 * 2 ^ 8 + s.npark s.cur * 2 ^ 16 + r.parkocc.toNat * 2 ^ 32)
  | 0x00A => some ((r.poolBase + r.poolReg * 2 ^ 10 + r.poolScr * 2 ^ 20 + r.poolL1 * 2 ^ 30 + r.poolPriv * 2 ^ 40) % 2 ^ 64)
  | 0x00B => some ((s.die 0).dscarve.toNat + (s.die 1).dscarve.toNat * 2 ^ 16)
  | 0x010 => some r.nflag.toNat
  | 0x011 => some r.nctl.toNat
  | 0x012 => some (r.cpFail.toNat + r.cpCount.toNat * 2 ^ 8 + r.cpQueue.toNat * 2 ^ 25 + r.cpSeq.toNat * 2 ^ 32)
  | 0x013 => some r.cpmask.toNat
  | 0x018 => some (bitN r.utvecEn + 2 * bitN r.utvecAct + atBit2 r.utvecBase)
  | 0x019 => some (atBit2 r.uepc)
  | 0x01A => some (r.ucauseCode.toNat + r.ucauseQueue.toNat * 2 ^ 8 + r.ucauseSeq.toNat * 2 ^ 32)
  | 0x01B => some r.utval.toNat
  | 0x100 => some (bitN r.sact + 2 * bitN r.note + 8 * bitN r.dlc + 16 * bitN r.hold)
  | 0x101 => some (atBit2 r.stvecBase)
  | 0x102 => some (atBit2 r.sepc)
  | 0x103 => some (r.scauseCode.toNat + r.scauseQueue.toNat * 2 ^ 8 + r.scauseSeq.toNat * 2 ^ 32)
  | 0x104 => some r.stval.toNat
  | 0x105 => some r.sscratch.toNat
  | 0x108 => some r.qwdog.toNat
  | 0x109 => some (s.core (coreOf s.cur)).accsplit.toNat
  | 0x10A => some r.partn.val
  | 0x10B => some r.ctximg.toNat
  | _ => none

/-- The CSRs of the context after a write, field by field by access type (R5): RO fields stay, W1C bits are cleared by ones. -/
def csrWrite (r : Csr) (floor n : Nat) (v : Word) : Csr :=
  match n with
  | 0x005 => { r with remt := v }
  | 0x008 => { r with vrb := BitVec.ofNat 4 v.toNat }
  | 0x010 => { r with nflag := r.nflag &&& ~~~BitVec.ofNat 7 v.toNat }
  | 0x011 => { r with nctl := BitVec.ofNat 5 v.toNat }
  | 0x012 => { r with cpCount := BitVec.ofNat 8 (v.toNat / 2 ^ 8), cpFail := r.cpFail &&& ~~~BitVec.ofNat 4 v.toNat }
  | 0x018 => { r with utvecBase := BitVec.ofNat 62 (v.toNat / 4), utvecEn := decide (v.toNat % 2 = 1) }
  | 0x019 => { r with uepc := BitVec.ofNat 62 (v.toNat / 4) }
  | 0x100 => { r with note := r.note && decide (v.toNat / 2 % 2 = 0) }
  | 0x101 => { r with stvecBase := BitVec.ofNat 62 (v.toNat / 4) }
  | 0x102 => { r with sepc := BitVec.ofNat 62 (v.toNat / 4) }
  | 0x105 => { r with sscratch := v }
  | 0x108 => { r with qwdog := BitVec.ofNat 32 (max (v.toNat % 2 ^ 32) (2 ^ floor)) }
  | _ => r

/-- The SYS instructions (R367) and rdcsr and wrcsr of a privileged number (R104). -/
def needsSMode : Instr → Bool
  | .sret | .escal _ | .tlbinvVa _ _ | .tlbinvTen _ | .tlbinvAll | .qdrop _ | .tokset _ _ | .parkdrop _ _ | .wfi | .ochinv
  | .poisclr _ | .snaptrig => true
  | .rdcsr _ n | .wrcsr _ n => decide (0x100 ≤ n.toNat)
  | _ => false

/-! ## Madder and the requests (R300 to R303, R312) -/

/-- An automaton operand of the executing die: its number (R312). -/
def automatonIn (s : State) (v : Word) : Prop :=
  v.toNat / 2 ^ 10 = 0 ∧ v.toNat / 2 ^ 9 = (dieOf (coreOf s.cur)).val
/-- The automaton's number on its die. -/
def automatonNo (v : Word) : Nat := v.toNat % 2 ^ 9

/-- The G-instructions that are sent to the unit: sources, what has to hold, and what is sent (R312). -/
def madderClaim (s : State) : Instr → Option (List Reg5 × Prop × GOp)
  | .gbind a b => some ([a, b],
      automatonIn s (s.val a) ∧ ¬ malformedPtr (s.val b) ∧
        ((s.val b).toNat / 2 ^ 40 % 256 < 0xF0 ∨ 0xF2 < (s.val b).toNat / 2 ^ 40 % 256) ∧ (s.val b).toNat % 64 = 0,
      .bind (automatonNo (s.val a)) (s.val b))
  | .gadv a b => some ([a, b], automatonIn s (s.val a) ∧ (s.val b).toNat < 2 ^ 32, .adv (automatonNo (s.val a)) (s.val b).toNat)
  | .gmask a b c =>
      let o := (ownPointer s (s.val b) 128 8).toOption
      let q := (objectAt s s.cur (s.val c) 8).toOption
      some ([a, b, c], automatonIn s (s.val a) ∧ o.isSome ∧ (c ≠ 0 → q.isSome),
        .mask (automatonNo (s.val a)) (BitVec.ofNat 64 (s.me.scrStart + o.getD 0))
          (if c = 0 then none else some (BitVec.ofNat 64 (q.getD 0))))
  | .gsnap a b => some ([a, b], automatonIn s (s.val a) ∧ (s.val b).toNat ≤ 7, .snap (automatonNo (s.val a)) (s.val b).toNat)
  | .gfork a b c => some ([a, b, c], automatonIn s (s.val a) ∧ automatonIn s (s.val c) ∧ (s.val b).toNat ≤ 7,
      .fork (automatonNo (s.val a)) (s.val b).toNat (automatonNo (s.val c)))
  | .groll a b => some ([a, b], automatonIn s (s.val a) ∧ (s.val b).toNat ≤ 7, .roll (automatonNo (s.val a)) (s.val b).toNat)
  | _ => none

/-! ## Steering (R450) -/

/-- An entry takes a section of a type 0 frame, or with RAW the frame. -/
def SteerEntry.takes (e : SteerEntry) (f : FhFrame) (x : Section) : Prop :=
  e.valid = true ∧ e.ports.getLsbD f.port.val = true ∧
  (∀ b, e.pcidm.getLsbD b = true → f.pcId.getLsbD b = e.pcid.getLsbD b) ∧
  (e.raw = false → e.seclo.toNat ≤ x.sectionId.toNat ∧ x.sectionId.toNat ≤ e.sechi.toNat ∧ e.symm.getLsbD f.symbolId.toNat = true ∧
    (e.dirm = true → e.dir = f.dir))

/-! ## Lanes (R278) -/

/-- A sum or difference held within INT32 (R278). -/
def clamped (v : Int) : BitVec 32 := BitVec.ofInt 32 (max (-(2 ^ 31)) (min (2 ^ 31 - 1) v))

/-- The integer operations and the sign operations of a lane, as arithmetic on its bits (R276, R278). -/
def laneValue (op : LaneOp) (x y : BitVec 32) : Option (BitVec 32) :=
  match op with
  | .addI => some (BitVec.ofNat 32 (x.toNat + y.toNat))
  | .subI => some (BitVec.ofInt 32 (x.toInt - y.toInt))
  | .mulI => some (BitVec.ofNat 32 (x.toNat * y.toNat))
  | .andI => some (x &&& y)
  | .orI => some (x ||| y)
  | .xorI => some (x ^^^ y)
  | .sllI => some (BitVec.ofNat 32 (x.toNat * 2 ^ (y.toNat % 32)))
  | .srlI => some (BitVec.ofNat 32 (x.toNat / 2 ^ (y.toNat % 32)))
  | .sraI => some (BitVec.ofInt 32 (x.toInt / 2 ^ (y.toNat % 32)))
  | .minI => some (BitVec.ofInt 32 (min x.toInt y.toInt))
  | .maxI => some (BitVec.ofInt 32 (max x.toInt y.toInt))
  | .addsI => some (clamped (x.toInt + y.toInt))
  | .subsI => some (clamped (x.toInt - y.toInt))
  | _ => none

/-- The float operations of a lane on sources `x`, `y` and the old destination `z` (R60 to R64, R276): one rounding each. -/
def floatLane (op : LaneOp) (x y z : BitVec 32) : Option (BitVec 32 × Flags) :=
  match op with
  | .addF => some (add32 x y)
  | .subF => some (sub32 x y)
  | .mulF => some (mul32 x y)
  | .fmaF => some (fma32 x y z)
  | .fnmaF => some (fnma32 x y z)
  | .minF => some (min32 x y, 0)
  | .maxF => some (max32 x y, 0)
  | .absF => some (if isNan32 x then 0x7FC00000 else BitVec.ofNat 32 (x.toNat % 2 ^ 31), 0)
  | .negF => some (if isNan32 x then 0x7FC00000 else BitVec.ofNat 32 (x.toNat + 2 ^ 31), 0)
  | _ => none

/-- What a compare says of two lanes (R279): a NaN is unordered, and -0 equals +0. -/
def compareLane (op : CmpOp) (x y : BitVec 32) : Prop :=
  match op with
  | .eqF => (num32 x).eqv (num32 y) = true
  | .ltF => (num32 x).lt (num32 y) = true
  | .leF => (num32 x).lt (num32 y) = true ∨ (num32 x).eqv (num32 y) = true
  | .unF => isNan32 x = true ∨ isNan32 y = true
  | .eqI => x = y
  | .ltI => x.toInt < y.toInt
  | .ltuI => x.toNat < y.toNat

/-- A mask operation on two bits (R280). -/
def maskLane (op : MaskOp) (x y : Bool) : Prop :=
  match op with
  | .and => x = true ∧ y = true
  | .or => x = true ∨ y = true
  | .xor => x ≠ y
  | .not => x = false

/-- Lane (r, q) of a tile has this place (R87). -/
def lanePlace (r q : Nat) : Nat := 64 * r + q

/-- A lane value that comes from one lane. -/
def carry (x : Lane) (v : BitVec 32 × Flags) : Lane × Flags := ({ bits := v.1, poison := x.poison }, v.2)

/-- An entry has run that writes lanes of one tile under a mask: each lane whose mask bit is set takes its value of `f`, the flags of
those lanes are the entry's, and nothing else changes (R89). -/
def LanesRun (m : EMem) (c : Ctx) (d mk : Nat) (f : Nat → Nat → Lane × Flags) (r : Ran) : Prop :=
  r.mem = m ∧ r.report = none ∧ r.ctx = { c with tiles := r.ctx.tiles } ∧ (∀ n, n < 32 → n ≠ d → r.ctx.tile n = c.tile n) ∧
  (∀ i : Fin 1024, (r.ctx.tile d)[i.val] = if (c.mask mk).getLsbD i.val then (f (i.val / 64) (i.val % 64)).1 else (c.tile d)[i.val]) ∧
  ∀ b, r.flags.getLsbD b = true ↔ ∃ i : Fin 1024, (c.mask mk).getLsbD i.val = true ∧ (f (i.val / 64) (i.val % 64)).2.getLsbD b = true

/-- An entry has run that writes one mask under a mask; m0 discards the write (R87, R89). -/
def MaskRun (m : EMem) (c : Ctx) (d mk : Nat) (f : Nat → Prop) (r : Ran) : Prop :=
  r.mem = m ∧ r.report = none ∧ r.flags = 0 ∧ r.ctx = { c with masks := r.ctx.masks } ∧
  (∀ n, n < 8 → n ≠ d → r.ctx.mask n = c.mask n) ∧
  ∀ i : Fin 1024, (r.ctx.mask d).getLsbD i.val = true ↔
    d = 0 ∨ (if (c.mask mk).getLsbD i.val then f i.val else (c.mask d).getLsbD i.val = true)

/-- An entry has run that writes every lane of one tile. -/
def TileRun (m : EMem) (c : Ctx) (d : Nat) (f : Nat → Nat → Lane) (r : Ran) : Prop :=
  r.mem = m ∧ r.report = none ∧ r.ctx = { c with tiles := r.ctx.tiles } ∧ (∀ n, n < 32 → n ≠ d → r.ctx.tile n = c.tile n) ∧
  ∀ i : Fin 1024, (r.ctx.tile d)[i.val] = f (i.val / 64) (i.val % 64)

/-- The lanes that take part in a reduction along a row, or down a column (R282). -/
def rowLanes (c : Ctx) (a mk r : Nat) : List Lane :=
  ((List.range 64).filter (fun q => (c.mask mk).getLsbD (lanePlace r q))).map (fun q => laneAt (c.tile a) r q)
def colLanes (c : Ctx) (a mk q : Nat) : List Lane :=
  ((List.range 16).filter (fun r => (c.mask mk).getLsbD (lanePlace r q))).map (fun r => laneAt (c.tile a) r q)

/-- A result of a reduction (R282, R84): the exact sum of the lanes rounded once, or the first of them that none passes in the order of
R84. A row or column with no lane has no written lane. -/
def Reduced (op : RedOp) (l : List Lane) (v : BitVec 32) : Prop :=
  match op with
  | .add => v = (round32 (groupSum (l.map (fun x => num32 x.bits))).1).1
  | .max => l = [] ∨ ∃ (i : Nat) (x : Lane), l[i]? = some x ∧ x.bits = v ∧
      ∀ (j : Nat) (y : Lane), l[j]? = some y → rank84 y.bits ≤ rank84 v ∧ (j < i → rank84 y.bits < rank84 v)
  | .min => l = [] ∨ ∃ (i : Nat) (x : Lane), l[i]? = some x ∧ x.bits = v ∧
      ∀ (j : Nat) (y : Lane), l[j]? = some y → rank84 v ≤ rank84 y.bits ∧ (j < i → rank84 v < rank84 y.bits)

/-! ## Records in engine memory (R93, R97) -/

/-- A byte of a record's rows, counted from the start of its space. -/
def Shape.covers (h : Shape) (x : Nat) : Prop :=
  ∃ i, i < h.spans.2.2.1 ∧ h.spans.1 + i * h.spans.2.1 ≤ x ∧ x < h.spans.1 + i * h.spans.2.1 + h.spans.2.2.2

/-- No byte is of both records. -/
def Apart (a b : Shape) : Prop := a.space ≠ b.space ∨ ∀ x, a.covers x → ¬ b.covers x

/-- Nothing but bytes of these records has changed. -/
def OnlyRecords (m m' : EMem) (hs : List Shape) : Prop :=
  m'.scr = m.scr ∧ m'.row0 = m.row0 ∧
  (∀ a, (∀ h ∈ hs, h.space = 0 → ∀ x, h.covers x → a ≠ m.scr + x) → m'.pool.get a = m.pool.get a) ∧
  (∀ a, (∀ h ∈ hs, h.space = 1 → ∀ x, h.covers x → a ≠ m.row0 + x) → m'.acc.get a = m.acc.get a)

/-- An entry has run whose whole effect is on the elements of one record: each has the bits and poison of `f`. -/
def RecordRun (m : EMem) (c : Ctx) (h : Shape) (f : Nat → Nat → Nat × Bool) (r : Ran) : Prop :=
  r.ctx = c ∧ r.report = none ∧ OnlyRecords m r.mem [h] ∧
  ∀ i j, i < h.rows → j < h.cols → r.mem.get h i j = ((f i j).1 % 2 ^ fmtBits h.fmt, (f i j).2)

/-- The engine memories are in canonical form. -/
def EMem.ok (m : EMem) : Prop := m.pool.wf = true ∧ m.acc.wf = true

end Sys2Proof.Machine
end

