-- ==== Sys2Proof/WellFormed.lean ====
section
/-!
DEFINITION. Which instructions are well formed: every field that names something, or holds an immediate with limits, lies
inside its kind (R147, R152, R155, R156, R157, R183, R269, R287, R288, R368). The decoder also reads words outside these limits; the instruction
itself then traps ILLEGAL_INSTRUCTION (check 6 of R159). The limits a LIMM prefix moves (R149, R178) are those of the pair.
-/
namespace Sys2Proof

/-- A shift immediate of slli, srli, srai lies in 0 to 63 (R152, R178). -/
def shiftImmOk (i : BitVec 9) : Bool := i.toNat ≤ 63
/-- A condition code is 0 to 9 (R152). -/
def condOk (c : BitVec 4) : Bool := c.toNat ≤ 9
/-- A scope code is 0 to 4 (R117). -/
def scopeOk (s : BitVec 3) : Bool := s.toNat ≤ 4
/-- A tlbinv scope is DIE or DEV (R369). -/
def tlbScopeOk (s : BitVec 3) : Bool := s = 2 || s = 3
/-- The register after `c` exists when BAR is set (R157). -/
def barOk (c : Reg5) (r : BitVec 1) : Bool := r = 0 || c.toNat ≠ 31
/-- A nest level is 0 to 5 (R157, R217). -/
def levelOk (l : BitVec 3) : Bool := l.toNat ≤ 5
/-- The register after `a` exists (R208, R269). -/
def nextOk (a : Reg5) : Bool := a.toNat ≠ 31

/-- Every field of the instruction lies inside its kind (R147). -/
def Instr.wf : Instr → Bool
  | .slli _ _ i | .srli _ _ i | .srai _ _ i => shiftImmOk i
  | .cmp _ _ _ c | .cmpi _ _ _ c => condOk c
  | .loopi d _ => d ≠ 0
  | .loopb a _ => a ≠ 0
  | .ldaq _ _ s _ | .strl _ _ s _ => scopeOk s
  | .amoSwap _ _ _ _ _ s | .amoAdd _ _ _ _ _ s | .amoAnd _ _ _ _ _ s | .amoOr _ _ _ _ _ s | .amoXor _ _ _ _ _ s
  | .amoMax _ _ _ _ _ s | .amoMin _ _ _ _ _ s | .amoMaxu _ _ _ _ _ s | .amoMinu _ _ _ _ _ s => scopeOk s
  | .cas _ _ _ _ _ _ s => scopeOk s
  | .fence _ s => scopeOk s
  | .qwait b => b ≠ 0
  | .wbase _ w => w ≠ 0
  | .tlbinvVa _ s | .tlbinvTen s => tlbScopeOk s
  | .qdrop b => b ≠ 0
  | .tokset _ f => f.toNat ≤ 9
  | .parkdrop o i => o ≠ 0 || i ≠ 0
  | .poisclr d => d ≠ 0
  | .cin _ _ _ c r | .cgath _ _ _ c r | .cfill _ _ _ c r | .cout _ _ _ c r | .cnestGo _ _ _ c r | .cnestoGo _ _ _ c r
  | .credAddf _ _ _ c r | .credAddbf _ _ _ c r | .credAddi _ _ _ c r | .credMaxf _ _ _ c r | .credMinf _ _ _ c r => barOk c r
  | .cpack _ _ _ c r | .cunpk _ _ _ c r => barOk c r
  | .cmcast _ a _ c r => nextOk a && barOk c r
  | .cnestL _ _ _ _ l | .cnestoL _ _ _ _ l => levelOk l
  | .mdrain _ _ _ c p _ _ => p = 1 || c = 0
  | .vslice _ _ a _ _ => nextOk a
  | .vqmx _ d _ _ => nextOk d
  | .vcvt _ _ _ k _ _ _ => k.toNat ≤ 8
  | _ => true

/-- The instruction is well formed. -/
abbrev Instr.WellFormed (i : Instr) : Prop := i.wf = true

end Sys2Proof
end

