-- ==== Sys2Proof/Certificates/Slice0/Obligations.lean ====
section
/-!
DEFINITION. The statements for the provers. `s.did f` is the state after an instruction whose whole effect on the issuing context is
`f`: nothing else of the device changes but the issue counts and the issue clock (Safety.lean). `s.trapped c v` is the state after
the precise trap `c` with value `v` has been raised.
-/
open Sys2Proof Sys2Proof.Machine

/-! ## Encoding and step -/

/-- 06_encoding, worked cases, and R160: words written out from the encoding tables decode to what they stand for; words of a reserved
major are refused (R151), and so is a DEP field other than 0 on a word the FE executes itself (R145). -/
def Obligations.DecodesSpecWords : Prop :=
  (decode 0x0FC00001 = .ok (.limm 1) ∧
   decode 0x004A01E8 = .ok (.addi 5 0 0x1E8) ∧
   decode 0x018C3402 = .ok (.ldW 6 3 2) ∧
   decode 0x00D18A40 = .ok (.cmp 2 6 5 2) ∧
   decode 0x0113FFFE = .ok (.br 2 (-2)) ∧
   decode 0x02183026 = .ok (.amoSwap 12 3 0 1 0 3) ∧
   decode 0x01C03EE0 = .ok (.strl 0 3 3 2) ∧
   decode 0x9A651800 = .ok (.vaddF 9 18 17 16 0) ∧
   decode 0x00000000 = .ok (.add 0 0 0) ∧
   (∀ w ∈ [0x104A01E8#32, 0x03C00000#32, 0xFFFFFFFF#32], ∃ e, decode w = .error e)) ∧
  ((∀ w : IWord, majOf w ∈ [0x0F, 0x16, 0x17, 0x1F, 0x27, 0x3A, 0x3B, 0x3E] → ∃ e, decode w = .error e) ∧
   (∀ w : IWord, queueOfMaj (majOf w) = none → fld w 28 4 ≠ 0 → ∃ e, decode w = .error e))

/-- Decode and encode agree: whatever word the encoder writes for a well-formed instruction, the decoder reads that instruction from
it, with every operand (06_encoding, R144 to R158). -/
def Obligations.DecodeOfEncode : Prop :=
  ∀ (i : Instr) (w : IWord), i.wf = true → encode i = some w → decodeTableWord 32 w.toNat = some i

/-- The other direction: a word the decoder reads is the word the encoder writes for what it read, so no two words stand for one
instruction and no bit of a word is ignored (06_encoding, R145). -/
def Obligations.EncodeOfDecode : Prop :=
  ∀ (w : IWord) (i : Instr), decode w = .ok i → encode i = some w

/-- A step whose turn is an issue on a core runs, in the context the arbiter picks, the instruction that the word at its pc decodes to,
on the state the fetch leaves, which differs in filled translation structures alone; a step whose turn is an event of the table, with
firmware running on both dies, runs that event on its argument. What the step answers is that outcome where the turn did not come too late
at its timestamp, and nothing but the turn taken away where it did. That a turn in the wrong order of R456 does not happen, and that arbitration and the order of turns are plain data, are the model's
choices 1, 91. -/
def Obligations.StepRunsDecoded : Prop :=
  (∀ (s s1 : State) (c : CoreId) (k : CtxId) (rest : List Turn) (w : IWord) (i : Instr),
     s.agenda = .issue c :: rest → arbiterPick { s with agenda := rest } c = some k →
     fetchWord (s.issuing rest k) k (s.ctx k).pc = .ok (s1, w) → decode w = .ok i →
     step s = afterTurn s (exec i s1) ∧ onlyFills (s.issuing rest k) s1) ∧
  (∀ (s : State) (i : Instr) (a : Arg) (rest : List Turn),
     s.agenda = .event i a :: rest → encode i = none → (s.die 0).bootStage = 8 → (s.die 1).bootStage = 8 →
     step s = afterTurn s (exec i (s.happening rest i a))) ∧
  (∀ (s t : State) (x : Turn) (rest : List Turn), s.agenda = x :: rest →
     (t.late = false → afterTurn s (.next t) = .next t) ∧
     (t.late = true → afterTurn s (.next t) = .next { s with agenda := rest }))

/-- On a core with an issue turn, and with nothing on the agenda on the core of the current context, the context that issues is ready
and no ready context of the core has waited longer than it (R38). -/
def Obligations.ArbiterPicksLongestWaiting : Prop :=
  (∀ (s s1 : State) (k : CtxId) (w : IWord) (i : Instr),
    s.agenda = [] → arbiterPick s (coreOf s.cur) = some k →
    fetchWord (s.issuing [] k) k (s.ctx k).pc = .ok (s1, w) → decode w = .ok i →
    step s = afterTurn s (exec i s1)) ∧
  (∀ (s : State) (c : CoreId) (k : CtxId), arbiterPick s c = some k →
    coreOf k = c ∧ ready s k = true ∧
    ∀ j, coreOf j = c → ready s j = true →
      (s.ctx k).lastIssue ≤ (s.ctx j).lastIssue ∧ ((s.ctx k).lastIssue = (s.ctx j).lastIssue → k.val ≤ j.val)) ∧
  (∀ (s : State) (c : CoreId), (∃ k, coreOf k = c ∧ ready s k = true) → ∃ k, arbiterPick s c = some k)

/-- A word that decodes to nothing traps: PRIVILEGED for MAJ 0x3D in U mode, else ILLEGAL_INSTRUCTION, with the word (R159, R367). A word
of an engine's major traps so where its queue has room; where the queue is full its context is not ready, and the word does not issue
(R26, R38). -/
def Obligations.UndecodableWordTraps : Prop :=
  (∀ (s s1 : State) (k : CtxId) (w : IWord) (e : Reject) (q : EngineQ),
    fetchWord s k (s.ctx k).pc = .ok (s1, w) → decode w = .error e → queueOfMaj (majOf w) = some q →
    (s.ctx k).qFull q = true → ready s k = false ∧ ∀ c, arbiterPick s c ≠ some k) ∧
  ∀ (s s1 : State) (c : CoreId) (k : CtxId) (rest : List Turn) (w : IWord) (e : Reject),
    s.agenda = .issue c :: rest → arbiterPick { s with agenda := rest } c = some k →
    fetchWord (s.issuing rest k) k (s.ctx k).pc = .ok (s1, w) → decode w = .error e →
    (majOf w = 0x3D → (s.ctx k).csr.sact = false →
      step s = afterTurn s (.next (s1.trapped .privileged (zext64 w)))) ∧
    (queueOfMaj (majOf w) = none → ¬ (majOf w = 0x3D ∧ (s.ctx k).csr.sact = false) →
      step s = afterTurn s (.next (s1.trapped .illegalInstruction (zext64 w)))) ∧
    (∀ q, queueOfMaj (majOf w) = some q → (s.ctx k).qFull q = false →
      step s = afterTurn s (.next (s1.trapped .illegalInstruction (zext64 w))))

/-! ## Results in registers and predicates -/

/-- R177, R178, R179: each form of MAJ 0x00, 0x01 without LIMM, and 0x02 with clean sources writes its result, and nothing else of the
device changes; a shift by an immediate outside 0 to 63 traps ILLEGAL_INSTRUCTION. -/
def Obligations.IntegerResults : Prop :=
  (∀ (s : State) (i : Instr) (d : Reg5) (l : List Reg5) (v : Word),
     aluClaim s.val i = some (d, l, v) → (∀ r ∈ l, s.clean r) → exec i s = .next (s.did (fun c => (c.setReg d v).advance 0))) ∧
  ((∀ (s : State) (i : Instr) (d a : Reg5) (v : Word),
     immClaim none s.val i = some (d, a, v) → badShift none i = false → s.clean a →
       exec i s = .next (s.did (fun c => (c.setReg d v).advance 0))) ∧
   (∀ (s : State) (i : Instr), badShift none i = true → exec i s = .next (s.trapped .illegalInstruction (wordOf i)))) ∧
  (∀ (s : State) (i : Instr) (d : Reg5) (l : List Reg5) (v : Word),
     mulClaim s.val i = some (d, l, v) → (∀ r ∈ l, s.clean r) → exec i s = .next (s.did (fun c => (c.setReg d v).advance 0)))

/-- R180: compares and predicate operations, a compare with the 27-bit immediate of a LIMM, and where a predicate operation's word names
its sources; a reserved condition traps. -/
def Obligations.PredicateResults : Prop :=
  (∀ (s : State) (i : Instr) (p : Reg3) (l : List Reg5) (x : Prop) (b : Bool),
    predClaim s i = some (p, l, x) → (∀ r ∈ l, s.clean r) → (b = true ↔ x) →
      exec i s = .next (s.did (fun c => (c.setPred p b).advance 0))) ∧
  (∀ (s : State) (p : Reg3) (a b : Reg5) (n : BitVec 5) (c : BitVec 4), 9 < c.toNat →
    exec (.cmp p a b c) s = .next (s.trapped .illegalInstruction (wordOf (.cmp p a b c))) ∧
    exec (.cmpi p a n c) s = .next (s.trapped .illegalInstruction (wordOf (.cmpi p a n c)))) ∧
  (∀ (s s1 : State) (u : BitVec 22) (w : IWord) (q p : Reg3) (a r : Reg5) (n : BitVec 5) (c : BitVec 4) (x : Prop) (b : Bool),
    fetchWord s s.cur (s.me.pc + 4) = .ok (s1, w) → decode w = .ok (.cmpi q a n c) →
    cmpiClaim (some u) s1 (.cmpi q a n c) = some (p, r, x) → s1.clean r → (b = true ↔ x) →
      exec (.limm u) s = .next (s1.did (fun c => (c.setPred p b).advance 4))) ∧
  (∀ (w : IWord) (p a b : Reg3),
    (decode w = .ok (.pand p a b) ∨ decode w = .ok (.por p a b) ∨ decode w = .ok (.pxor p a b) →
      w.toNat / 2 ^ 14 % 2 ^ 3 = a.toNat ∧ w.toNat / 2 ^ 9 % 2 ^ 3 = b.toNat) ∧
    (decode w = .ok (.pnot p a) → w.toNat / 2 ^ 14 % 2 ^ 3 = a.toNat))

/-- What the results leave alone, read register by register and byte by byte: an instruction of MAJ 0x00 to 0x02 or a lea with clean
sources changes its destination and the pc, a compare or predicate operation one predicate and the pc, and of the device nothing else
but the issue counts; s0 and p0 discard (R86, R175). A poisoned source of a form of MAJ 0x00 to 0x05, of a lea, a window form, ispace or
shape traps POISON_CONSUMED instead (R175). -/
def Obligations.ResultFrames : Prop :=
  (∀ (s t : State) (i : Instr) (d : Reg5) (l : List Reg5) (v : Word),
     (aluClaim s.val i = some (d, l, v) ∨ mulClaim s.val i = some (d, l, v) ∨ leaClaim s.val i = some (d, l, v) ∨
       (∃ a, immClaim none s.val i = some (d, a, v) ∧ l = [a] ∧ badShift none i = false)) →
     (∀ r ∈ l, s.clean r) → exec i s = .next t →
     sameDevice s t ∧ sameButRegs s.me (t.ctx s.cur) ∧ sameBytes s t ∧
     (t.ctx s.cur).reg d = (if d = 0 then 0 else v) ∧ (t.ctx s.cur).regPoison d = false ∧
     (∀ r, r ≠ d → (t.ctx s.cur).reg r = s.val r ∧ (t.ctx s.cur).regPoison r = s.me.regPoison r) ∧
     (t.ctx s.cur).pc = s.me.pc + 4 ∧ (t.ctx s.cur).p = s.me.p ∧ (t.ctx s.cur).csr = s.me.csr) ∧
  (∀ (s t : State) (i : Instr) (p : Reg3) (l : List Reg5) (x : Prop),
     predClaim s i = some (p, l, x) → (∀ r ∈ l, s.clean r) → exec i s = .next t →
     sameDevice s t ∧ sameButPreds s.me (t.ctx s.cur) ∧ sameBytes s t ∧
     ((t.ctx s.cur).pred p = true ↔ p = 0 ∨ x) ∧ (∀ q, q ≠ p → (t.ctx s.cur).pred q = s.me.pred q) ∧
     (t.ctx s.cur).pc = s.me.pc + 4 ∧ (t.ctx s.cur).csr = s.me.csr) ∧
  (∀ (s : State) (i : Instr) (l : List Reg5),
     ((∃ d v, aluClaim s.val i = some (d, l, v) ∨ mulClaim s.val i = some (d, l, v) ∨ leaClaim s.val i = some (d, l, v)) ∨
      (∃ d a v, immClaim none s.val i = some (d, a, v) ∧ l = [a] ∧ badShift none i = false) ∨
      (∃ p x, predClaim s i = some (p, l, x)) ∨
      (∃ x, i.wf = true ∧ transferClaim s i = some x ∧ l = x.sources) ∨
      (∃ d a, (i = .cvspaceOff d a ∨ i = .cvspacePrv d a ∨ i = .cvspaceScr d a ∨ i = .cvspaceDsh d a ∨ i = .ispace d a) ∧ l = [a]) ∨
      (∃ h a b, i = .shape h a b ∧ l = [a, b])) →
     (∃ r ∈ l, ¬ s.clean r) → exec i s = .next (s.trapped .poisonConsumed 0))

/-- R196 to R199: address arithmetic, the window forms and the window report bit by bit. R204: a shape record is written from two
registers unchecked and read back by its halves. R181 to R183: taken and not taken transfers, links, loop counts and the rotation of
names; a refused target traps with the target as its value and none of the transfer's effects, and the register field 0 of loopi and loopb
traps. -/
def Obligations.AddressAndTransferForms : Prop :=
  ((((∀ (s : State) (i : Instr) (d : Reg5) (l : List Reg5) (v : Word),
      leaClaim s.val i = some (d, l, v) → (∀ r ∈ l, s.clean r) → exec i s = .next (s.did (fun c => (c.setReg d v).advance 0))) ∧
    (∀ (s : State) (d a : Reg5), s.clean a → ¬ malformedPtr (s.val a) →
      exec (.cvspaceOff d a) s = .next (s.did (fun c => (c.setReg d (
        if (s.val a).toNat / 2 ^ 40 % 256 = 0xF0 then BitVec.ofNat 64 ((s.val a).toNat % 2 ^ 24)
        else if (s.val a).toNat / 2 ^ 40 % 256 = 0xF1 ∨ (s.val a).toNat / 2 ^ 40 % 256 = 0xF2 then BitVec.ofNat 64 ((s.val a).toNat % 2 ^ 22)
        else s.val a)).advance 0))) ∧
    (∀ (s : State) (d a : Reg5), s.clean a →
      (malformedPtr (s.val a) → exec (.cvspaceOff d a) s = .next (s.trapped .addressInvalid (s.val a))) ∧
      exec (.cvspacePrv d a) s = (if (s.val a).toNat < 2 ^ 24
        then .next (s.did (fun c => (c.setReg d (privAt (s.val a).toNat)).advance 0)) else .next (s.trapped .illegalOperand 0)) ∧
      exec (.cvspaceScr d a) s = (if (s.val a).toNat < 2 ^ 22
        then .next (s.did (fun c => (c.setReg d (scrAt (coreOf s.cur) (s.val a).toNat)).advance 0))
        else .next (s.trapped .illegalOperand 0)) ∧
      exec (.cvspaceDsh d a) s = (if (s.val a).toNat < 2 ^ 22
        then .next (s.did (fun c => (c.setReg d (dshAt (dieOf (coreOf s.cur)) (s.val a).toNat)).advance 0))
        else .next (s.trapped .illegalOperand 0))) ∧
    (∀ (s : State) (d : Reg5),
      exec (.wbase d 1) s = .next (s.did (fun c => (c.setReg d (scrAt (coreOf s.cur) s.me.privStart)).advance 0)) ∧
      exec (.wbase d 2) s = .next (s.did (fun c => (c.setReg d (scrAt (coreOf s.cur) s.me.scrStart)).advance 0)) ∧
      exec (.wbase d 3) s = .next (s.did (fun c => (c.setReg d (dshAt (dieOf (coreOf s.cur)) 0)).advance 0)) ∧
      exec (.wbase d 0) s = .next (s.trapped .illegalInstruction (wordOf (.wbase d 0))))) ∧
   (∀ (s : State) (d a : Reg5), s.clean a →
      ∃ v : Word, exec (.ispace d a) s = .next (s.did (fun c => (c.setReg d v).advance 0)) ∧
      v.toNat < 2 ^ 7 ∧ v.toNat / 4 % 4 = 0 ∧
      (v.toNat % 4 = if 0xF0 ≤ (s.val a).toNat / 2 ^ 40 % 256 ∧ (s.val a).toNat / 2 ^ 40 % 256 ≤ 0xF2
        then (s.val a).toNat / 2 ^ 40 % 256 - 0xEF else 0) ∧
      (v.toNat / 16 % 2 = 1 ↔ malformedPtr (s.val a)) ∧
      (v.toNat / 32 % 2 = 1 ↔ (s.val a).toNat / 2 ^ 40 % 256 = 0xF1 ∧ (s.val a).toNat / 2 ^ 34 % 2 ^ 6 ≠ (coreOf s.cur).val) ∧
      (v.toNat / 64 % 2 = 1 ↔
        (s.val a).toNat / 2 ^ 40 % 256 = 0xF2 ∧ (s.val a).toNat / 2 ^ 39 % 2 ≠ (dieOf (coreOf s.cur)).val))) ∧
  ((∀ (s : State) (h : Reg4) (a b : Reg5), s.clean a → s.clean b →
     ∃ t, exec (.shape h a b) s = .next t ∧ sameDevice s t ∧ sameBytes s t ∧
       t.ctx s.cur = { s.me.advance 0 with shapes := (t.ctx s.cur).shapes, issues := (t.ctx s.cur).issues,
                                           lastIssue := (t.ctx s.cur).lastIssue, issueLeft := (t.ctx s.cur).issueLeft } ∧
       (t.ctx s.cur).shape h = s.val b ++ s.val a ∧ ∀ g, g ≠ h → (t.ctx s.cur).shape g = s.me.shape g) ∧
   (∀ (s : State) (d : Reg5) (h : Reg4),
     exec (.shrdLo d h) s = .next (s.did (fun c => (c.setReg d (BitVec.ofNat 64 (s.me.shape h).toNat)).advance 0)) ∧
     exec (.shrdHi d h) s = .next (s.did (fun c => (c.setReg d (BitVec.ofNat 64 ((s.me.shape h).toNat / 2 ^ 64))).advance 0))))) ∧
  ((∀ (s : State) (i : Instr) (x : Transfer), i.wf = true → transferClaim s i = some x → (∀ r ∈ x.sources, s.clean r) →
     (x.target = none → exec i s = .next (s.did (fun c => (x.effect c).advance 0))) ∧
     (∀ t, x.target = some t → targetFault x.fromReg t = none →
       exec i s = .next (s.did (fun c => { x.effect c with pc := t })))) ∧
  ((∀ (s : State) (i : Instr) (x : Transfer) (t : Word) (c : TrapCode), i.wf = true → transferClaim s i = some x →
     (∀ r ∈ x.sources, s.clean r) → x.target = some t → targetFault x.fromReg t = some c →
       exec i s = .next (s.trapped c t)) ∧
   (∀ (s : State) (n o : BitVec 14),
     exec (.loopi 0 n) s = .next (s.trapped .illegalInstruction (wordOf (.loopi 0 n))) ∧
     exec (.loopb 0 o) s = .next (s.trapped .illegalInstruction (wordOf (.loopb 0 o))))))

/-! ## LIMM -/

/-- R148 to R150: LIMM and the instruction after it run as one, with the immediate of the field's bits below the prefix's 22, the pc and
offsets counted from the second word, and the pc 8 further: every form of MAJ 0x01, cmpi, the offset and count forms, the plain loads
and stores. A target, an address or a source that is refused traps at the LIMM; a shift outside 0 to 63, a reserved condition, the
register field 0 of a loop form, and every other instruction after a LIMM trap with the LIMM's word. -/
def Obligations.LimmPairs : Prop :=
  (∀ (s s1 : State) (u : BitVec 22) (w : IWord) (j : Instr),
    fetchWord s s.cur (s.me.pc + 4) = .ok (s1, w) → decode w = .ok j →
    let p : Prefix := some u
    let trapped := fun (c : TrapCode) (v : Word) => exec (.limm u) s = .next (s1.trapped c v)
    let bad := trapped .illegalInstruction (wordOf (.limm u))
    onlyFills s s1 ∧
    (∀ d a v, immClaim p s1.val j = some (d, a, v) →
      (badShift p j = false → s1.clean a → exec (.limm u) s = .next (s1.did (fun c => (c.setReg d v).advance 4))) ∧
      (badShift p j = false → ¬ s1.clean a → trapped .poisonConsumed 0) ∧ (badShift p j = true → bad)) ∧
    (∀ q a x b, cmpiClaim p s1 j = some (q, a, x) → (b = true ↔ x) →
      (s1.clean a → exec (.limm u) s = .next (s1.did (fun c => (c.setPred q b).advance 4))) ∧
      (¬ s1.clean a → trapped .poisonConsumed 0)) ∧
    (∀ q a n c, j = .cmpi q a n c → 9 < c.toNat → bad) ∧
    (∀ x, offsetClaim p s1 j = some x → badLoop j = false →
      ((∀ r ∈ x.sources, s1.clean r) →
        (x.target = none → exec (.limm u) s = .next (s1.did (fun c => (x.effect c).advance 4))) ∧
        (∀ t, x.target = some t → targetFault x.fromReg t = none →
          exec (.limm u) s = .next (s1.did (fun c => { x.effect c with pc := t }))) ∧
        (∀ t c, x.target = some t → targetFault x.fromReg t = some c → trapped c t)) ∧
      ((∃ r ∈ x.sources, ¬ s1.clean r) → trapped .poisonConsumed 0)) ∧
    (badLoop j = true → bad) ∧
    (∀ x, plainLoad p s1 j = some x →
      (s1.clean x.b → ∀ s2 sp a, feReach s1 x.addr x.size accLoad = .ok (s2, sp, a) →
        exec (.limm u) s = .next (loadDone s2 x sp a 4)) ∧
      (s1.clean x.b → ∀ e t, feReach s1 x.addr x.size accLoad = .error (e, t) →
        exec (.limm u) s = .next (raise (issued s.cur t) s.cur e)) ∧
      (¬ s1.clean x.b → trapped .poisonConsumed 0)) ∧
    (∀ x, plainStore p s1 j = some x →
      (s1.clean x.b → ∀ s2 sp a, feReach s1 x.addr x.size accStore = .ok (s2, sp, a) →
        exec (.limm u) s = .next ((storePut s2 x sp a none).didBy s.cur (fun c => c.advance 4))) ∧
      (s1.clean x.b → ∀ e t, feReach s1 x.addr x.size accStore = .error (e, t) →
        exec (.limm u) s = .next (raise (issued s.cur t) s.cur e)) ∧
      (¬ s1.clean x.b → trapped .poisonConsumed 0)) ∧
    ((immClaim p s1.val j).isNone = true → (∀ q a n c, j ≠ .cmpi q a n c) → (offsetClaim p s1 j).isNone = true →
      (plainLoad p s1 j).isNone = true → (plainStore p s1 j).isNone = true → bad)) ∧
  (∀ (s s1 : State) (u : BitVec 22) (w : IWord) (e : Reject),
    fetchWord s s.cur (s.me.pc + 4) = .ok (s1, w) → decode w = .error e →
    exec (.limm u) s = .next (s1.trapped .illegalInstruction (wordOf (.limm u)))) ∧
  (∀ (s t : State) (u : BitVec 22) (e : Trap), fetchWord s s.cur (s.me.pc + 4) = .error (e, t) →
    exec (.limm u) s = .next (raise (issued s.cur t) s.cur e))

/-! ## Memory -/

/-- R4, R126, R458: bytes written to a memory read back, and every other byte reads as before; device memory keeps the poison of a
32-byte granule that the write does not cover whole. Here and in other statements that read back what was written, the premise
`memWf` is the invariant of StepKeepsMemoriesCanonical. -/
def Obligations.MemoryReadsWhatWasWritten : Prop :=
  ∀ (s : State) (sp sp' : Space) (a n : Nat) (l : List PByte), s.memWf = true → l.length = n →
    (∀ i, i < n → (((s.write sp a l).memOf sp).get (a + i)).val = (l.getD i ⟨0, false⟩).val) ∧
    (sp.ecc = false → ∀ i, i < n → ((s.write sp a l).memOf sp).get (a + i) = l.getD i ⟨0, false⟩) ∧
    (∀ x, sp' ≠ sp ∨ x < a ∨ a + n ≤ x → ((s.write sp a l).memOf sp').get x = (s.memOf sp').get x) ∧
    (∀ i, sp.ecc = true → i < n → (((s.write sp a l).memOf sp).get (a + i)).poison =
      ((l.getD i ⟨0, false⟩).poison ||
        (((s.memOf sp).get (a + i)).poison && !(decide (a ≤ (a + i) / 32 * 32) && decide ((a + i) / 32 * 32 + 32 ≤ a + n))))) 

/-- R107, R108, R110, R184: where an access of 1, 2, 4 or 8 bytes to an untranslated window lands, and the checks of R184 in their order:
form, FOREIGN_SCRATCH, bounds, alignment. -/
def Obligations.WindowAccessChecks : Prop :=
  ∀ (s : State) (p : Word) (size : Nat) (acc : Access), size ∈ [1, 2, 4, 8] →
    (malformedPtr p → feReach s p size acc = .error (feTrap .addressInvalid p, s)) ∧
    (∀ o, p = privAt o → o < 2 ^ 24 →
      feReach s p size acc = (if s.me.privSize < o + size then .error (feTrap .windowBounds p, s)
        else if o % size ≠ 0 then .error (feTrap .misaligned p, s)
        else .ok (s, .pool (coreOf s.cur), s.me.privStart + o))) ∧
    (∀ c o, p = scrAt c o → o < 2 ^ 22 →
      feReach s p size acc = (if c ≠ coreOf s.cur then .error (feTrap .foreignScratch p, s)
        else if o < s.me.scrStart ∨ s.me.scrStop < o + size then .error (feTrap .windowBounds p, s)
        else if o % size ≠ 0 then .error (feTrap .misaligned p, s)
        else .ok (s, .pool c, o))) ∧
    (∀ d o, p = dshAt d o → o < 2 ^ 22 →
      feReach s p size acc = (if s.carved d < o + size then .error (feTrap .windowBounds p, s)
        else if o % size ≠ 0 then .error (feTrap .misaligned p, s)
        else .ok (s, .dsh d, o))) ∧
    (¬ malformedPtr p → (p.toNat / 2 ^ 40 % 256 < 0xF0 ∨ 0xF2 < p.toNat / 2 ^ 40 % 256) → p.toNat % size ≠ 0 →
      feReach s p size acc = .error (feTrap .misaligned p, s))

/-- R422, R424, R426, R429: an FE access that is translated reaches the place its leaf gives, and never without the leaf's permission for
it, the S-only bit's mode, and the rights of the partition. The leaf is the one that the core's TLB holds for the address, else the one
that the die's second-level TLB holds, else the one that a walk finds; where a cached leaf does not admit the access it is walked again.
A successful access changes nothing but filled translation structures. -/
def Obligations.NoAccessWithoutPermission : Prop :=
  ∀ (s s1 : State) (d : DieId) (core : Option CoreId) (p : Fin 16) (smode : Bool) (acc : Access) (va : Nat) (sp : Space) (a : Nat),
    translate s d core p smode acc va = .ok (s1, sp, a) →
    onlyFills s s1 ∧ (s.part p).ten = true ∧
    ∃ t : TlbEntry,
      (coreLeaf s core p va = some t ∨ (coreLeaf s core p va = none ∧ dieLeaf s d p va = some t) ∨
        ((∀ u, coreLeaf s core p va = some u ∨ (coreLeaf s core p va = none ∧ dieLeaf s d p va = some u) →
            (leafAnswer (s.part p) smode acc u va).isOk = false) ∧ ∃ x, walkFor s d p va = .ok (t, x))) ∧
      (∀ c u, core = some c → coreLeaf s core p va = some u → u ∈ (s.core c).tlb ∧ u.hit p va = true) ∧
      (∀ u, dieLeaf s d p va = some u → u ∈ (s.die d).l2tlb ∧ u.hit p va = true) ∧
      leafPlace t.leaf t.lg va = some (sp, a) ∧
      (acc.rd = true → pteRD t.leaf = true) ∧ (acc.wr = true → pteW t.leaf = true) ∧ (acc.x = true → pteX t.leaf = true) ∧
      (pteSO t.leaf = true → smode = true) ∧ (pteKIND t.leaf = 1 → (s.part p).hostw = true ∧ acc.host = true) ∧
      (pteKIND t.leaf = 2 → (s.part p).blumus = true ∧ acc.blumus = true)

/-- R119, R120, R126, R175, R184, R185: a load whose address passes its checks writes the bytes the context's loads see, extended: those of
memory where nothing of the past is held and nothing of its own is still to be performed; a context may perform its loads late, and from a
host window it answers later (R444): the FE goes on. An ldaq reads at once, behind its own stores to the bytes; then it acquires from the
releases whose value it read, as far as both scopes reach (R121): what precedes them is known, and nothing unchanged, or overwritten within
its scope in the one order of its die, stays read ahead. That loads may see words read ahead of their turn is log entry 90. -/
def Obligations.LoadResults : Prop :=
  ∀ (s s1 : State) (i : Instr) (x : LoadForm) (sp : Space) (a : Nat),
    loadClaim s i = some x → s.clean x.b → feReach s x.addr x.size accLoad = .ok (s1, sp, a) →
    onlyFills s s1 ∧
    (acquireScope i = none → exec i s = .next (loadDone s1 x sp a 0)) ∧
    (acquireScope i = none → sp ≠ .host → s.me.defers = false → s.me.sbuf = [] → s.me.lateLoads = [] → s.posts = [] → s.early = [] →
      s.stale = [] → exec i s = .next (s1.did (fun c =>
        (received c x.d (loadedValue x.signed x.size (s.read sp a x.size)) (anyPoison (s.read sp a x.size))).advance 0))) ∧
    (∀ c, acquireScope i = some c → c.toNat ≤ 4 →
      (sp ≠ .host →
        let s2 := readNow s1 s.cur sp a x.size
        let bs := viewBytes s2 s.cur sp a x.size
        let l := (s2.heardAt (some (dieOf (coreOf s.cur))) sp a x.size).filter (·.binds s.cur (honoured x.addr c))
        ∃ t, exec i s = .next t ∧
          t = issued s.cur (acquireFrom (s2.modCtx s.cur (fun c => (received c x.d (loadedValue x.signed x.size bs) (anyPoison bs)).advance 0))
            s.cur (honoured x.addr c) l) ∧
          pastAcquire t s.cur (honoured x.addr c) ∧ knowsWhat t (.fe s.cur) l) ∧
      (sp = .host → exec i s = .next (s1.did (fun k =>
        { k with hostLoads := k.hostLoads ++ [({ acq := true, d := x.d, addr := a, size := x.size, signed := false } : HostLoad)] }.advance 0))))

/-- R119, R120, R126, R184, R185: a plain store whose address passes its checks is buffered, or posted to the host. The context sees the
register's low bytes at the address the check gives, and every other byte as before but where a word read ahead there ends; no memory
changes until the store is performed, but where a load of the context that is still to be performed reads its bytes: that one is performed
first. A release store waits while an access to a host window is outstanding; it is buffered with its scope, and to a host window goes
behind every earlier access of the context. R121: as a store is performed its bytes are written and no others, and a release is
made with them; of one to a host window the host knows at once what it follows. -/
def Obligations.StoreResults : Prop :=
  (∀ (s s1 : State) (i : Instr) (x : StoreForm) (sp : Space) (a : Nat),
    storeClaim s i = some x → s.clean x.b → feReach s x.addr x.size accStore = .ok (s1, sp, a) →
    releaseScope i = none →
    ∃ t, exec i s = .next t ∧ t = (storePut s1 x sp a none).didBy s.cur (fun c => c.advance 0) ∧
    (sp ≠ .host → (t.ctx s.cur).sbuf = s.me.sbuf ++ [pendingOf s x sp a none] ∧
      (∀ y, a ≤ y → y < a + x.size →
        viewByte t s.cur sp y = { val := regByte (s.val x.r) (y - a), poison := s.me.regPoison x.r })) ∧
    (sp = .host → (t.ctx s.cur).posted = s.me.posted ++ [pendingOf s x .host a none]) ∧
    (noLateLoad s sp a x.size →
      (∀ sp' y, sp' ≠ sp ∨ y / 8 * 8 + 8 ≤ a ∨ a + x.size ≤ y / 8 * 8 → viewByte t s.cur sp' y = viewByte s s.cur sp' y) ∧
      (∀ sp' y, (t.memOf sp').get y = (s.memOf sp').get y) ∧
      (∀ y, (t.ctx s.cur).reg y = s.val y ∧ (t.ctx s.cur).regPoison y = s.me.regPoison y) ∧
      (∀ k, k ≠ s.cur → t.ctx k = s.ctx k) ∧ (t.ctx s.cur).p = s.me.p ∧ (t.ctx s.cur).csr = s.me.csr ∧
      (t.ctx s.cur).pc = s.me.pc + 4)) ∧
  (∀ (s s1 : State) (i : Instr) (x : StoreForm) (sp : Space) (a : Nat) (c : BitVec 3),
    storeClaim s i = some x → releaseScope i = some c → c.toNat ≤ 4 →
    let rel := some (honoured x.addr c)
    (s.me.abroad = true → exec i s = .next s) ∧
    (s.me.abroad = false → s.clean x.b → feReach s x.addr x.size accStore = .ok (s1, sp, a) →
      (sp ≠ .host → ∃ t, exec i s = .next t ∧ t = (storePut s1 x sp a rel).didBy s.cur (fun c => c.advance 0) ∧
        (t.ctx s.cur).sbuf = s.me.sbuf ++ [pendingOf s x sp a rel]) ∧
      (sp = .host → ∃ t, exec i s = .next t ∧
        t = (storeTo (flush s1 s.cur) s.cur .host a (regBytes (s.val x.r) x.size) (s.me.regPoison x.r) rel).didBy s.cur
          (fun c => c.advance 0) ∧
        (t.ctx s.cur).sbuf = [] ∧ (t.ctx s.cur).lateLoads = [] ∧
        (t.ctx s.cur).posted = s.me.posted ++ [pendingOf s x .host a rel]))) ∧
  (∀ (s : State) (k : CtxId) (p : Pending), s.memWf = true → s.posts = [] →
    let t := performPending k s p
    (∀ y, y < p.bytes.length → ((t.memOf p.space).get (p.addr + y)).val = p.bytes.getD y 0) ∧
    (∀ sp' y, sp' ≠ p.space ∨ y < p.addr ∨ p.addr + p.bytes.length ≤ y → (t.memOf sp').get y = (s.memOf sp').get y) ∧
    (∀ j, t.ctx j = s.ctx j) ∧
    ∀ c, p.rel = some c → p.space ≠ .host → ({ at_ := .word p.space p.addr p.bytes.length, by_ := { who := .fe k, since := p.stamp }, scope := c, live := true }
      : Rel) ∈ t.rels) ∧
  (∀ (s : State) (k : CtxId) (p : Pending), p.space = .host → p.rel ≠ none →
    ∀ x ∈ (performPending k s p).stale, x.seer = none → goneFor x.gone [{ who := .fe k, since := p.stamp }] = false)

/-- R121, R125, R126, R186 to R188: one indivisible read-modify-write. The old value goes to d, sign-extended, and the new one to the same
bytes, unless the compare failed or the old value is poisoned, when nothing is written. A release waits for accesses to host windows and is
made with the write, none without one; an acquire meets the releases whose value it reads. Where nothing of the word's past is held, or the
scope reaches every observer that holds it, the old value is the one memory holds. What a narrow scope leaves to be seen is log entry
90. -/
def Obligations.AtomicResults : Prop :=
  ∀ (s s1 : State) (i : Instr) (x : Atomic) (sp : Space) (a : Nat),
    atomicClaim s i = some x → x.scope.toNat ≤ 4 →
    (x.release = true → s.me.abroad = true → exec i s = .next s) ∧
    ((x.release = true → s.me.abroad = false) → (∀ r ∈ x.sources, s.clean r) →
     feReach s (s.val x.addr) x.n accAtomic = .ok (s1, sp, a) →
     let scope := atomScope s x
     let s2 := atomicSees s1 s.cur sp a x.n scope
     let bs := viewBytes s2 s.cur sp a x.n
     let s3 := if x.acquire then acquireAt s2 s.cur scope sp a x.n else s2
     let w := if anyPoison bs then none else x.new (bytesNat bs)
     let s4 := match w with | some v => atomicPut s3 s.cur sp a x.n scope v x.release | none => s3
     onlyFills s s1 ∧
     exec i s = .next (s4.didBy s.cur (fun c => (received c x.dest (loadedValue true x.n bs) (anyPoison bs)).advance 0)) ∧
     (s.early = [] → s.stale = [] ∨ sp ≠ .dmem ∨ 3 ≤ scope → bs = s2.read sp a x.n) ∧
     (∀ v, w = some v → s3.memWf = true →
       (∀ y, y < x.n → ((s4.memOf sp).get (a + y)).val = regByte (BitVec.ofNat 64 v) y) ∧
       (∀ sp' y, sp' ≠ sp ∨ y < a ∨ a + x.n ≤ y → (s4.memOf sp').get y = (s3.memOf sp').get y) ∧
       (x.release = true → ({ at_ := .word sp a x.n, by_ := s.latest (.fe s.cur), scope := scope, live := true } : Rel) ∈ s4.rels)))

/-- R112, R175, R184, R188: an access whose address fails a check takes that trap, precisely, with nothing read or written: the failing
check itself leaves the machine as it was but for a walker granted and the report of a poisoned entry (R422, R425). A poisoned source traps
POISON_CONSUMED; a scope code of 5 to 7 traps ILLEGAL_INSTRUCTION. -/
def Obligations.AccessTraps : Prop :=
  (∀ (s u : State) (p : Word) (size : Nat) (acc : Access) (e : Trap), feReach s p size acc = .error (e, u) → onlyReports s u) ∧
  (∀ (s u : State) (i : Instr) (x : LoadForm) (e : Trap),
    loadClaim s i = some x → (∀ c, acquireScope i = some c → c.toNat ≤ 4) →
    (s.clean x.b → feReach s x.addr x.size accLoad = .error (e, u) → exec i s = .next (raise (issued s.cur u) s.cur e)) ∧
    (¬ s.clean x.b → exec i s = .next (s.trapped .poisonConsumed 0))) ∧
  (∀ (s u : State) (i : Instr) (x : StoreForm) (e : Trap),
    storeClaim s i = some x → (∀ c, releaseScope i = some c → c.toNat ≤ 4 ∧ s.me.abroad = false) →
    (s.clean x.b → feReach s x.addr x.size accStore = .error (e, u) → exec i s = .next (raise (issued s.cur u) s.cur e)) ∧
    (¬ s.clean x.b → exec i s = .next (s.trapped .poisonConsumed 0))) ∧
  (∀ (s u : State) (i : Instr) (x : Atomic) (e : Trap), atomicClaim s i = some x →
    x.scope.toNat ≤ 4 → (x.release = true → s.me.abroad = false) →
    ((∀ r ∈ x.sources, s.clean r) → feReach s (s.val x.addr) x.n accAtomic = .error (e, u) →
      exec i s = .next (raise (issued s.cur u) s.cur e)) ∧
    ((∃ r ∈ x.sources, ¬ s.clean r) → exec i s = .next (s.trapped .poisonConsumed 0))) ∧
  (∀ (s : State) (i : Instr) (x : Atomic), atomicClaim s i = some x → 4 < x.scope.toNat →
    exec i s = .next (s.trapped .illegalInstruction (wordOf i))) ∧
  (∀ (s : State) (d b : Reg5) (c : BitVec 3) (z : BitVec 2), 4 < c.toNat →
    exec (.ldaq d b c z) s = .next (s.trapped .illegalInstruction (wordOf (.ldaq d b c z))) ∧
    exec (.strl d b c z) s = .next (s.trapped .illegalInstruction (wordOf (.strl d b c z))) ∧
    exec (.fence d c) s = .next (s.trapped .illegalInstruction (wordOf (.fence d c))))

/-! ## Ordering and waiting -/

/-- R34, R120, R127 to R129, R131, R190: a fence performs every earlier load and store and the context's retired copies, for the observers
of its scope: none of them holds a word that the context knows overwritten; it leaves nothing read ahead that stands unchanged or was
overwritten within it, writes what has failed and clears it: at once when no access to the host is outstanding and else when it ends. qwait
goes on when its queues are empty, with what their entries did known to the FE, and else waits, and traps with the mask 0; yield only goes on. That the fence itself
performs the buffered accesses is log entry 7, that a waiting fence ends by an event 49, and the form of what observers may
still see 90. -/
def Obligations.FenceQwaitYield : Prop :=
  (∀ (s : State) (d : Reg5) (c : BitVec 3), c.toNat ≤ 4 →
    let s1 := flush s s.cur
    let f := (s1.ctx s.cur).fails
    let g := (s1.ctx s.cur).lateFails
    (s.me.abroad = false → ∃ t, exec (.fence d c) s = .next t ∧
      t = (fenceViews (landPosts s1 (s.me.coveredPost s.cur)) s.cur c.toNat (allQueues.flatMap (s.me.retiredUpTo s.cur))).didBy s.cur
        (fun x => ({ x with run := .running, fails := ⟨0, 0⟩, lateFails := ⟨0, 0⟩ }.setReg d
          (BitVec.ofNat 64 ((f.bits ||| g.bits).toNat + 256 * min 255 (f.count + g.count)))).advance 0) ∧
      (t.ctx s.cur).sbuf = [] ∧ (t.ctx s.cur).lateLoads = [] ∧
      (∀ e ∈ t.early, e.ctx = s.cur → ∃ p, e.gone = some p ∧ c.toNat < p.scope) ∧
      (∀ p ∈ t.posts, s.me.coveredPost s.cur p = false) ∧
      (∀ x ∈ t.stale, goneFor x.gone [s.latest (.fe s.cur)] = true →
        (x.seer.isSome = true → c.toNat < 3) ∧ (x.seer = none → c.toNat < 4))) ∧
    (s.me.abroad = true → exec (.fence d c) s = .next (s1.didBy s.cur (fun x =>
      { x with run := .waiting (.fence d c), lateFails := ⟨0, 0⟩,
               fails := ⟨f.bits ||| g.bits, min 255 (f.count + g.count)⟩ })))) ∧
  (∀ (s : State) (m : BitVec 5), m ≠ 0 →
    ((∀ q : EngineQ, m.getLsbD q.idx.val = true → (s.me.queue q).entries = []) →
      exec (.qwait m) s = .next ((acquire s s.cur 0 ((maskQueues m).map (fun q => s.latest (.eng s.cur q)))).didBy s.cur
        (fun c => { c with run := .running }.advance 0))) ∧
    ((∃ q : EngineQ, m.getLsbD q.idx.val = true ∧ (s.me.queue q).entries ≠ []) →
      exec (.qwait m) s = .next (s.did (fun c => { c with run := .waiting (.qwait m) })))) ∧
  (∀ s : State, exec (.qwait 0) s = .next (s.trapped .illegalInstruction (wordOf (.qwait 0)))) ∧
  (∀ s : State, exec .yield s = .next (s.did (fun c => c.advance 0)))

/-- R34, R127, R137, R141, R368: the waits of qwait, fence, wfi, abwait, slwait and slpop end when what they wait for has come, and not
before; each ends with the acquire its rule gives it, from the releases that stand on its object, and an abwait that meets an overrun or a
reserved state traps. That the object is read through the context's own buffered stores, and slpop performs those that reach its ring, is
log entry 37; that reserved bits of a barrier count as state 3 is 38; that a ring whose descriptor has turned invalid keeps its waiter
waiting is 93. -/
def Obligations.WaitsEnd : Prop :=
  (∀ (s : State),
     let k := s.arg.ctx
     let c := s.ctx k
     (∀ m, c.run = .waiting (.qwait m) →
       exec .evQwaitWake s = .next (if c.maskEmpty m then
         (acquire s k 0 ((maskQueues m).map (fun q => s.latest (.eng k q)))).modCtx k (fun c => { c with run := .running }.advance 0)
         else s)) ∧
     (∀ d z, c.run = .waiting (.fence d z) →
       exec .evFenceComplete s = .next (if c.hostLoads = [] ∧ c.posted = [] then
         (fenceViews (landPosts s (c.coveredPost k)) k z.toNat (allQueues.flatMap (c.retiredUpTo k))).modCtx k (fun c =>
           ({ c with run := .running, fails := c.lateFails, lateFails := ⟨0, 0⟩ }.setReg d
             (BitVec.ofNat 64 (c.fails.bits.toNat + 256 * c.fails.count))).advance 0) else s)) ∧
     (c.run = .waiting .wfi →
       exec .evWfiWake s = .next (if c.csr.note then
         s.modCtx k (fun c => { c with run := .running }.advance 0) else s))) ∧
  (∀ (s : State),
     let k := s.arg.ctx
     (∀ ptr p o, (s.ctx k).run = .waiting (.abwait ptr p) → objectAt s k ptr 8 = .ok o →
       exec .evAbwaitWake s = (match abwaitSees (viewBar s k o) ptr p with
         | .trap c v => .next (s.modCtx k (fun x => { x with run := .draining (.trap (feTrap c v)), drainIdle := 0 }))
         | .continues => .next ((acquireFrom s k 3 (s.relsOn (.barrier (coreOf k) o))).modCtx k
             (fun c => { c with run := .running }.advance 0))
         | .waits => .next s)) ∧
     (∀ d ptr n o r, (s.ctx k).run = .waiting (.slwait d ptr n) → ringAtPtr s k ptr = .ok (o, r) →
       exec .evSlwaitWake s = .next (if n.toNat ≤ (r.filled - r.taken).toNat then
         (acquireFrom (s.modCtx k (·.setReg d (BitVec.ofNat 64 (r.filled - r.taken).toNat))) k 3 (s.relsOn (.ring (coreOf k) o))).modCtx k
           (fun c => { c with run := .running }.advance 0) else s)) ∧
     (∀ d ptr o r, (s.ctx k).run = .waiting (.slpop d ptr) → ringAtPtr s k ptr = .ok (o, r) →
       let s1 := ((flushRange s k (.pool (coreOf k)) o 32).write (.pool (coreOf k)) (o + 24) (natBytes 4 (r.taken + 1).toNat)).contended
         (.ring (coreOf k) o)
       exec .evSlpopWake s = .next (if r.filled = r.taken then s else
         (acquireFrom (s1.modCtx k (·.setReg d (scrAt (coreOf k) (r.base + r.taken.toNat % 2 ^ r.lgn * r.slotsz)))) k 3
           (s1.relsOn (.ring (coreOf k) o))).modCtx k (fun c => { c with run := .running }.advance 0))) ∧
     (∀ e d ptr n, (s.ctx k).run = .waiting (.slwait d ptr n) → ringAtPtr s k ptr = .error e → exec .evSlwaitWake s = .next s) ∧
     (∀ e d ptr, (s.ctx k).run = .waiting (.slpop d ptr) → ringAtPtr s k ptr = .error e → exec .evSlpopWake s = .next s))

/-- R35, R37, R49, R122, R176, R189, R191: the gang barriers and yield.exit. gbar makes its release at DEV scope: the context's loads, its
stores and the copies its FE knows to have retired are performed, whether or not its engines have come to rest; gbar.step, once the engines
are quiet, all of its copies. Then a gang of one goes on, a member of a larger gang arrives and waits, one whose generation was released
while it ran a handler goes on, one that has arrived already waits again, and one whose generation was mixed traps BARRIER_MISMATCH. Both
wait while an access to a host window is outstanding; outside a step-program gang gbar.step traps. yield.exit finishes a quiet member, with
its accesses performed; before its gbar.step returned 1 a step member traps. R35: a generation whose every member has arrived or finished
is released: those that wait go on, the generation counts, and each member has acquired at DEV scope from the releases of all: nothing
unchanged or overwritten within DEV scope in its die's one order stays read ahead, nor anything the others knew overwritten. -/
def Obligations.GangBarriers : Prop :=
  (∀ (s : State), s.me.abroad = false →
     let s1 := gbarRelease s s.cur
     ((s1.ctx s.cur).sbuf = [] ∧ (s1.ctx s.cur).lateLoads = [] ∧ (∀ p ∈ s1.posts, ∃ p0 ∈ s.posts,
         p0.knownTo [s.latest (.fe s.cur)] = false ∧ p = { p0 with known := p.known }) ∧
       ∀ t x, s.taskOf s.cur = some (t, x) →
         ({ at_ := .gang t, by_ := s.latest (.fe s.cur), scope := 3, live := true } : Rel) ∈ s1.rels) ∧
     (s.me.arrDone = true → exec .gbar s = .next ((acquire s1 s.cur 3 []).didBy s.cur (fun c => { c with arrDone := false }.advance 0))) ∧
     (∀ t x, s.me.arrDone = false → s.taskOf s.cur = some (t, x) → x.mixed.contains s.cur = true →
       exec .gbar s = .next ((s1.setTask t { x with mixed := x.mixed.filter (· ≠ s.cur) }).trapped .barrierMismatch 0)) ∧
     (s.me.arrDone = false → (∀ t x, s.taskOf s.cur = some (t, x) → x.mixed.contains s.cur = false) →
       (s.me.arr = true → exec .gbar s = .next (s1.didBy s.cur (fun c => { c with run := .waiting .gbar }))) ∧
       (s.me.arr = false → s.me.csr.gsize.toNat ≤ 1 → s.taskOf s.cur = none →
         exec .gbar s = .next ((acquire s1 s.cur 3 []).didBy s.cur (fun c => c.advance 0))) ∧
       (∀ t x, s.me.arr = false → s.me.csr.gsize.toNat ≤ 1 → s.taskOf s.cur = some (t, x) →
         exec .gbar s = .next (((acquire s1 s.cur 3 []).setTask t { x with gen := x.gen + 1 }).didBy s.cur (fun c => c.advance 0))) ∧
       (s.me.arr = false → 1 < s.me.csr.gsize.toNat →
         (∀ t x, s.taskOf s.cur = some (t, x) → ∀ m ∈ x.members, m ≠ s.cur → (s.ctx m).arr = true → (s.ctx m).arrStep = false) →
         exec .gbar s = .next (s1.didBy s.cur (fun c => { c with arr := true, arrStep := false, run := .waiting .gbar }))))) ∧
  (∀ (s : State) (d : Reg5), s.inStepGang s.cur = true →
     let s1 := stepRelease s s.cur
     (∀ p ∈ s1.posts, p.ctx ≠ s.cur) ∧
     (s.me.arr = false → s.me.arrDone = false → s.me.quiet = false ∨ s.me.abroad = true → exec (.gbarStep d) s = .next s) ∧
     (s.me.arr = false → s.me.arrDone = false → s.me.quiet = true → s.me.abroad = false →
       (∀ t x, s.taskOf s.cur = some (t, x) → x.mixed.contains s.cur = false ∧
         ∀ m ∈ x.members, m ≠ s.cur → (s.ctx m).arr = true → (s.ctx m).arrStep = true) →
       exec (.gbarStep d) s = .next (s1.didBy s.cur (fun c => { c with arr := true, arrStep := true, run := .waiting (.gbarStep d) }))) ∧
     (s.me.arrDone = true → exec (.gbarStep d) s =
       .next ((acquire s1 s.cur 3 []).didBy s.cur (fun c => ({ c with arrDone := false }.setReg d (if s.me.ended then 1 else 0)).advance 0))) ∧
     (∀ t x, s.me.arrDone = false → s.me.arr = true ∨ (s.me.quiet = true ∧ s.me.abroad = false) → s.taskOf s.cur = some (t, x) →
       (x.mixed.contains s.cur = true → exec (.gbarStep d) s =
         .next ((s1.setTask t { x with mixed := x.mixed.filter (· ≠ s.cur) }).trapped .barrierMismatch 0)) ∧
       (x.mixed.contains s.cur = false → s.me.arr = true →
         exec (.gbarStep d) s = .next (s1.didBy s.cur (fun c => { c with run := .waiting (.gbarStep d) }))))) ∧
  (∀ (s : State) (d : Reg5), s.inStepGang s.cur = false →
     exec (.gbarStep d) s = .next (s.trapped .illegalInstruction (wordOf (.gbarStep d)))) ∧
  (∀ (s : State),
     (s.inStepGang s.cur = true → s.me.ended = false →
       exec .yieldExit s = .next (s.trapped .illegalInstruction (wordOf .yieldExit))) ∧
     ((s.inStepGang s.cur = false ∨ s.me.ended = true) →
       (s.me.quiet = false → exec .yieldExit s = .next s) ∧
       (s.me.quiet = true → exec .yieldExit s = .next ((flush s s.cur).didBy s.cur (fun c => { c with run := .finished }))))) ∧
  (∀ s : State, s.me.abroad = true → exec .gbar s = .next s) ∧
  (∀ (s : State) (x : Task), s.taskAt s.arg.task = some x → x.st = .released → x.members.Nodup →
     (∀ m ∈ x.members, ((s.ctx m).arr = true ∧ (s.ctx m).arrStep = false ∧ (s.ctx m).run = .waiting .gbar) ∨
       ((s.ctx m).arr = false ∧ (s.ctx m).run = .finished)) →
     (∃ m ∈ x.members, (s.ctx m).arr = true) →
     ∃ t, exec .evGbarRelease s = .next t ∧ t.taskAt s.arg.task = some { x with gen := x.gen + 1 } ∧
       (∀ m ∈ x.members, (s.ctx m).arr = true →
         t.ctx m = { s.ctx m with arr := false, run := .running, pc := (s.ctx m).pc + 4 }) ∧
       (∀ k, k ∉ x.members ∨ (s.ctx k).arr = false → t.ctx k = s.ctx k) ∧
       (∀ m ∈ x.members, pastAcquire t m 3 ∧ knowsWhat t (.fe m) (s.relsOn (.gang s.arg.task))) ∧
       t.relsOn (.gang s.arg.task) = [] ∧
       t = { s with ctxs := t.ctxs, tasks := t.tasks, early := t.early, stale := t.stale, posts := t.posts, rels := t.rels })

/-! ## Barriers and rings -/

/-- R134 to R141, R192, R193: abinit, abarm and abwait of a barrier object that passes its checks, slwait, slpop and slfree of a ring
that does, as the object stands once the context's own stores to it are performed. A wait that is over acquires at DEV scope from the
releases that stand on the object, slfree makes one (R122, R141). Ring counters are compared modulo 2^32, and updates of one timestamp come
in the order of R456. That the context's own buffered stores to the object are performed by these forms is log entry 37, that reserved bits
of a barrier count as state 3 is 38, and that poison of the object's bytes has no effect is 94. -/
def Obligations.BarrierAndRingForms : Prop :=
  (∀ (s : State) (a b : Reg5) (o : Nat), s.clean a → objectAt s s.cur (s.val a) 8 = .ok o →
     let pool := Space.pool (coreOf s.cur)
     let s1 := flushRange s s.cur pool o 8
     let w : Nat := s1.readNat pool o 8
     let sets := fun (v : Nat) => ((s1.write pool o (natBytes 8 v)).contended (.barrier (coreOf s.cur) o)).dropWaiting (.barrier (coreOf s.cur) o)
     exec (.abinit a) s = .next ((sets 0).didBy s.cur (fun c => c.advance 0)) ∧
     (s.clean b → 1 ≤ (s.val b).toNat → (s.val b).toNat ≤ 2 ^ 28 - 1 →
       exec (.abarm a b) s = .next ((sets (w / 2 ^ 63 * 2 ^ 63 + 1 * 2 ^ 61 + (s.val b).toNat * 2 ^ 28 + (s.val b).toNat)).didBy s.cur
         (fun c => c.advance 0))) ∧
     (s.clean b → (s.val b).toNat = 0 ∨ 2 ^ 28 ≤ (s.val b).toNat →
       exec (.abarm a b) s = .next (s.trapped .illegalOperand 0)) ∧
     (∀ p : BitVec 1, exec (.abwait a p) s = (match abwaitSees (viewBar s s.cur o) (s.val a) p with
       | .trap c v => .next (s.trapped c v)
       | .continues => .next ((acquireFrom s s.cur 3 (s.relsOn (.barrier (coreOf s.cur) o))).didBy s.cur
           (fun c => { c with run := .running }.advance 0))
       | .waits => .next (s.did (fun c => { c with run := .waiting (.abwait (s.val a) p) }))))) ∧
  (∀ (s : State) (d a b : Reg5) (o : Nat) (r : RingDesc), s.clean a → ringAtPtr s s.cur (s.val a) = .ok (o, r) →
     let pool := Space.pool (coreOf s.cur)
     let s1 := flushRange s s.cur pool o 32
     let ring := Contended.ring (coreOf s.cur) o
     let at_ := RelAt.ring (coreOf s.cur) o
     let avail := (r.filled - r.taken).toNat
     let goes := fun (s : State) (k : CtxId) => (acquireFrom s k 3 (s.relsOn at_)).didBy k (fun c => { c with run := .running }.advance 0)
     (s.clean b → 1 ≤ (s.val b).toNat → (s.val b).toNat ≤ 2 ^ r.lgn →
       ((s.val b).toNat ≤ avail →
         exec (.slwait d a b) s = .next (goes (s.modCtx s.cur (·.setReg d (BitVec.ofNat 64 avail))) s.cur)) ∧
       (avail < (s.val b).toNat →
         exec (.slwait d a b) s = .next (s.did (fun c => { c with run := .waiting (.slwait d (s.val a) (s.val b)) })))) ∧
     (s.clean b → (s.val b).toNat = 0 ∨ 2 ^ r.lgn < (s.val b).toNat →
       exec (.slwait d a b) s = .next (s.trapped .illegalOperand 0)) ∧
     (r.filled ≠ r.taken → exec (.slpop d a) s = .next (goes
       (((s1.write pool (o + 24) (natBytes 4 (r.taken + 1).toNat)).contended ring).modCtx s.cur
         (·.setReg d (scrAt (coreOf s.cur) (r.base + r.taken.toNat % 2 ^ r.lgn * r.slotsz)))) s.cur)) ∧
     (r.filled = r.taken → exec (.slpop d a) s = .next (s.did (fun c => { c with run := .waiting (.slpop d (s.val a)) }))) ∧
     (s.me.abroad = true → exec (.slfree a) s = .next s) ∧
     (s.me.abroad = false →
       (r.freed ≠ r.taken → exec (.slfree a) s =
         .next (((((flushRange (performLoads s s.cur (fun _ => true)) s.cur pool o 32).write pool (o + 28)
             (natBytes 4 (r.freed + 1).toNat)).contended ring).addRel
           { at_ := at_, by_ := s.latest (.fe s.cur), scope := 3, live := true }).didBy s.cur (fun c => c.advance 0))) ∧
       (r.freed = r.taken → exec (.slfree a) s = .next (s.trapped .ringUnderflow (s.val a)))))

/-- R136, R137: the arrival of `n` bytes at a barrier object by its state, and the table of abwait, on the fields of the object. -/
def Obligations.ArrivalAndWaitTables : Prop :=
  (∀ (ph : BitVec 1) (e p n : Nat), e < 2 ^ 28 → p < 2 ^ 28 →
    (n < p → arrivalOn (barMake ph 1 e p) n = barMake ph 1 e (p - n)) ∧
    (n = p → arrivalOn (barMake ph 1 e p) n = barMake (~~~ph) 1 e e) ∧
    (p < n → arrivalOn (barMake ph 1 e p) n = barMake ph 2 e 0) ∧
    arrivalOn (barMake ph 0 e p) n = barMake ph 2 e p ∧ arrivalOn (barMake ph 2 e p) n = barMake ph 2 e p ∧
    (barMake ph 1 e p).toNat = ph.toNat * 2 ^ 63 + 2 ^ 61 + e * 2 ^ 28 + p) ∧
  (∀ (ph q : BitVec 1) (e p : Nat) (ptr : Word), e < 2 ^ 28 → p < 2 ^ 28 →
    abwaitSees (barMake ph 1 e p) ptr q = (if ph = q then .continues else .waits) ∧
    abwaitSees (barMake ph 0 e p) ptr q = (if ph = q then .continues else .trap .arrivalIdle ptr) ∧
    abwaitSees (barMake ph 2 e p) ptr q = .trap .arrivalOverrun ptr ∧
    abwaitSees (barMake ph 3 e p) ptr q = .trap .illegalOperand 0)

/-! ## Special registers and time -/

/-- R104, R200 to R202, R231, R364: rdcsr reads each CSR as the sum of its fields, wrcsr writes it field by field, rdts reads the counter.
In S mode every assigned number is legal, in U mode those below 0x100; a privileged number in U mode traps PRIVILEGED, before an
unassigned one traps ILLEGAL_INSTRUCTION. -/
def Obligations.CsrAccess : Prop :=
  (∀ (s : State) (r : Reg5) (n : BitVec 9) (v : Nat), csrClaim s n.toNat = some v → (n.toNat < 0x100 ∨ s.me.csr.sact = true) →
     exec (.rdcsr r n) s = .next (s.did (fun c => (c.setReg r (BitVec.ofNat 64 v)).advance 0)) ∧
     (s.clean r → exec (.wrcsr r n) s = .next (s.did (fun c =>
       { c with csr := csrWrite c.csr s.limits.wdfloor n.toNat (s.val r) }.advance 0))) ∧
     exec (.rdts r) s = .next (s.did (fun c => (c.setReg r s.tsc).advance 0))) ∧
  (∀ (s : State) (r : Reg5) (n : BitVec 9),
     (0x100 ≤ n.toNat → s.me.csr.sact = false →
       exec (.rdcsr r n) s = .next (s.trapped .privileged (wordOf (.rdcsr r n))) ∧
       exec (.wrcsr r n) s = .next (s.trapped .privileged (wordOf (.wrcsr r n)))) ∧
     ((n.toNat < 0x100 ∨ s.me.csr.sact = true) → csrClaim s n.toNat = none →
       exec (.rdcsr r n) s = .next (s.trapped .illegalInstruction (wordOf (.rdcsr r n))) ∧
       exec (.wrcsr r n) s = .next (s.trapped .illegalInstruction (wordOf (.wrcsr r n)))))

/-! ## Traps, deliveries and returns -/

/-- R44 to R46, R361, R363, R374: where a trap goes. It drains first; then a designated trap with UTVEC enabled and idle goes to the
kernel's handler, any other to the supervisor's, and one in S mode, or OPID_MISMATCH, to firmware; copies it parks are held for that
handler's return. trap #n outside S mode with nothing in flight enters the supervisor handler with the value n. That an instruction's
trap is delivered in the same step where nothing is in flight is log entry 40; that the drain performs the buffered stores, and the loads still
to be performed, is 7. -/
def Obligations.TrapDelivery : Prop :=
  (∀ (s : State) (k : CtxId) (e : Trap),
     let c := s.ctx k
     let d := (raise s k e).ctx k
     (c.drainedOut = false → d = { c with run := .draining (.trap e), drainIdle := 0 }) ∧
     (c.drainedOut = true → c.csr.sact = true ∨ e.code = .opidMismatch →
       d.run = .escalated (some e.code) ∧ d.csr = c.csr ∧ d.pc = c.pc ∧
       ((raise s k e).die (dieOf (coreOf k))).escRing = (s.die (dieOf (coreOf k))).escRing ++
         [{ ctx := k, code := e.code.code, smode := c.csr.sact, value := e.value, pc := c.pc, ts := s.tsc }]) ∧
     (c.drainedOut = true → c.csr.sact = false → e.code ≠ .opidMismatch →
       e.code.designated = true ∧ c.csr.utvecEn = true ∧ c.csr.utvecAct = false →
       d.run = .running ∧ d.pc = (BitVec.ofNat 48 (4 * c.csr.utvecBase.toNat)).signExtend 64 ∧
       d.csr = { c.csr with utvecAct := true, uepc := BitVec.ofNat 62 (c.pc.toNat / 4), ucauseCode := e.code.code,
                            ucauseQueue := e.queue, ucauseSeq := e.seq, utval := e.value } ∧
       ∀ q ∈ [EngineQ.ci, .co], (d.queue q).entries = (c.queue q).entries.map (Entry.park 1)) ∧
     (c.drainedOut = true → c.csr.sact = false → e.code ≠ .opidMismatch →
       ¬ (e.code.designated = true ∧ c.csr.utvecEn = true ∧ c.csr.utvecAct = false) →
       d.run = .running ∧ d.pc = (BitVec.ofNat 48 (4 * c.csr.stvecBase.toNat)).signExtend 64 ∧
       d.csr = { c.csr with sact := true, sepc := BitVec.ofNat 62 (c.pc.toNat / 4), scauseCode := e.code.code,
                            scauseQueue := e.queue, scauseSeq := e.seq, stval := e.value } ∧
       ∀ q ∈ [EngineQ.ci, .co], (d.queue q).entries = (c.queue q).entries.map (Entry.park 2)) ∧
     (c.lateLoads = [] → d.s = c.s) ∧ (c.drainedOut = true → d.lateLoads = []) ∧ d.p = c.p ∧ d.tiles = c.tiles ∧
     d.sbuf = (if c.drainedOut then [] else c.sbuf) ∧ ∀ j, j ≠ k → (raise s k e).ctx j = s.ctx j) ∧
  (∀ (s : State) (n : BitVec 8), s.me.csr.sact = false → s.me.drainedOut = true →
     ∃ t, exec (.trap n) s = .next t ∧
     (t.ctx s.cur).csr = { s.me.csr with sact := true, sepc := BitVec.ofNat 62 (s.me.pc.toNat / 4), scauseCode := 0x05,
                                         scauseQueue := 0, scauseSeq := 0, stval := BitVec.ofNat 64 n.toNat } ∧
     (t.ctx s.cur).pc = (BitVec.ofNat 48 (4 * s.me.csr.stvecBase.toNat)).signExtend 64 ∧
     (t.ctx s.cur).run = .running ∧ (s.me.lateLoads = [] → (t.ctx s.cur).s = s.me.s) ∧ (t.ctx s.cur).p = s.me.p ∧
     (t.ctx s.cur).tiles = s.me.tiles ∧
     ∀ k, k ≠ s.cur → t.ctx k = s.ctx k)

/-- R39, R43, R46, R229, R361, R363, R374, R375: the events that end a drain. DRAIN_AND_PARK performs the stores, parks the copies and
leaves the trap to be delivered, and waits while the context is held; the delivery events deliver it; DRAIN_ABANDON, after QWDOG's cycles
without a retirement, discards the MX, SQ and VX entries, but not while one that has started has still to write; QUEUE_STALL begins a drain, once for each time the counter reaches QWDOG. That
it is raised once is log entry 42. -/
def Obligations.DrainEvents : Prop :=
  ∀ (s : State) (e : Trap),
    let k := s.arg.ctx
    let c := s.ctx k
    (∀ w, c.run = .draining w → c.drainedOut = true → heldNow s k = false →
      ∃ t, exec .evDrainAndPark s = .next t ∧ (t.ctx k).run = .drained w ∧ (t.ctx k).sbuf = [] ∧ (t.ctx k).pc = c.pc ∧
        (t.ctx k).csr = c.csr ∧ ∀ q ∈ [EngineQ.ci, .co], ∀ x ∈ ((t.ctx k).queue q).entries, x.parked = true) ∧
    (c.run = .drained (.trap e) → c.csr.sact = false → e.code ≠ .opidMismatch →
      e.code.designated = true → c.csr.utvecEn = true → c.csr.utvecAct = false →
      exec .evUserTrapDelivery s = .next (s.modCtx k (·.deliverUser e))) ∧
    (c.run = .drained (.trap e) → c.csr.sact = false → e.code ≠ .opidMismatch →
      (e.code.designated = false ∨ c.csr.utvecEn = false ∨ c.csr.utvecAct = true) →
      exec .evSupervisorTrapDelivery s = .next (s.modCtx k (·.deliverSuper e))) ∧
    (c.run = .drained (.trap e) → (c.csr.sact = true ∨ e.code = .opidMismatch) →
      ∃ t, exec .evEscalation s = .next t ∧ (t.ctx k).run = .escalated (some e.code) ∧ (t.ctx k).csr = c.csr) ∧
    (∀ w, c.run = .draining w → c.drainedOut = false ∨ heldNow s k = true → exec .evDrainAndPark s = .next s) ∧
    (c.run = .draining (.trap e) → c.csr.qwdog.toNat ≤ c.drainIdle → heldNow s k = false →
      c.copyEnds .ci = false → c.copyEnds .co = false → c.stillWrites = false →
      ∃ t u, exec .evDrainAbandon s = .next t ∧ (t.ctx k).run = .drained (.trap u) ∧ u.code = .queueStall ∧
        u.value = BitVec.ofNat 64 e.code.code.toNat ∧ ∀ q ∈ [EngineQ.mx, .sq, .vx], ((t.ctx k).queue q).entries = []) ∧
    (c.drainIdle < c.csr.qwdog.toNat ∨ c.stillWrites = true → exec .evDrainAbandon s = .next s) ∧
    (c.run = .running ∨ (∃ w, c.run = .waiting w) → c.csr.qwdog.toNat ≤ c.watchdog → c.stallRaised = false →
      exec .evQueueStall s = .next (s.modCtx k (fun c =>
        { c with stallRaised := true, drainIdle := 0, run := .draining (.trap ⟨.queueStall, 0, 0, 0⟩) }))) ∧
    (c.watchdog < c.csr.qwdog.toNat ∨ c.stallRaised = true → exec .evQueueStall s = .next s)

/-- R48, R203, R362, R363, R373, R379, R404: the returns. utret restores the pc in U mode with ACT set and resumes the copies it parked,
else it traps; sret restores the pc and U mode; a report that had to wait for the handler's return is raised then (log entry 41);
escal drains, hands its request word to firmware and resumes behind itself. That its hand-over follows in the same step where nothing is in
flight is log entry 40. -/
def Obligations.Returns : Prop :=
  (∀ s : State, s.me.csr.sact = false → s.me.csr.utvecAct = true →
    let back := fun (c : Ctx) =>
      { c.resumeCopies 1 with pc := BitVec.ofNat 64 (4 * c.csr.uepc.toNat), csr := { c.csr with utvecAct := false } }
    (s.me.heldReports = [] → exec .utret s = .next (s.did back)) ∧
    (∀ t r, s.me.heldReports = t :: r → s.me.run = .running →
      exec .utret s = .next (s.did (fun c => { back c with heldReports := r, run := .draining (.trap t), drainIdle := 0 })))) ∧
  (∀ s : State, s.me.csr.sact = true ∨ s.me.csr.utvecAct = false →
    exec .utret s = .next (s.trapped .illegalInstruction (wordOf .utret))) ∧
  (∀ s : State, s.me.csr.sact = true →
    let back := fun (c : Ctx) =>
      { c.resumeCopies 2 with pc := BitVec.ofNat 64 (4 * c.csr.sepc.toNat), csr := { c.csr with sact := false } }
    (s.me.heldReports = [] → exec .sret s = .next (s.did back)) ∧
    (∀ t r, s.me.heldReports = t :: r → s.me.run = .running →
      exec .sret s = .next (s.did (fun c => { back c with heldReports := r, run := .draining (.trap t), drainIdle := 0 })))) ∧
  (∀ (s : State) (a : Reg5), s.me.csr.sact = true → s.clean a →
    (s.me.drainedOut = false →
      exec (.escal a) s = .next (s.did (fun c => { c.advance 0 with run := .draining (.escal (s.val a)), drainIdle := 0 }))) ∧
    (s.me.drainedOut = true →
      ∃ t, exec (.escal a) s = .next t ∧ (t.ctx s.cur).run = .escalated none ∧ (t.ctx s.cur).pc = s.me.pc + 4 ∧
        (t.ctx s.cur).csr = s.me.csr ∧
        (t.die (dieOf (coreOf s.cur))).escRing = (s.die (dieOf (coreOf s.cur))).escRing ++
          [{ ctx := s.cur, code := 0, smode := true, value := s.val a, pc := s.me.pc + 4, ts := s.tsc }]))

/-! ## SYS -/

/-- R104, R367: in U mode every SYS instruction, and CSR access at a privileged number, traps PRIVILEGED with its word and has no other
effect. -/
def Obligations.PrivilegedInUMode : Prop :=
  ∀ (s : State) (i : Instr), needsSMode i = true → s.me.csr.sact = false →
    exec i s = .next (s.trapped .privileged (wordOf i))

/-- R368, R370, R371: the SYS instructions on the context's own state, in S mode: with nothing running that they wait for, their effect;
qdrop, tokset and ochinv wait while something does. An operand of their own that is out of range traps (R156, R370, R371). -/
def Obligations.SysContextForms : Prop :=
  ∀ s : State, s.me.csr.sact = true →
    exec .wfi s = .next (s.did (fun c => if s.me.csr.note then { c with run := .running }.advance 0 else { c with run := .waiting .wfi })) ∧
    (∀ d : Reg5, d ≠ 0 → exec (.poisclr d) s = .next (s.did (fun c =>
      { c with s := c.s.set d.toNat { val := s.val d, poison := false } (by omega) }.advance 0))) ∧
    (∀ (a : Reg5) (f : BitVec 4), s.clean a → (s.val a).toNat ≤ 8 → (h : f.toNat < 10) → s.me.maskRuns (fifoQueues f.toNat) = false →
      exec (.tokset a f) s = .next (s.did (fun c => { c with tokens := c.tokens.set f.toNat (s.val a).toNat }.advance 0))) ∧
    (∀ m : BitVec 5, m ≠ 0 → s.me.maskRuns m = false →
      ∃ t, exec (.qdrop m) s = .next t ∧ (t.ctx s.cur).pc = s.me.pc + 4 ∧ sameDevice s t ∧
        (∀ q : EngineQ, ((t.ctx s.cur).queue q).entries = if m.getLsbD q.idx.val then [] else (s.me.queue q).entries) ∧
        (t.ctx s.cur).tokens = s.me.tokens ∧ (t.ctx s.cur).s = s.me.s ∧ (t.ctx s.cur).csr = s.me.csr ∧
        (t.ctx s.cur).planes = s.me.planes ∧ (t.ctx s.cur).oslots = s.me.oslots) ∧
    (∀ o i : BitVec 1, o ≠ 0 ∨ i ≠ 0 →
      ∃ t, exec (.parkdrop o i) s = .next t ∧ (t.ctx s.cur).pc = s.me.pc + 4 ∧ sameDevice s t ∧ (t.ctx s.cur).csr = s.me.csr ∧
        ∀ q : EngineQ, ((t.ctx s.cur).queue q).entries = (s.me.queue q).entries.map (fun e =>
          if ((q = .ci ∧ i = 1) ∨ (q = .co ∧ o = 1)) ∧ e.parked = true ∧ e.started = true then { e with drop := true } else e)) ∧
    (ochinvBlocked s s.cur = false →
      exec .ochinv s = .next (s.did (fun c => { c with oslots := Vector.replicate 16 (OSlot.cleared (opidOf s.cur s.me)),
                                                       oview := Vector.replicate 16 OView.empty }.advance 0))) ∧
    (∀ m : BitVec 5, s.me.maskRuns m = true → exec (.qdrop m) s = .next s) ∧
    (∀ (a : Reg5) (f : BitVec 4), s.clean a → (s.val a).toNat ≤ 8 → f.toNat < 10 → s.me.maskRuns (fifoQueues f.toNat) = true →
      exec (.tokset a f) s = .next s) ∧
    (ochinvBlocked s s.cur = true → exec .ochinv s = .next s) ∧
    (exec (.qdrop 0) s = .next (s.trapped .illegalInstruction (wordOf (.qdrop 0))) ∧
     exec (.parkdrop 0 0) s = .next (s.trapped .illegalInstruction (wordOf (.parkdrop 0 0))) ∧
     exec (.poisclr 0) s = .next (s.trapped .illegalInstruction (wordOf (.poisclr 0)))) ∧
    (∀ (a : Reg5) (f : BitVec 4),
      (10 ≤ f.toNat → exec (.tokset a f) s = .next (s.trapped .illegalInstruction (wordOf (.tokset a f)))) ∧
      (f.toNat < 10 → ¬ s.clean a → exec (.tokset a f) s = .next (s.trapped .poisonConsumed 0)) ∧
      (f.toNat < 10 → s.clean a → 8 < (s.val a).toNat → exec (.tokset a f) s = .next (s.trapped .illegalOperand 0))) ∧
    (∃ t, exec .snaptrig s = .next t ∧ t.ctxs = (s.did (fun c => c.advance 0)).ctxs ∧
      (s.snapLast = none → s.snapArmed = true → t.snapshot = latchNow s ∧ t.snapArmed = false ∧ t.snapLast = some s.tsc))

/-- R369, R426, R427: tlbinv in S mode, with no access in flight beyond the device in its scope: afterwards no TLB, second-level TLB or
walk cache it covers serves what it names, and every other translation, and all else of the machine, is as the accesses under it leave it;
tlbinv.all empties the TLB of its own core and no other cache. It waits while such an access is in flight. A scope other than DIE or DEV
traps, and so does a poisoned address. That the accesses issued under it are performed by the tlbinv itself is log entry 23: the model's
choice. -/
def Obligations.TlbInvalidation : Prop :=
  (∀ (s : State) (a : Reg5) (c : BitVec 3), s.me.csr.sact = true → c = 2 ∨ c = 3 →
    tlbBlocked s (ctxsOf (diesIn s.cur c)) = false →
    let p := s.me.csr.partn
    let va := (s.val a).toNat % 2 ^ 48
    let u := flushAll s (ctxsOf (diesIn s.cur c))
    (s.clean a → ∃ t, exec (.tlbinvVa a c) s = .next t ∧
      t = { u.didBy s.cur (fun x => x.advance 0) with cores := t.cores, dies := t.dies } ∧
      (∀ x, t.core x = { u.core x with tlb := (if c = 3 ∨ dieOf x = dieOf (coreOf s.cur)
        then (s.core x).tlb.filter (fun e => !(e.part == p && e.vpn == va / 2 ^ e.lg)) else (s.core x).tlb) }) ∧
      (∀ d, t.die d = { u.die d with
        l2tlb := if c = 3 ∨ d = dieOf (coreOf s.cur)
          then (s.die d).l2tlb.filter (fun e => !(e.part == p && e.vpn == va / 2 ^ e.lg)) else (s.die d).l2tlb,
        walkCache := if c = 3 ∨ d = dieOf (coreOf s.cur)
          then (s.die d).walkCache.filter (fun e => !(e.part == p && e.tag == va / 2 ^ levelLo e.level))
          else (s.die d).walkCache })) ∧
    (∃ t, exec (.tlbinvTen c) s = .next t ∧
      t = { u.didBy s.cur (fun x => x.advance 0) with cores := t.cores, dies := t.dies } ∧
      (∀ x, t.core x = { u.core x with tlb := (if c = 3 ∨ dieOf x = dieOf (coreOf s.cur)
        then (s.core x).tlb.filter (fun e => !(e.part == p)) else (s.core x).tlb) }) ∧
      (∀ d, t.die d = { u.die d with
        l2tlb := if c = 3 ∨ d = dieOf (coreOf s.cur) then (s.die d).l2tlb.filter (fun e => !(e.part == p)) else (s.die d).l2tlb,
        walkCache := if c = 3 ∨ d = dieOf (coreOf s.cur) then (s.die d).walkCache.filter (fun e => !(e.part == p)) else (s.die d).walkCache }))) ∧
  (∀ s : State, s.me.csr.sact = true →
    let own := (List.finRange 4).map (ctxAt (coreOf s.cur))
    let u := flushAll s own
    ((∀ k ∈ own, (s.ctx k).abroad = false) → ∃ t, exec .tlbinvAll s = .next t ∧
      t = { u.didBy s.cur (fun x => x.advance 0) with cores := t.cores } ∧
      (∀ x, t.core x = { u.core x with tlb := if x = coreOf s.cur then [] else (s.core x).tlb }) ∧
      ∀ d, (t.die d).l2tlb = (s.die d).l2tlb ∧ (t.die d).walkCache = (s.die d).walkCache) ∧
    ((∃ k ∈ own, (s.ctx k).abroad = true) → exec .tlbinvAll s = .next s)) ∧
  (∀ (s : State) (a : Reg5) (c : BitVec 3), s.me.csr.sact = true →
    (c ≠ 2 ∧ c ≠ 3 →
      exec (.tlbinvVa a c) s = .next (s.trapped .illegalInstruction (wordOf (.tlbinvVa a c))) ∧
      exec (.tlbinvTen c) s = .next (s.trapped .illegalInstruction (wordOf (.tlbinvTen c)))) ∧
    (c = 2 ∨ c = 3 → ¬ s.clean a → exec (.tlbinvVa a c) s = .next (s.trapped .poisonConsumed 0)) ∧
    (c = 2 ∨ c = 3 → tlbBlocked s (ctxsOf (diesIn s.cur c)) = true →
      exec (.tlbinvTen c) s = .next s ∧ (s.clean a → exec (.tlbinvVa a c) s = .next s)))

/-! ## Madder and requests at the FE -/

/-- R312, R314, R315, R436: a G-instruction that passes its checks is sent to the unit with the time it was sent and the FE goes on, with
16 outstanding it waits; gstat, once every earlier one is performed, and every one of another context that arrived earlier for the
automaton it names, and no restore of that automaton runs, reads an automaton of its own partition and clears REF, SNAPINV and REJ, and of another partition's reads REF alone and clears nothing; it acquires what they did. -/
def Obligations.MadderForms : Prop :=
  (∀ (s : State) (i : Instr) (l : List Reg5) (ok : Prop) (g : GOp), madderClaim s i = some (l, ok, g) →
     (s.me.gops.length < 16 → (∀ r ∈ l, s.clean r) → ok →
       exec i s = .next (s.did (fun c => { c with gops := c.gops ++ [(g, s.tsc)] }.advance 0))) ∧
     (16 ≤ s.me.gops.length → exec i s = .next s) ∧
     (s.me.gops.length < 16 → (∃ r ∈ l, ¬ s.clean r) → exec i s = .next (s.trapped .poisonConsumed 0))) ∧
  (∀ (s : State) (a b : Reg5), s.clean b → automatonIn s (s.val b) →
     let d := dieOf (coreOf s.cur)
     let p := s.me.csr.partn
     let u := s.aut d (automatonNo (s.val b))
     let earlier := ∃ j, j ≠ s.cur ∧ dieOf (coreOf j) = d ∧ ∃ g at_, (g, at_) ∈ (s.ctx j).gops ∧ automatonNo (s.val b) ∈ g.reaches ∧
       (at_.toNat < s.tsc.toNat ∨ (at_ = s.tsc ∧ j.val < s.cur.val))
     (s.me.gops ≠ [] ∨ (u.part = some p ∧ u.restoring = true) ∨ earlier → exec (.gstat a b) s = .next s) ∧
     (s.me.gops = [] → ¬ earlier → u.part ≠ some p →
       exec (.gstat a b) s = .next ((gstatAcquires s d (automatonNo (s.val b))).did
         (fun c => (c.setReg a (BitVec.ofNat 64 (2 ^ 38))).advance 0))) ∧
     (s.me.gops = [] → ¬ earlier → u.part = some p → u.restoring = false →
       ∃ v : Word, exec (.gstat a b) s = .next ((gstatAcquires
         (touchReads (s.setAut d (automatonNo (s.val b)) { u with ref := false, snapinv := false, rej := false }) d p
           (gstatReads s d p u)) d (automatonNo (s.val b))).did
         (fun c => (c.setReg a v).advance 0)) ∧
       (u.conf.state < 2 ^ 16 → u.conf.stack.length < 2 ^ 8 →
         v.toNat % 2 ^ 16 = u.conf.state ∧ v.toNat / 2 ^ 16 % 2 ^ 8 = u.conf.stack.length ∧
         v.getLsbD 39 = u.bound ∧ v.getLsbD 38 = u.ref ∧ v.getLsbD 37 = u.snapinv ∧ v.getLsbD 36 = u.badg ∧
         v.getLsbD 35 = u.rej ∧ v.getLsbD 34 = u.conf.fin)))

/-- R300 to R303: the Q-instructions of a member of a step-program task on an occupied slot: the record's field, a written field, the
slot's request, the stop condition, the marks. -/
def Obligations.RequestForms : Prop :=
  ∀ (s : State) (d a b : Reg5) (t : Nat) (x : Task) (die : DieId) (i : Nat) (e : ReqEntry),
    s.taskOf s.cur = some (t, x) → x.stepp = true → s.clean d → s.clean a → s.clean b →
    (s.val a).toNat < s.me.csr.nslots.toNat → s.slotReq t (s.val a).toNat = some (die, i, e) →
    let r := e.record
    let v := (s.val b).toNat
    (∀ w, recordField r v = some w → exec (.qrd d a b) s = .next (s.did (fun c => (c.setReg d w).advance 0))) ∧
    (v = 24 → e.faultMark = false → e.posDone = false → r.pos.toNat < (s.val d).toNat → (s.val d).toNat ≤ r.pos.toNat + e.ntok →
      exec (.qwr d a b) s = .next (State.did (s.updateReq die i { e with posDone := true, record := { r with pos := s.val d } })
        (fun c => c.advance 0))) ∧
    (v = 12 → e.faultMark = false → (s.val d).toNat ≤ 7 →
      exec (.qwr d a b) s = .next (State.did
        (s.updateReq die i { e with record := { r with draft := BitVec.ofNat 8 (s.val d).toNat } }) (fun c => c.advance 0))) ∧
    (v = 48 → e.faultMark = false → (s.val d).toNat < 2 ^ 32 →
      exec (.qwr d a b) s = .next (State.did
        (s.updateReq die i { e with record := { r with kvpn := BitVec.ofNat 32 (s.val d).toNat } }) (fun c => c.advance 0))) ∧
    (v = 24 ∨ v = 12 ∨ v = 48 → e.faultMark = true → exec (.qwr d a b) s = .next (s.did (fun c => c.advance 0))) ∧
    (v ≠ 24 → v ≠ 12 → v ≠ 48 → exec (.qwr d a b) s = .next (s.trapped .illegalOperand 0)) ∧
    exec (.qslot d a) s = .next (s.did (fun c => (c.setReg d (BitVec.ofNat 64 r.reqid.toNat)).advance 0)) ∧
    (v / 2 ^ 41 = 0 → 1 ≤ v / 2 ^ 32 % 2 ^ 8 → v / 2 ^ 32 % 2 ^ 8 ≤ e.ntok →
      exec (.qstop d a b) s = .next (s.did (fun c => (c.setReg d (
        if e.stops.contains (BitVec.ofNat 32 v) then 1
        else if r.flags.getLsbD 0 = true ∧ v / 2 ^ 40 % 2 = 1 then 2
        else if r.maxlen.toNat ≤ r.pos.toNat + v / 2 ^ 32 % 2 ^ 8 + 1 then 3 else 0)).advance 0))) ∧
    (1 ≤ v → v ≤ 4 → exec (.qret a b) s = .next (State.did (s.updateReq die i (
        if e.faultMark = true ∨ e.stopMark = true then e
        else { e with stopMark := true, record := { r with stopr := BitVec.ofNat 8 v } })) (fun c => c.advance 0))) ∧
    (0x80 ≤ v → v ≤ 0xFF → exec (.qfault a b) s = .next (State.did (s.updateReq die i (
        if e.faultMark = true then e
        else { e with faultMark := true, record := { r with fcode := BitVec.ofNat 8 v, fpos := r.pos } }))
      (fun c => c.advance 0)))

/-! ## Engine instructions: dispatch -/

/-- R26, R86, R88, R91, R99, R270 to R292, R325 to R331: lane arithmetic, compares, masks, reductions, special functions, conversions,
loads and stores, moves, parking and the custom forms are dispatched to VX with the physical tiles and masks their names stand for. That
an oload in flight counts as filling its plane is log entry 47: the model's choice. -/
def Obligations.VectorUnitDispatch : Prop :=
  (∀ (s : State) (i : Instr) (x : Sent), laneClaim s i = some x → x.ok → s.me.qFull x.q = false →
     exec i s = .next (s.did (x.effect s.clock))) ∧
  (∀ (s : State) (i : Instr) (x : Sent), vectorClaim s i = some x → x.ok → s.me.qFull x.q = false →
     exec i s = .next (s.did (x.effect s.clock))) ∧
  (∀ (s : State) (i : Instr) (x : Sent), ochreClaim s i = some x → x.ok → s.me.qFull x.q = false →
     exec i s = .next (s.did (x.effect s.clock)))

/-- R235, R236, R243 to R266: the matrix and scan forms, with the view of configuration, planes and scales they check and change. That
records overlap by the bytes of their rows, gaps left out, is log entry 28, the order of the checks of a form 45, and which version stores
ask STRIDE of the version word 46: the model's choices. -/
def Obligations.MatrixScanDispatch : Prop :=
  (∀ (s : State) (i : Instr) (x : Sent), matrixClaim s i = some x → x.ok → s.me.qFull x.q = false →
     exec i s = .next (s.did (x.effect s.clock))) ∧
  (∀ (s : State) (i : Instr) (x : Sent), scanClaim s i = some x → x.ok → s.me.qFull x.q = false →
     exec i s = .next (s.did (x.effect s.clock)))

/-- R210 to R227: the copy forms, with everything a copy captures. That ranges overlap by their whole extents is log entry 28, how the
barrier pointer of a cmcast is checked 34, that a page list is no source range 96, and that a pack has no limit on its total 97: the
model's choices. -/
def Obligations.CopyFormsDispatch : Prop :=
  ∀ (s : State) (i : Instr) (x : Sent), copyClaim s i = some x → x.ok → s.me.qFull x.q = false →
    exec i s = .next (s.did (x.effect s.clock))

/-- R26, R27: what dispatch leaves in the queues: one entry at the tail of its queue with the next sequence number, every other queue as
it was; and an engine instruction whose queue is full waits without issuing. One whose operands or state fail a check of its form traps precisely
and enqueues nothing (R96, R210, R235, R236, R270, R325): a lane form names a tile outside the context's, or a reserved conversion or
pair. -/
def Obligations.DispatchAppends : Prop :=
  (∀ (s : State) (i : Instr) (x : Sent),
    (laneClaim s i = some x ∨ vectorClaim s i = some x ∨ ochreClaim s i = some x ∨ matrixClaim s i = some x ∨
      scanClaim s i = some x ∨ copyClaim s i = some x) →
    ((∃ e : Entry, ((x.effect s.clock s.me).queue x.q).entries = (s.me.queue x.q).entries ++ [e] ∧ e.op = x.op ∧ e.dep = x.dep ∧
        e.seq = (s.me.queue x.q).next ∧ e.started = false ∧ e.done = false ∧ e.nctl = s.me.csr.nctl ∧
        e.pushP = x.dep.getLsbD 1 ∧ e.pushN = x.dep.getLsbD 0) ∧
      ((x.effect s.clock s.me).queue x.q).next = (s.me.queue x.q).next + 1 ∧
      (∀ q, q ≠ x.q → (x.effect s.clock s.me).queue q = s.me.queue q) ∧
      (x.effect s.clock s.me).s = s.me.s ∧ (x.effect s.clock s.me).p = s.me.p ∧ (x.effect s.clock s.me).tiles = s.me.tiles ∧
      (x.effect s.clock s.me).tokens = s.me.tokens ∧ (x.effect s.clock s.me).pc = s.me.pc + 4) ∧
    ((s.me.queue x.q).entries.length = 16 → exec i s = .next s) ∧
    (¬ x.ok → s.me.qFull x.q = false → ∃ c v,
      c ∈ [TrapCode.illegalInstruction, .illegalRegister, .illegalOperand, .addressInvalid, .misaligned, .windowBounds, .foreignScratch,
        .shapeInvalid, .shapeBounds, .shapeMismatch, .unloadedOpcode, .poisonConsumed] ∧
      exec i s = .next (s.trapped c v) ∧
      ∀ q, (((s.trapped c v).ctx s.cur).queue q).entries.length = (s.me.queue q).entries.length ∧
        (((s.trapped c v).ctx s.cur).queue q).next = (s.me.queue q).next)) ∧
  (∀ (s : State) (i : Instr) (x : Sent), laneClaim s i = some x → ¬ x.ok → s.me.qFull x.q = false →
    exec i s = .next (s.trapped .illegalRegister (wordOf i)) ∨
    (exec i s = .next (s.trapped .illegalInstruction (wordOf i)) ∧
      ((∃ e d a k m z r, i = .vcvt e d a k m z r ∧ 8 < k.toNat) ∨ ∃ e a n, i = .vqmx e 31 a n)))

/-! ## Engines: entries start, run and retire -/

/-- R13, R27, R28, R30, R39, R40, R238: an entry starts only at the head of its queue with the tokens it waits for, once its core's engine
is free and the turn is its context's: a deadline-class head first, then the head that has waited longest, then the lower context number.
It pops its tokens. One that is no copy reads what it reads and has its whole effect on the memories and the context; where its writes are
left to turns of their own, each of them writes one element, in any order, and all of them together make the memories what the effect
says. Without its tokens an entry does not start, and neither does one whose turn has not come. Writing by elements is log entry
92; that a copy's bytes move later is 39. How long a head has waited that a resumption made head is 12. -/
def Obligations.EntryStarts : Prop :=
  (∀ (s : State) (e : Entry),
    let k := s.arg.ctx
    let q := s.arg.q
    let c := s.ctx k
    let popped := (c.popTok (depWP e.dep) (fifoWP q)).popTok (depWN e.dep) (fifoWN q)
    let r := runOp k s.fresh (s.emem k) popped e
    (startable s k q = some e →
      (c.queue q).entries.head? = some e ∧ e.started = false ∧
      (e.dep.getLsbD 3 = true → 0 < c.tok (fifoWP q)) ∧ (e.dep.getLsbD 2 = true → 0 < c.tok (fifoWN q)) ∧
      (enginePick s (coreOf k) q ≠ some k → exec .evEntryStart s = .next s) ∧
      (enginePick s (coreOf k) q = some k → ∃ t, exec .evEntryStart s = .next t ∧
        (∀ f, (t.ctx k).tok f = c.tok f - (if e.dep.getLsbD 3 = true ∧ f = fifoWP q then 1 else 0)
          - (if e.dep.getLsbD 2 = true ∧ f = fifoWN q then 1 else 0)) ∧
        (∀ j, j ≠ k → t.ctx j = s.ctx j) ∧ t.dmem = s.dmem ∧ t.hostMem = s.hostMem ∧ t.peerMem = s.peerMem ∧
        (∀ x, x ≠ coreOf k → t.core x = s.core x) ∧
        ∃ e', ((t.ctx k).queue q).entries = e' :: (c.queue q).entries.tail ∧ e'.started = true ∧ e'.seq = e.seq ∧ e'.op = e.op ∧
          (e.isCopy = true → e'.done = e.done ∧ t.cores = s.cores) ∧
          (e.isCopy = false → e'.flags = r.flags ∧ e'.done = e'.todo.isEmpty ∧ t.ctx k = r.ctx.setHead q e' ∧
            e'.report = r.report.map (fun x => { code := x.1, value := x.2, queue := q.code, seq := e.seq }) ∧
            (s.arg.flag = false → e'.todo = [] ∧ (t.core (coreOf k)).pool = r.mem.pool ∧ (t.core (coreOf k)).acc = r.mem.acc) ∧
            (s.arg.flag = true → e'.todo = engineWrites e.op (s.emem k) r.mem ∧ (e'.todo ≠ [] → t.cores = s.cores))))) ∧
    ((c.queue q).entries.head? = some e → (e.dep.getLsbD 3 = true ∧ c.tok (fifoWP q) = 0) ∨
      (e.dep.getLsbD 2 = true ∧ c.tok (fifoWN q) = 0) → exec .evEntryStart s = .next s)) ∧
  (∀ (s : State) (c : CoreId) (q : EngineQ) (k : CtxId), enginePick s c q = some k →
    coreOf k = c ∧ wantsEngine s k q = true ∧
    (∀ j e, coreOf j = c → (s.ctx j).head q = some e → e.onEngine = false) ∧
    ∀ j, coreOf j = c → wantsEngine s j q = true →
      ((s.ctx j).csr.dlc = true → (s.ctx k).csr.dlc = true) ∧
      ((s.ctx j).csr.dlc = (s.ctx k).csr.dlc →
        (s.ctx k).headSince[q.idx.val] ≤ (s.ctx j).headSince[q.idx.val] ∧
        ((s.ctx k).headSince[q.idx.val] = (s.ctx j).headSince[q.idx.val] → k.val ≤ j.val))) ∧
  (∀ (s : State) (rest : List Turn) (k : CtxId) (q : EngineQ) (i : Nat) (e : Entry) (w : EngineWrite),
    s.agenda = .engineWrite k q i :: rest → (s.ctx k).head q = some e → e.todo[i]? = some w → s.memWf = true → s.late = false →
    let sp : Space := if w.acc then .acc (coreOf k) else .pool (coreOf k)
    ∃ t, step s = .next t ∧
      (∀ j, j < w.bytes.length → (t.memOf sp).get (w.addr + j) = w.bytes.getD j ⟨0, false⟩) ∧
      (∀ sp' a, sp' ≠ sp ∨ a < w.addr ∨ w.addr + w.bytes.length ≤ a → (t.memOf sp').get a = (s.memOf sp').get a) ∧
      (t.ctx k).head q = some { e with todo := e.todo.eraseIdx i, done := (e.todo.eraseIdx i).isEmpty,
                                       onEngine := !(e.todo.eraseIdx i).isEmpty }) ∧
  (∀ (op : EngineOp) (old new : EMem), old.ok → ∀ acc : Bool,
    let n := if acc then 4 else op.unitBytes
    let at_ := fun (m : EMem) => if acc then m.acc else m.pool
    let ws := (engineWrites op old new).filter (fun w => w.acc == acc)
    (∀ w ∈ ws, w.bytes = (at_ new).read w.addr n ∧ w.addr % n = 0) ∧
    ∀ a, (ws.foldl (fun x w => x.write w.addr w.bytes) (at_ old)).get a = (at_ new).get a)

/-- R29, R31, R43, R45, R65, R67, R129: a complete head whose pushes have room leaves its queue: one token into each FIFO it names, its
flags into NFLAG, its failure kept for FENCE (by a FENCE that waits already for the next one), the watchdog and the drain's count at 0. It
is reported then: the report it made as it ran, or the arithmetic trap its flags and enables give; of the traps of one cycle the one of
the first queue alone is raised (R67). While a FIFO is full it stays, with the pushes made that have room. A report that arises while the
context drains waits, in S mode to escalate (R360, R363); a precise trap of the FE gives way to it. How reports wait is log entry 41, which
entries retire in one cycle 122: the model's choices. -/
def Obligations.EntryRetires : Prop :=
  ∀ (s : State) (e : Entry) (r : List Entry),
    let k := s.arg.ctx
    let q := s.arg.q
    let c := s.ctx k
    (c.queue q).entries = e :: r → e.done = true → e.parked = false → c.enginesRun = true →
    ((e.pushP = true → c.tok (fifoSP q) < 8) → (e.pushN = true → c.tok (fifoSN q) < 8) →
      ∃ u, (∀ x, e.report = some x → exec .evEntryRetire s = .next (report u k x)) ∧
        (e.report = none → arithTrap e.flags e.nctl = none → exec .evEntryRetire s = .next u) ∧
        (∀ x, e.report = none → arithTrap e.flags e.nctl = some x →
          let t : Trap := { code := x, value := 0, queue := q.code, seq := e.seq }
          let took := fun (v : State) => v.modCtx k (fun d => { d with lastArith := some (s.clock, t) })
          ((s.arg.flag = false ∨ ∀ y, c.lastArith = some (s.clock, y) → y.queue = t.queue) →
            exec .evEntryRetire s = .next (took (report u k t))) ∧
          (∀ y, s.arg.flag = true → c.lastArith = some (s.clock, y) →
            (y.queue < t.queue → exec .evEntryRetire s = .next u) ∧
            (t.queue < y.queue → exec .evEntryRetire s = .next (took (u.modCtx k (·.reportInstead y t)))))) ∧
        ((u.ctx k).queue q).entries = r ∧
        (∀ f, (u.ctx k).tok f = c.tok f + (if e.pushP = true ∧ f = fifoSP q then 1 else 0)
          + (if e.pushN = true ∧ f = fifoSN q then 1 else 0)) ∧
        (u.ctx k).csr = { c.csr with nflag := c.csr.nflag ||| e.flags } ∧
        (u.ctx k).watchdog = 0 ∧ (u.ctx k).drainIdle = 0 ∧ (u.ctx k).stallRaised = false ∧ (u.ctx k).headSince[q.idx.val] = s.clock ∧
        (e.fail = 0 → (u.ctx k).fails = c.fails ∧ (u.ctx k).lateFails = c.lateFails) ∧
        (e.fail ≠ 0 → (∀ x y, c.run ≠ .waiting (.fence x y)) →
          (u.ctx k).fails = ⟨c.fails.bits ||| e.fail, min 255 (c.fails.count + 1)⟩ ∧ (u.ctx k).lateFails = c.lateFails) ∧
        (e.fail ≠ 0 → (∃ x y, c.run = .waiting (.fence x y)) →
          (u.ctx k).fails = c.fails ∧ (u.ctx k).lateFails = ⟨c.lateFails.bits ||| e.fail, min 255 (c.lateFails.count + 1)⟩) ∧
        (u.ctx k).s = c.s ∧ (u.ctx k).pc = c.pc ∧ (u.ctx k).run = c.run ∧ ∀ j, j ≠ k → u.ctx j = s.ctx j) ∧
    ((e.pushP = true ∧ 8 ≤ c.tok (fifoSP q)) ∨ (e.pushN = true ∧ 8 ≤ c.tok (fifoSN q)) →
      ∃ t, exec .evEntryRetire s = .next t ∧
        ((t.ctx k).queue q).entries = { e with pushP := e.pushP && decide (8 ≤ c.tok (fifoSP q))
                                               pushN := e.pushN && decide (8 ≤ c.tok (fifoSN q)) } :: r ∧
        (∀ f, (t.ctx k).tok f = c.tok f + (if e.pushP = true ∧ c.tok (fifoSP q) < 8 ∧ f = fifoSP q then 1 else 0)
          + (if e.pushN = true ∧ c.tok (fifoSN q) < 8 ∧ f = fifoSN q then 1 else 0)) ∧
        (t.ctx k).csr = c.csr ∧ (t.ctx k).s = c.s ∧ (t.ctx k).pc = c.pc ∧ (t.ctx k).run = c.run ∧ ∀ j, j ≠ k → t.ctx j = s.ctx j) ∧
    (∀ j x, (s.ctx j).run = .running → report s j x = s.modCtx j (·.drainFor (.trap x))) ∧
    (∀ j x y, (s.ctx j).run = .draining (.escal y) → report s j x = s.modCtx j (fun d =>
      if d.csr.sact then { d with heldEscs := d.heldEscs ++ [x] } else { d with heldReports := d.heldReports ++ [x] })) ∧
    (∀ j x y, (s.ctx j).run = .draining (.trap y) → y.code ≠ .barrierMismatch →
      (y.queue = 0 → y.code ≠ .queueStall → report s j x = s.modCtx j (fun d => { d with run := .draining (.trap x) })) ∧
      (y.queue ≠ 0 ∨ y.code = .queueStall → (s.ctx j).csr.sact = true →
        report s j x = s.modCtx j (fun d => { d with heldEscs := d.heldEscs ++ [x] }))) ∧
    (∀ (d : Ctx) (x y : Trap), d.run = .draining (.trap y) → (d.reportInstead y x).run = .draining (.trap x))

/-- R89, R274 to R292, R325 to R334: what the entries of VX write. A lane operation writes each lane of its destination whose mask bit is
set with the value of its source lanes, poisoned if one of them is, and leaves every other lane, tile, mask and memory as it was; so do
moves, conversions, special functions, reductions and loads with the values their rules give; a store, a park and a bucket update write
their record alone; ox writes what the captured plane's graph gives, oload and ounld the slot. -/
def Obligations.VectorResults : Prop :=
  (∀ (m : EMem) (c : Ctx) (op : LaneOp) (d a b mk : Nat), d < 32 → a < 32 → b < 32 →
    (∀ x y, (laneValue op x y).isSome = true) →
    let r := runLane m c op d a b mk
    r.mem = m ∧ r.report = none ∧ r.ctx.masks = c.masks ∧ r.ctx.csr = c.csr ∧
    (∀ n, n < 32 → n ≠ d → r.ctx.tile n = c.tile n) ∧
    ∀ i : Fin 1024, (r.ctx.tile d)[i.val] =
      if (c.mask mk).getLsbD i.val then
        { bits := (laneValue op (c.tile a)[i.val].bits (c.tile b)[i.val].bits).getD 0,
          poison := (c.tile a)[i.val].poison || (c.tile b)[i.val].poison }
      else (c.tile d)[i.val]) ∧
  (∀ (k : CtxId) (draw : Nat) (m : EMem) (c : Ctx) (e : Entry) (d d1 a a1 b mk : Nat),
    d < 32 → d1 < 32 → a < 32 → a1 < 32 → b < 32 → mk < 8 →
    let r := runOp k draw m c e
    let x := fun (i j : Nat) => laneAt (c.tile a) i j
    let y := fun (i j : Nat) => laneAt (c.tile b) i j
    let z := fun (i j : Nat) => laneAt (c.tile d) i j
    (∀ (op : LaneOp) (f : BitVec 32 → BitVec 32 → BitVec 32 → BitVec 32 × Flags), e.op = .lane op d a b mk → (∀ u v w, floatLane op u v w = some (f u v w)) →
      LanesRun m c d mk (fun i j =>
        ({ bits := (f (x i j).bits (y i j).bits (z i j).bits).1,
           poison := (x i j).poison || (y i j).poison || (decide (op = .fmaF ∨ op = .fnmaF) && (z i j).poison) },
         (f (x i j).bits (y i j).bits (z i j).bits).2)) r) ∧
    (e.op = .lane .cadd d a b mk → LanesRun m c d mk (fun i j =>
      if j % 2 = 0 then ({ bits := (sub32 (x i j).bits (y i (j + 1)).bits).1, poison := (x i j).poison || (y i (j + 1)).poison },
        (sub32 (x i j).bits (y i (j + 1)).bits).2)
      else ({ bits := (add32 (x i j).bits (y i (j - 1)).bits).1, poison := (x i j).poison || (y i (j - 1)).poison },
        (add32 (x i j).bits (y i (j - 1)).bits).2)) r) ∧
    (e.op = .lane .cmul d a b mk → LanesRun m c d mk (fun i j =>
      let p := fun (u v : Lane) => ((num32 u.bits).mul (num32 v.bits)).1
      let ev := j / 2 * 2
      let od := j / 2 * 2 + 1
      let v := if j % 2 = 0 then roundSum [p (x i ev) (y i ev), (p (x i od) (y i od)).neg]
        else roundSum [p (x i ev) (y i od), p (x i od) (y i ev)]
      ({ bits := v.1, poison := (x i ev).poison || (x i od).poison || (y i ev).poison || (y i od).poison }, v.2)) r) ∧
    (∀ op md, md < 8 → e.op = .vcmp op md a b mk →
      MaskRun m c md mk (fun i => compareLane op (x (i / 64) (i % 64)).bits (y (i / 64) (i % 64)).bits) r) ∧
    (∀ op md ma mb, md < 8 → ma < 8 → mb < 8 → e.op = .mask op md ma mb mk →
      MaskRun m c md mk (fun i => maskLane op ((c.mask ma).getLsbD i) ((c.mask mb).getLsbD i)) r) ∧
    (e.op = .vsel d a b mk → TileRun m c d (fun i j => if (c.mask mk).getLsbD (lanePlace i j) then x i j else y i j) r) ∧
    (∀ n, (e.op = .move (.rotr n) d a mk → LanesRun m c d mk (fun i j => (x i ((j + n) % 64), 0)) r) ∧
      (e.op = .move (.rotc n) d a mk → LanesRun m c d mk (fun i j => (x ((i + n) % 16) j, 0)) r) ∧
      (n < 64 → e.op = .move (.bcr n) d a mk → LanesRun m c d mk (fun i _ => (x i n, 0)) r) ∧
      (n < 16 → e.op = .move (.bcc n) d a mk → LanesRun m c d mk (fun _ j => (x n j, 0)) r) ∧
      (n < 64 → e.op = .move (.xchC n) d a mk → LanesRun m c d mk (fun i j => (x i (j ^^^ n), 0)) r) ∧
      (n < 16 → e.op = .move (.xchR n) d a mk → LanesRun m c d mk (fun i j => (x (i ^^^ n) j, 0)) r)) ∧
    (∀ op, (e.op = .redr op d a mk → ∃ f, LanesRun m c d mk f r ∧ ∀ i j, i < 16 →
        Reduced op (rowLanes c a mk i) (f i j).1.bits ∧ (f i j).1.poison = (rowLanes c a mk i).any (·.poison)) ∧
      (e.op = .redc op d a mk → ∃ f, LanesRun m c d mk f r ∧ ∀ i j, j < 64 →
        Reduced op (colLanes c a mk j) (f i j).1.bits ∧ (f i j).1.poison = (colLanes c a mk j).any (·.poison))) ∧
    (∀ n, n ≤ 64 → e.op = .vslice d a a1 n →
      TileRun m c d (fun i j => if j + n < 64 then x i (j + n) else laneAt (c.tile a1) i (j + n - 64)) r) ∧
    (∀ n, n < 16 → e.op = .vins d a n → TileRun m c d (fun i j => if i = n then x 0 j else z i j) r) ∧
    (∀ n, n < 1024 → e.op = .vext d a n → TileRun m c d (fun _ _ => x (n / 64) (n % 64)) r) ∧
    (∀ f, e.op = .vsf f d a mk → LanesRun m c d mk (fun i j => carry (x i j) (vsf f (x i j).bits)) r) ∧
    (e.op = .vrcp d a mk → LanesRun m c d mk (fun i j => carry (x i j) (vrcp32 (x i j).bits)) r) ∧
    (e.op = .vrsq d a mk → LanesRun m c d mk (fun i j => carry (x i j) (vrsq32 (x i j).bits)) r) ∧
    (∀ kind sat md, e.op = .vcvt kind sat md d a mk →
      LanesRun m c d mk (fun i j => carry (x i j) (vcvtFn kind sat (rmode md) (x i j).bits)) r) ∧
    (∀ n eps, e.op = .vrms d a n eps → TileRun m c d (fun i _ =>
      { bits := (rmsRow (x i 0).bits (x i 1).bits n eps).1, poison := (x i 0).poison || (x i 1).poison }) r) ∧
    (e.op = .vrmsPart d a →
      let p := fun (i : Nat) => (List.range 64).foldl (fun (p : FPair) j =>
        p.fma one32 (FNum.times (num32 (x i j).bits, 0) (num32 (x i j).bits, 0))) (((z i 0).bits, (z i 1).bits), 0)
      let bad := fun (i : Nat) => (z i 0).poison || (z i 1).poison || (List.range 64).any (fun j => (x i j).poison)
      TileRun m c d (fun i j => if j = 0 then { bits := (p i).1.1, poison := bad i } else if j = 1 then
        { bits := (p i).1.2, poison := bad i } else z i j) r) ∧
    (∀ q, e.op = .vqmx q d d1 a → d ≠ d1 →
      let blk := fun (i h : Nat) => (List.range 32).map (fun j => x i (32 * h + j))
      let res := fun (i h : Nat) => quantise (9 + q.toNat) ((blk i h).map (fun u => num32 u.bits))
      r.mem = m ∧ r.report = none ∧ (∀ n, n < 32 → n ≠ d → n ≠ d1 → r.ctx.tile n = c.tile n) ∧
      (∀ i h j, i < 16 → h < 2 → j < 32 → laneAt (r.ctx.tile d) i (32 * h + j) =
        { bits := widen32 (9 + q.toNat) ((res i h).2.1.getD j 0), poison := (blk i h).any (·.poison) }) ∧
      (∀ i h, i < 16 → h < 2 → laneAt (r.ctx.tile d1) i h =
        { bits := BitVec.ofNat 32 (res i h).1, poison := (blk i h).any (·.poison) }) ∧
      (∀ i j, i < 16 → 2 ≤ j → j < 64 → laneAt (r.ctx.tile d1) i j = ⟨0, false⟩)) ∧
    (∀ rec' row col, e.op = .vld d rec' row col mk →
      let h := shapeFields rec'
      LanesRun m c d mk (fun i j => if row + i < h.rows ∧ col + j < h.cols then
        ({ bits := vldValue h.fmt (m.get h (row + i) (col + j)).1, poison := (m.get h (row + i) (col + j)).2 }, 0)
        else (⟨0, false⟩, 0)) r) ∧
    (∀ rec' row col sat md, e.op = .vst d rec' row col mk sat md →
      let h := shapeFields rec'
      m.ok → shapeTrap h true c = none → h.ilv = 0 →
      let named := fun (i j : Nat) => row ≤ i ∧ i < row + 16 ∧ col ≤ j ∧ j < col + 64 ∧
        (c.mask mk).getLsbD (lanePlace (i - row) (j - col)) = true
      let v := fun (i j : Nat) => (vstElem h.fmt sat (rmode md) (z (i - row) (j - col)).bits).1 % 2 ^ fmtBits h.fmt
      r.ctx = c ∧ r.report = none ∧ OnlyRecords m r.mem [h] ∧
      (∀ i j, i < h.rows → j < h.cols → named i j → (r.mem.get h i j).1 = v i j ∧
        (fmtBits h.fmt ≠ 4 → (r.mem.get h i j).2 = (z (i - row) (j - col)).poison)) ∧
      (∀ i j, i < h.rows → j < h.cols → ¬ named i j → (r.mem.get h i j).1 = (m.get h i j).1)) ∧
    (∀ o, e.op = .vmsk d a o mk → LanesRun m c d mk (fun i j =>
      let w := m.pool.get (m.scr + o.toNat + lanePlace i j / 8)
      if w.val.getLsbD (lanePlace i j % 8) then ({ x i j with poison := (x i j).poison || w.poison }, 0)
      else ({ bits := 0xFF800000, poison := w.poison }, 0)) r) ∧
    (∀ key v, e.op = .vrand d key v mk → LanesRun m c d mk (fun i j =>
      ({ bits := drawOf key (BitVec.ofNat 40 v.toNat) (v.toNat / 2 ^ 40 + lanePlace i j), poison := false }, 0)) r) ∧
    (∀ pos, e.op = .vpark pos a → m.ok →
      let lo := parkAddr m c pos
      r.ctx = c ∧ r.report = none ∧ r.mem.pool = m.pool ∧ (∀ i, i < lo ∨ lo + 4096 ≤ i → r.mem.acc.get i = m.acc.get i) ∧
      ∀ (c' : Ctx) (e' : Entry), c'.csr.dslots = c.csr.dslots → e'.op = .vunpark d pos →
        TileRun r.mem c' d x (runOp k draw r.mem c' e')) ∧
    (∀ rec' lgb ibase, e.op = .vbkt rec' a lgb ibase mk → m.ok →
      let h := shapeFields rec'
      shapeTrap h true c = none → h.linear = true → h.fmt = 8 → h.rows = 1 → h.cols = 2 ^ lgb → ibase ≤ 4294966272 →
      let beats := fun (u v : BitVec 32 × Nat) => rank84 v.1 < rank84 u.1 ∨ (rank84 u.1 = rank84 v.1 ∧ u.2 < v.2)
      let entry := fun (w : EMem) (q : Nat) => (BitVec.ofNat 32 (w.get h 0 q).1, (w.get h 0 q).1 / 2 ^ 32)
      let rival := fun (q i : Nat) => i < 1024 ∧ (c.mask mk).getLsbD i = true ∧ (ibase + i) % 2 ^ lgb = q
      let cand := fun (i : Nat) => ((x (i / 64) (i % 64)).bits, ibase + i)
      r.ctx = c ∧ r.report = none ∧ OnlyRecords m r.mem [h] ∧
      ∀ q, q < 2 ^ lgb →
        (entry r.mem q = entry m q ∨ ∃ i, rival q i ∧ entry r.mem q = cand i) ∧ ¬ beats (entry m q) (entry r.mem q) ∧
        (∀ i, rival q i → ¬ beats (cand i) (entry r.mem q)) ∧
        ((r.mem.get h 0 q).2 = true ↔ (m.get h 0 q).2 = true ∨ ∃ i, rival q i ∧ (x (i / 64) (i % 64)).poison = true)) ∧
    (∀ n t nin nout b1, nin ≤ 4 → e.op = .ox n t nin nout d d1 a b a1 b1 mk →
      let pl := (c.slot n).planes[t.val]
      let ins := fun (i j : Nat) => ([x i j, y i j, laneAt (c.tile a1) i j, laneAt (c.tile b1) i j].take nin).map (fun u => (u.bits, u.poison))
      (pl.st ≠ .loaded → r.mem = m ∧ r.ctx = c ∧ r.flags = 0 ∧ r.report = none) ∧
      (pl.st = .loaded → pl.stamp = opidOf k c → nout = 1 → LanesRun m c d mk (fun i j =>
        let v := evalGraph pl.graph (ins i j)
        ({ bits := v.1.1, poison := v.1.2 }, v.2.2)) r) ∧
      (pl.st = .loaded → pl.stamp = opidOf k c → nout = 2 → d ≠ d1 →
        r.mem = m ∧ r.report = none ∧ (∀ n, n < 32 → n ≠ d → n ≠ d1 → r.ctx.tile n = c.tile n) ∧
        ∀ i j, i < 16 → j < 64 → (c.mask mk).getLsbD (lanePlace i j) = true →
          let v := evalGraph pl.graph (ins i j)
          laneAt (r.ctx.tile d) i j = { bits := v.1.1, poison := v.1.2 } ∧
          laneAt (r.ctx.tile d1) i j = { bits := v.2.1.1, poison := v.2.1.2 }) ∧
      (pl.st = .loaded → pl.stamp ≠ opidOf k c → r.mem = m ∧ r.report = some (.opidMismatch, 0) ∧
        ∀ i : Fin 1024, if (c.mask mk).getLsbD i.val then (r.ctx.tile d)[i.val].poison = true
          else (nout ≠ 2 ∨ d ≠ d1 → (r.ctx.tile d)[i.val] = (c.tile d)[i.val]))) ∧
    (∀ n t o lat nin nout, e.op = .oload n t o lat nin nout →
      (∀ g, imageAt m c o.toNat lat nin nout = some g → r.report = none ∧ r.mem = m ∧ (r.ctx.slot n).cur = t ∧ (r.ctx.slot n).bad = false ∧
        (r.ctx.slot n).planes[t.val] = { st := .loaded, graph := g, lat := lat, nin := nin, nout := nout, stamp := opidOf k c } ∧
        (r.ctx.slot n).planes[(1 - t).val] = (c.slot n).planes[(1 - t).val]) ∧
      (imageAt m c o.toNat lat nin nout = none → r.report = some (.graphInvalid, BitVec.ofNat 64 n.val) ∧ r.mem = m ∧
        (r.ctx.slot n).cur = t ∧ (r.ctx.slot n).bad = true ∧ (r.ctx.slot n).planes[t.val].st = .bad ∧
        (r.ctx.view (BitVec.ofNat 4 n.val)).loaded = false ∧ (r.ctx.view (BitVec.ofNat 4 n.val)).cur = t) ∧
      ∀ n', n' ≠ n → r.ctx.slot n' = c.slot n') ∧
    (∀ n, e.op = .ounld n → r.mem = m ∧ r.report = none ∧ (∀ t : Fin 2, (r.ctx.slot n).planes[t.val].st = .empty) ∧
      ∀ n', n' ≠ n → r.ctx.slot n' = c.slot n') ∧
    (e.op = .ostat d → TileRun m c d (fun i j => if i = 0 ∧ j < 16 then
      let sl := c.slot (Fin.ofNat 16 j)
      let p := sl.planes[sl.cur.val]
      { bits := BitVec.ofNat 32 (bitN (decide (p.st = .loaded)) * 2 ^ 31 + bitN sl.bad * 2 ^ 30 + sl.cur.val * 2 ^ 29 + p.lat * 2 ^ 16 +
          p.nin * 2 ^ 8 + p.nout), poison := false } else ⟨0, false⟩) r))

/-- R241, R244 to R255, R328: what the entries of MX write: the configuration, the active plane, the scale queue, the weight plane that
is not active, the rows of an accumulator record, and the drained record with its scales, through the graph of the plane captured where
the drain has an epilogue; a plane that is not loaded writes nothing. Elements of a record that an entry does not name, and every byte
outside the records it writes, stay as they were. -/
def Obligations.MatrixResults : Prop :=
  ∀ (k : CtxId) (draw : Nat) (m : EMem) (c : Ctx) (e : Entry), m.ok →
    let r := runOp k draw m c e
    (∀ v, e.op = .mcfg v → r.mem = m ∧ r.ctx = { c with mxcfg := v } ∧ r.flags = 0 ∧ r.report = none) ∧
    (e.op = .mwswap → r.mem = m ∧ r.ctx = { c with activePlane := 1 - c.activePlane } ∧ r.flags = 0 ∧ r.report = none) ∧
    (∀ o n, e.op = .mscl o n → r.mem = m ∧ r.report = none ∧ r.ctx = { c with scaleq := r.ctx.scaleq } ∧
      r.ctx.scaleq.length = c.scaleq.length + n ∧ r.ctx.scaleq.take c.scaleq.length = c.scaleq ∧
      ∀ i j, i < n → j < 64 → ((r.ctx.scaleq.getD (c.scaleq.length + i) []).getD j ⟨0, false⟩) = m.pool.get (m.scr + o.toNat + 64 * i + j)) ∧
    (∀ a tr tc, e.op = .mwld a tr tc →
      let h := shapeFields a
      let p := r.ctx.planes[(1 - c.activePlane).val]
      let bits := fmtBits h.fmt
      let byte := fun (i j b : Nat) => m.pool.get (m.scr + h.base + (64 * tr + i) * h.stride + 8 * bits * tc + 8 * b + j / 8)
      let mx := decide (9 ≤ h.fmt ∧ h.fmt ≤ 12)
      r.mem = m ∧ r.report = none ∧ r.ctx = { c with planes := r.ctx.planes, scaleq := c.scaleq.drop (if mx then 2 else 0) } ∧
      r.ctx.planes[c.activePlane.val] = c.planes[c.activePlane.val] ∧ p.loaded = true ∧ p.fmt = h.fmt ∧
      (∀ i j, i < 64 → j < 64 → bits ≤ 16 →
        (∀ b, b < bits → (p.elem i j).1.getLsbD b = (byte i j b).val.getLsbD (j % 8)) ∧
        ((p.elem i j).2 = true ↔ ∃ b, b < bits ∧ (byte i j b).poison = true)) ∧
      (∀ u v l, mx = true → c.scaleq = u :: v :: l → u.length = 64 → v.length = 64 → ∀ j, j < 64 →
        p.scale 0 j = u.getD j ⟨0, false⟩ ∧ p.scale 1 j = v.getD j ⟨0, false⟩)) ∧
    (∀ a, e.op = .mzero a → let h := shapeFields a
      h.space = 1 → shapeTrap h true c = none → RecordRun m c h (fun _ _ => (0, false)) r) ∧
    (∀ mode a b n, e.op = .mma mode a b n →
      let ha := shapeFields a
      let hb := shapeFields b
      let w := c.planes[c.activePlane.val]
      let mx := decide (9 ≤ hb.fmt ∧ hb.fmt ≤ 12)
      let take := if mx then (n + 31) / 32 else 0
      let scale := fun (i g : Nat) => (c.scaleq.take take).flatten.getD (2 * i + g) ⟨0, false⟩
      let act := fun (i k : Nat) => let v := elemNum hb.fmt (m.get hb i k).1
        if mx then applyScale v (scale i (k / 32)).val.toNat else v
      let bad := fun (i j : Nat) => (List.range hb.cols).any (fun k => (m.get hb i k).2) ||
        (mx && (List.range ((hb.cols + 31) / 32)).any (fun g => (scale i g).poison)) || colPoison w (mode.getLsbD 1) hb.cols j ||
        (m.get ha i j).2
      ha.space = 1 → shapeTrap ha true c = none → hb.space = 0 → n ≤ ha.rows →
      r.report = none ∧ OnlyRecords m r.mem [ha] ∧ r.ctx = { c with scaleq := c.scaleq.drop take } ∧
      (∀ i j, i < n → j < ha.cols → r.mem.get ha i j =
        ((mmaElem w (mode.getLsbD 0) (mode.getLsbD 1) ((List.range hb.cols).map (act i)) j (m.get ha i j).1).1 % 2 ^ fmtBits ha.fmt, bad i j)) ∧
      (∀ i j, n ≤ i → i < ha.rows → j < ha.cols → r.mem.get ha i j = m.get ha i j) ∧
      (w.fmt = 6 → hb.fmt = 6 → ha.fmt = 7 → mode = 0 → ∀ i j, i < n → j < ha.cols → hb.cols ≤ 64 →
        (r.mem.get ha i j).1 = (BitVec.ofInt 32 ((m.get ha i j).1 + ((List.range hb.cols).map (fun k =>
          lowInt 8 (BitVec.ofNat 64 (m.get hb i k).1) * lowInt 8 ((w.elem k j).1.setWidth 64))).sum)).toNat)) ∧
    (∀ mode sat a b, e.op = .mdrain mode sat none a b →
      let ha := shapeFields a
      let hb := shapeFields b
      let exp := lowInt 8 (BitVec.ofNat 64 (c.mxcfg.toNat / 2 ^ 8))
      let v := fun (i j : Nat) => (drainValue (rmode mode) hb.fmt (m.get hb i j).1 exp).1
      hb.space = 1 → linearRec ha → shapeTrap ha true c = none → ha.rows = hb.rows → ha.cols = hb.cols →
      (ha.fmt ≠ 12 → ha.fmt ≠ 13 → fmtBits ha.fmt ≠ 4 →
        RecordRun m c ha (fun i j => ((convertTo ha.fmt (rmode mode) sat (v i j)).1, (m.get hb i j).2)) r) ∧
      (ha.fmt = 13 → RecordRun m c ha (fun i j =>
        ((toFrame 2 (pairHi (m.get hb i j).1) (pairLo (m.get hb i j).1)).1, (m.get hb i j).2)) r) ∧
      (∀ sc, ha.fmt = 12 → ha.cols % 32 = 0 → sc = c.mxcfg.toNat / 2 ^ 32 % 2 ^ 22 →
        (∀ x, ha.covers x → x < sc ∨ sc + ha.rows * (ha.cols / 32) ≤ x) →
        ∀ i q, i < ha.rows → q < ha.cols / 32 →
        let blk := quantise 12 ((List.range 32).map (fun j => decodeFp fp32 (roundFp fp32 (rmode mode) false (v i (32 * q + j))).1))
        let bad := (List.range 32).any (fun j => (m.get hb i (32 * q + j)).2)
        r.mem.pool.get (m.scr + sc + i * (ha.cols / 32) + q) = ⟨BitVec.ofNat 8 blk.1, bad⟩ ∧
          ∀ j, j < 32 → r.mem.get ha i (32 * q + j) = (blk.2.1.getD j 0 % 2 ^ 8, bad))) ∧
    (∀ mode sat n t a b, e.op = .mdrain mode sat (some (n, t)) a b →
      let ha := shapeFields a
      let hb := shapeFields b
      let exp := lowInt 8 (BitVec.ofNat 64 (c.mxcfg.toNat / 2 ^ 8))
      let pl := (c.slot n).planes[t.val]
      let g := fun (i j : Nat) => (evalGraph pl.graph [(BitVec.ofNat 32
        (roundFp fp32 (rmode mode) false (drainValue (rmode mode) hb.fmt (m.get hb i j).1 exp).1).1, (m.get hb i j).2)]).1
      (pl.st ≠ .loaded → r.mem = m ∧ r.ctx = c ∧ r.flags = 0 ∧ r.report = none) ∧
      (pl.st = .loaded → pl.stamp ≠ opidOf k c → r.report = some (.opidMismatch, 0)) ∧
      (pl.st = .loaded → pl.stamp = opidOf k c → hb.space = 1 → linearRec ha → shapeTrap ha true c = none →
        ha.rows = hb.rows → ha.cols = hb.cols → ha.fmt ≠ 12 → ha.fmt ≠ 13 → fmtBits ha.fmt ≠ 4 →
        RecordRun m c ha (fun i j => ((convertTo ha.fmt (rmode mode) sat (num32 (g i j).1)).1, (g i j).2)) r))

/-- R260 to R266: what the entries of SQ write: the configuration, the cumulated log decays, the states and the outputs of a chunk or of
a step, the versions of a version store and its valid word, and a pair record. Every byte outside the records an entry writes stays as it
was. A roll or a fork of a version that is not valid writes nothing and reports VERSION_INVALID. -/
def Obligations.ScanResults : Prop :=
  ∀ (k : CtxId) (draw : Nat) (m : EMem) (c : Ctx) (e : Entry), m.ok →
    let r := runOp k draw m c e
    (∀ v, e.op = .scfg v → r.mem = m ∧ r.ctx = { c with sqcfg := v } ∧ r.flags = 0 ∧ r.report = none) ∧
    (∀ a b al, e.op = .sdecay a b al →
      let ha := shapeFields a
      let hb := shapeFields b
      linearRec ha → ha.fmt = 14 → ha.cols = 1 → hb.rows = ha.rows → shapeTrap ha true c = none → shapeTrap hb false c = none → Apart ha hb →
      ∃ cum : Nat → BitVec 32, cum 0 = (mul32 (BitVec.ofNat 32 (m.get hb 0 0).1) al).1 ∧
        (∀ t, cum (t + 1) = (add32 (cum t) (mul32 (BitVec.ofNat 32 (m.get hb (t + 1) 0).1) al).1).1) ∧
        RecordRun m c ha (fun t _ => ((cum t).toNat, (List.range (t + 1)).any (fun u => (m.get hb u 0).2))) r) ∧
    (∀ a b o, e.op = .sout a b o →
      let ha := shapeFields a
      let hb := shapeFields b
      let ho := shapeFields o
      ho.rows = hb.rows → ho.cols = 64 → ho.fmt = 0 → ho.ilv = 0 → shapeTrap ho true c = none →
      RecordRun m c ho (fun t p => (outElem (m.row ha p ha.cols) (m.row hb t hb.cols)).1) r) ∧
    (∀ a b o, e.op = .sstep a b o →
      let ha := shapeFields a
      let hb := shapeFields b
      let ho := shapeFields o
      stateRec ha ha.cols → outputRec ho hb.rows → hb.cols = 65 + 2 * ha.cols → shapeTrap ha true c = none → shapeTrap ho true c = none →
      shapeTrap hb false c = none → Apart ho ha → Apart ho hb →
      ∃ st : Nat → Nat → Nat → Nat × Bool, (∀ p n, st 0 p n = m.get ha p n) ∧
        (∀ t p n, st (t + 1) p n = (stepElem (fade (BitVec.ofNat 32 (m.get hb t 0).1)).1 (m.get hb t (1 + p)) (m.get hb t (65 + n))
          (m.get hb t 0).2 (st t p n)).1) ∧
        r.ctx = c ∧ r.report = none ∧ OnlyRecords m r.mem [ha, ho] ∧
        (∀ p n, p < 64 → n < ha.cols → r.mem.get ha p n = st hb.rows p n) ∧
        ∀ t p, t < hb.rows → p < 64 → r.mem.get ho t p =
          (outElem ((List.range ha.cols).map (st (t + 1) p)) ((List.range ha.cols).map (fun n => m.get hb t (65 + ha.cols + n)))).1) ∧
    (∀ a b o, e.op = .schunk a b o →
      let ha := shapeFields a
      let hb := shapeFields b
      let ho := shapeFields o
      let rows := (List.range hb.rows).map (fun t => scanRow ha.cols (m.row hb t hb.cols))
      let st := (List.range 64).map (fun p => m.row ha p ha.cols)
      stateRec ha ha.cols → outputRec ho hb.rows → hb.cols = 65 + 2 * ha.cols → shapeTrap ha true c = none → shapeTrap ho true c = none →
      Apart ho ha → 0 < hb.rows →
      r.ctx = c ∧ r.report = none ∧ OnlyRecords m r.mem [ha, ho] ∧
      (∀ t p rt, t < hb.rows → p < 64 → rows[t]? = some rt →
        (chunkRow st (rows.take (t + 1)) rt)[p]?.map (·.1) = some (r.mem.get ho t p)) ∧
      (∀ p n rl, p < 64 → n < ha.cols → rows.getLast? = some rl → r.mem.get ha p n =
        (chunkElem (fade rl.cumBits) (((List.range hb.rows).zip rows).map (fun y =>
          (y.2, pairFactor rl.cumBits y.2.cumBits (y.1 == hb.rows - 1)))) p n (m.get ha p n)).1)) ∧
    (∀ a b j v, e.op = .ssnap a b j →
      let ha := shapeFields a
      let hb := shapeFields b
      storeRec ha v → j < v → stateRec hb ha.cols → shapeTrap ha true c = none → shapeTrap hb false c = none → Apart hb ha →
      let valid := (m.pool.get (m.scr + ha.base)).val
      r.ctx = c ∧ r.report = none ∧ OnlyRecords m r.mem [ha] ∧
      (∀ p n, p < 64 → n < ha.cols → r.mem.get ha (1 + 64 * j + p) n = m.get hb p n) ∧
      (∀ i, i < 8 → (r.mem.pool.get (m.scr + ha.base)).val.getLsbD i = (valid.getLsbD i || decide (i = j))) ∧
      (∀ i, 1 ≤ i → i < 8 → r.mem.pool.get (m.scr + ha.base + i) = ⟨0, false⟩)) ∧
    (∀ a b j v, e.op = .sfork a b j ∨ e.op = .sroll a b j →
      let ha := shapeFields a
      let hb := shapeFields b
      storeRec ha v → j < v → stateRec hb ha.cols → shapeTrap hb true c = none → shapeTrap ha false c = none → Apart hb ha →
      let valid := (m.pool.get (m.scr + ha.base)).val
      let fits := valid.getLsbD j = true ∧ ∀ i, 1 ≤ i → i < 8 → (m.pool.get (m.scr + ha.base + i)).val = 0
      (¬ fits → r.mem = m ∧ r.ctx = c ∧ r.report = some (.versionInvalid, 0)) ∧
      (fits → r.ctx = c ∧ r.report = none ∧ (∀ p n, p < 64 → n < ha.cols → r.mem.get hb p n = m.get ha (1 + 64 * j + p) n) ∧
        (e.op = .sfork a b j → OnlyRecords m r.mem [hb]) ∧
        (e.op = .sroll a b j → OnlyRecords m r.mem [ha, hb] ∧
          (∀ i, i < 8 → (r.mem.pool.get (m.scr + ha.base)).val.getLsbD i = (valid.getLsbD i && decide (i ≤ j))) ∧
          ∀ i, 1 ≤ i → i < 8 → r.mem.pool.get (m.scr + ha.base + i) = ⟨0, false⟩))) ∧
    (∀ a, e.op = .scommit a → let h := shapeFields a
      r.ctx = c ∧ r.report = none ∧ r.mem.acc = m.acc ∧
      (∀ i, i < 8 → r.mem.pool.get (m.scr + h.base + i) = ⟨0, false⟩) ∧
      ∀ x, x < m.scr + h.base ∨ m.scr + h.base + 8 ≤ x → r.mem.pool.get x = m.pool.get x) ∧
    (∀ f a b, e.op = .spair f a b →
      let ha := shapeFields a
      let hb := shapeFields b
      let code := match f with | .bf16 => 0 | .fp32 => 1 | .pair => 2
      ha.rows = hb.rows → ha.cols = hb.cols → ha.ilv = 0 → ha.fmt = (match f with | .bf16 => 1 | .fp32 => 0 | .pair => 13) →
      shapeTrap ha true c = none → shapeTrap hb false c = none → (Apart ha hb ∨ ha = hb) →
      RecordRun m c ha (fun i j =>
        let y := m.get hb i j
        let v := if hb.fmt = 13 then (pairHi y.1, pairLo y.1) else if hb.fmt = 1 then (widen32 1 y.1, 0) else (BitVec.ofNat 32 y.1, 0)
        ((toFrame code v.1 v.2).1, y.2)) r)

/-! ## Firmware's registers -/

/-- R5, R109, R366, R402, R414, R418, R428, R429, R441, R446, R449, R457, R459: what a write of firmware's registers that is taken leaves,
and that one which breaks the register's rule changes nothing; a write of PTROOT performs the accesses already translated first and waits
for those in flight. A read answers the register's value, the latched one of a snapshot, and 0 for what is only written; ACCSPLIT is refused while a context
whose range moves is busy. That codes 5 to 7 and totals above 32 are
refused is log 73, that a DSCARVE write of the same size leaves the store zero log 74, the layout of MSI-X 100, and that a read is a turn
101: the model's choices. -/
def Obligations.FirmwareRegisterWrites : Prop :=
  ∀ s : State,
    let v := s.arg.word
    let n := v.toNat
    let p := s.arg.part
    let c := s.arg.core
    (anyTaskHeld s = false →
      exec .evDscarveWrite s = .next (s.modDie s.arg.die (fun x => { x with dscarve := BitVec.ofNat 7 (min 64 (n % 2 ^ 7)), dsh := ⟨[], []⟩ }))) ∧
    (anyTaskHeld s = true → (s.die s.arg.die).dscarve.toNat ≠ min 64 (n % 2 ^ 7) → exec .evDscarveWrite s = .next s) ∧
    (splitOk (BitVec.ofNat 12 n) = true → (∀ k, coreOf k = c → (s.ctx k).run = .idle) →
      exec .evAccsplitWrite s = .next (s.setCore c { s.core c with accsplit := BitVec.ofNat 12 n })) ∧
    (splitOk (BitVec.ofNat 12 n) = false → exec .evAccsplitWrite s = .next s) ∧
    (let moves := fun (k : CtxId) => splitBase (BitVec.ofNat 12 n) (numOf k) ≠ splitBase (s.core c).accsplit (numOf k) ∨
       splitSlots (BitVec.ofNat 12 n) (numOf k) ≠ splitSlots (s.core c).accsplit (numOf k)
     ((∃ k, coreOf k = c ∧ moves k ∧ (s.ctx k).run ≠ .idle ∧ (s.ctx k).spilled = false) → exec .evAccsplitWrite s = .next s) ∧
     (splitOk (BitVec.ofNat 12 n) = true → (∀ k, coreOf k = c → moves k → (s.ctx k).run = .idle ∨ (s.ctx k).spilled = true) →
       exec .evAccsplitWrite s = .next (s.setCore c { s.core c with accsplit := BitVec.ofNat 12 n }))) ∧
    (exec .evLendWrite s = .next (if lendOk s v s.rsplit s.rctx then { s with lend := v } else s)) ∧
    (let r : BitVec 12 := BitVec.ofNat 12 (n / 2 ^ 12)
     let x : Fin 4 := ⟨n % 4, by omega⟩
     exec .evRcfgWrite s = .next (if splitOk r = true ∧ lendOk s s.lend r x = true then { s with rsplit := r, rctx := x } else s)) ∧
    ((∃ k, (s.ctx k).abroad = true) → exec .evPtrootWrite s = .next s) ∧
    ((∀ k, (s.ctx k).abroad = false) → ∃ t, exec .evPtrootWrite s = .next t ∧
      (∀ sp, t.memOf sp = (flushAll s (ctxsOf [0, 1])).memOf sp) ∧ (∀ k, (t.ctx k).sbuf = []) ∧
      t.part p = { s.part p with root := BitVec.ofNat 36 (n / 2 ^ 12), ten := decide (n % 2 = 1) } ∧ (∀ q, q ≠ p → t.part q = s.part q) ∧
      (∀ x, (t.core x).tlb = (s.core x).tlb.filter (fun e => !(e.part == p))) ∧
      (∀ d, (t.die d).l2tlb = (s.die d).l2tlb.filter (fun e => !(e.part == p)) ∧
        (t.die d).walkCache = (s.die d).walkCache.filter (fun e => !(e.part == p)))) ∧
    ((∀ x : CoreId, (s.part p).cores.getLsbD x.val = true → v.getLsbD x.val = false → partOn s p x = false) →
      exec .evPcoresWrite s = .next (s.setPart p { s.part p with cores := v })) ∧
    ((∃ x : CoreId, (s.part p).cores.getLsbD x.val = true ∧ v.getLsbD x.val = false ∧ partOn s p x = true) →
      exec .evPcoresWrite s = .next s) ∧
    (exec .evPrightsWrite s = .next (if n % 2 = 0 ∧ queueOf s p = true then s else s.setPart p { s.part p with
      blumus := decide (n / 16 % 2 = 1), hostw := decide (n / 8 % 2 = 1), fh := decide (n / 4 % 2 = 1), en := decide (n % 2 = 1) })) ∧
    (s.arg.reg = .preempt → exec .evRegisterWrite s =
      .next { s with killgap := BitVec.ofNat 8 (n / 2 ^ 32), drainmax := BitVec.ofNat 32 n }) ∧
    (∀ i, s.arg.reg = .coalw i → barsRespond s = true → exec .evRegisterWrite s = .next
      { s with msi := s.msi.set i.val { s.msiOf i with win := BitVec.ofNat 10 (max 1 (min 1000 (n % 2 ^ 10))) } }) ∧
    (∀ i, s.arg.reg = .bwin i → exec .evRegisterWrite s = .next (s.setBport i
      { s.bport i with bwinBase := BitVec.ofNat 21 n, bwinSize := BitVec.ofNat 24 (n / 2 ^ 32) })) ∧
    (s.arg.reg = .snapat → exec .evRegisterWrite s = .next { s with snapat := v }) ∧
    (s.arg.reg = .snapRearm → exec .evRegisterWrite s = .next { s with snapArmed := true }) ∧
    (∀ i, s.arg.reg = .fhPort i →
      let up := if v = 25 ∨ v = 50 ∨ v = 100 then v.toNat else 0
      exec .evRegisterWrite s = .next { s with fhSpeed := s.fhSpeed.set i.val up }) ∧
    (∀ i, s.arg.reg = .msixAddr i → barsRespond s = true → exec .evRegisterWrite s = .next (setMsix s i { s.msixOf i with addr := v })) ∧
    (∀ i, s.arg.reg = .msixData i → barsRespond s = true →
      exec .evRegisterWrite s = .next (setMsix s i { s.msixOf i with data := BitVec.ofNat 32 n })) ∧
    (∀ i, s.arg.reg = .msixMask i → barsRespond s = true → n % 2 = 1 ∨ s.msixPending.getLsbD i.val = false →
      exec .evRegisterWrite s = .next (setMsix s i { s.msixOf i with mask := v.getLsbD 0 })) ∧
    (∀ (rest : List Turn) (x : HwReg), s.agenda = .regRead x :: rest → s.late = false → ∃ t, step s = .next t ∧
      t.replies = s.replies ++ [.reg (regValue s x)] ∧ t.ctxs = s.ctxs ∧ t.cores = s.cores ∧ t.dies = s.dies ∧ t.dmem = s.dmem) ∧
    (regValue s (.fw .preempt)).toNat = s.killgap.toNat * 2 ^ 32 + s.drainmax.toNat ∧ (regValue s .tsctl).toNat = s.adj.toNat ∧
    (∀ q r off size, regValue s (.doorbell q r off size) =
      if barsRespond s = true ∧ off = 8 ∧ size = 4 then ((s.hq q).cons r).setWidth 64 else 0) ∧
    (regValue s (.snapshot .ts) = s.snapshot.ts ∧
     (∀ k, regValue s (.snapshot (.issues k)) = BitVec.ofNat 64 (s.snapshot.issues.getD k.val 0)) ∧
     (∀ k q, regValue s (.snapshot (.occupancy k q)) = BitVec.ofNat 64 ((s.snapshot.occupancy.getD k.val []).getD q.idx.val 0)) ∧
     (∀ k f, regValue s (.snapshot (.tokens k f)) = BitVec.ofNat 64 ((s.snapshot.tokens.getD k.val []).getD f.val 0)) ∧
     (∀ d, regValue s (.snapshot (.firkin d)) = BitVec.ofNat 64 (s.snapshot.firkin.getD d.val 0)) ∧
     (∀ x, regValue s (.snapshot (.frames x)) = BitVec.ofNat 64 (s.snapshot.frames.getD x.val 0) ∧
       regValue s (.snapshot (.unsteered x)) = BitVec.ofNat 64 (s.snapshot.unsteered.getD x.val 0) ∧
       regValue s (.snapshot (.drops x)) = BitVec.ofNat 64 (s.snapshot.drops.getD x.val 0)))

/-- R410 to R413: PERIOD with its limits, the budgets with their clamps, and what a period's start refills. R43, R454 to R457: the
timestamp's step and rate, the PPS latch, and the snapshot triggers: within 100 ns of the previous one they are merged into it. When a
period begins, and what a step brings about within itself, is log entry 10: the model's choice. -/
def Obligations.BudgetAndTimeEvents : Prop :=
  (∀ s : State,
     let n := s.arg.word.toNat
     (∃ t, exec .evPeriodWrite s = .next t ∧ t.phase = BitVec.ofNat 32 (n / 2 ^ 32) ∧
       t.len.toNat = max 125000 (min 10000000 (n % 2 ^ 32)) ∧ t = { s with phase := t.phase, len := t.len, period := t.period }) ∧
     (∀ k, s.arg.budget = .cbud k → (∀ x, s.taskOf k = some x → x.2.dlc = false) →
       ∃ t, exec .evBudgetWrite s = .next t ∧ (t.ctx k).cbud = BitVec.ofNat 32 n ∧ ∀ j, j ≠ k → t.ctx j = s.ctx j) ∧
     (∀ k x, s.arg.budget = .cbud k → s.taskOf k = some x → x.2.dlc = true → s.limits.issfloor < 2 ^ 32 →
       ∃ t, exec .evBudgetWrite s = .next t ∧ (t.ctx k).cbud.toNat = max (n % 2 ^ 32) s.limits.issfloor) ∧
     (∀ q, s.arg.budget = .link q → ∃ t, exec .evBudgetWrite s = .next t ∧ (t.part q).link = BitVec.ofNat 32 n ∧
       t = { s with parts := t.parts } ∧ ∀ j, j ≠ q → t.part j = s.part j) ∧
     (∀ q, s.arg.budget = .fh q → ∃ t, exec .evBudgetWrite s = .next t ∧ (t.part q).fhb = BitVec.ofNat 32 n ∧
       t = { s with parts := t.parts } ∧ ∀ j, j ≠ q → t.part j = s.part j) ∧
     (∀ q, s.arg.budget = .dmem q → ∃ t, exec .evBudgetWrite s = .next t ∧
       (let cap := s.len.toNat / 8
        let others := (((List.finRange 16).filter (fun j => decide (j ≠ 0 ∧ j ≠ q))).map (fun j => (s.part j).dmem.toNat)).sum
        (t.part q).dmem = if q = 0 then BitVec.ofNat 32 n
          else BitVec.ofNat 32 (min (min (n % 2 ^ 32) (s.limits.tenmax * cap / 256)) ((256 - s.limits.radiomin) * cap / 256 - others))) ∧
       t = { s with parts := t.parts } ∧ ∀ j, j ≠ q → t.part j = s.part j) ∧
     (periodAt s = s.period → exec .evBudgetPeriodStart s = .next s) ∧
     (periodAt s ≠ s.period → ∃ t, exec .evBudgetPeriodStart s = .next t ∧ t.period = periodAt s ∧
       (∀ k, (t.ctx k).issueLeft = (s.ctx k).cbud ∧ (t.ctx k).cbud = (s.ctx k).cbud ∧ (t.ctx k).csr = (s.ctx k).csr) ∧
       (∀ q, (t.part q).dmemLeft = 4096 * (s.part q).dmem.toNat ∧ (t.part q).linkLeft = 4096 * (s.part q).link.toNat ∧
         (t.part q).fhLeft = 4096 * (s.part q).fhb.toNat))) ∧
  (∀ s : State,
     (s.arg.word.toNat < 2 ^ 63 → ∃ t, exec .evTsctlStep s = .next t ∧ t.tsc = s.tsc + BitVec.ofNat 64 (s.arg.word.toNat / 2 ^ 32)) ∧
     (2 ^ 63 ≤ s.arg.word.toNat → exec .evTsctlStep s = .next s) ∧
     (exec .evTsctlAdj s = .next { s with adj := BitVec.ofInt 32 (max (-549755813) (min 549755813 (lowInt 32 s.arg.word))) }) ∧
     (exec .evPpsEdge s = .next { s with tspps := s.tsc }) ∧
     ((∀ x, s.snapLast = some x → 100 < (s.tsc - x).toNat) → s.snapArmed = true →
       exec .evSnapshotPinEdge s = .next { s with snapLast := some s.tsc, snapshot := latchNow s, snapArmed := false }) ∧
     (∀ x, s.snapLast = some x → (s.tsc - x).toNat ≤ 100 → exec .evSnapshotPinEdge s = .next s) ∧
     (s.snapat = 0 ∨ s.tsc ≠ s.snapat → exec .evSnapatMatch s = .next s) ∧
     (s.snapat ≠ 0 → s.tsc = s.snapat → exec .evSnapatMatch s = exec .evSnapshotPinEdge s) ∧
     ((s.ctx s.arg.ctx).run ≠ .idle → exec .evFirmwareNotification s =
       .next (s.modCtx s.arg.ctx (fun c => { c with csr := { c.csr with note := true } }))))

/-! ## Links, the host and memory errors -/

/-- R445 to R447: flits are accepted in sequence, one ahead asks for a replay, one behind is discarded; an accepted one outside BWIN is
answered with an error; a dead link accepts none, and a retrained one begins at 0 with nothing to replay. A link dies by 16 failed replays
of one flit, by 10 µs without an acknowledgement, or with its peer: a copy with flits not acknowledged takes LINK. R449 to R451, R454: a
steering entry that is allowed, with at most 512 bindings, is installed with the counters kept, any other changes nothing; a frame with a bad FCS or on a port that is
down is dropped, one that is not IQ data goes to the host with its timestamp; an event message sent on a port that is up is stamped.
R449 to R453: the section of a type 0 frame, or the frame's payload, is delivered by the lowest entry that takes it: into the next slot of
its ring, behind a header, and published in the order of the claims; to a full ring or too small a slot it is dropped and counted, and with
its budget spent or its ring refused the frame goes to the host. How
far ahead a number may run is log entry 25, that bytes arrive as their granule moves 26, that a port's state is a register of firmware
103, and that a write-back fails by a dead link 121: the model's choices. -/
def Obligations.LinkAndFronthaulEvents : Prop :=
  (∀ s : State,
     let p := s.arg.port
     let x := s.bport p
     let f := s.arg.flit
     (x.up = false → exec .evBlumusFlitRx s = .next s) ∧
     (x.up = true → 0 < (f.seq - x.rxSeq).toNat → (f.seq - x.rxSeq).toNat < 2048 →
       exec .evBlumusFlitRx s = .next (s.setBport p { x with replayFrom := some x.rxSeq })) ∧
     (x.up = true → 2048 ≤ (f.seq - x.rxSeq).toNat → exec .evBlumusFlitRx s = .next s) ∧
     (x.up = true → f.seq = x.rxSeq → ∃ t, exec .evBlumusFlitRx s = .next t ∧ (t.bport p).rxSeq = x.rxSeq + 1 ∧
       (x.accepts f.addr (f.bytes.take 64).length = false →
         t.dmem = s.dmem ∧ t.flitErrors = (p, f.seq) :: s.flitErrors) ∧
       (x.accepts f.addr (f.bytes.take 64).length = true → f.cred = none → s.memWf = true →
         (∀ i, i < (f.bytes.take 64).length → ((t.dmem).get (f.addr + i)).val = f.bytes.getD i 0) ∧
         (∀ a, a < f.addr ∨ f.addr + (f.bytes.take 64).length ≤ a → t.dmem.get a = s.dmem.get a))) ∧
     let dies := s.arg.flag = true ∨ 16 ≤ x.replays ∨ (x.unacked ≠ [] ∧ x.since.toNat + 10000 ≤ s.tsc.toNat)
     (x.up = false ∨ ¬ dies → exec .evLinkDead s = .next s) ∧
     (x.up = true → dies → (∀ k q, (s.ctx k).running q = none) → ∃ t, exec .evLinkDead s = .next t ∧
       t.bport p = { x with up := false, unacked := [], replays := 0 } ∧ (∀ i, i ≠ p → t.bport i = s.bport i) ∧
       ∀ (k : CtxId) (q : EngineQ) (i : Nat) (e : Entry), ((s.ctx k).queue q).entries[i]? = some e →
         ∃ e' : Entry, ((t.ctx k).queue q).entries[i]? = some e' ∧
         (e'.fail = e.fail ∨ e'.fail = e.fail ||| failLINK) ∧
         ((∃ y ∈ x.unacked, y.owner = .copy k q e.seq) → e.done = false → e'.fail = e.fail ||| failLINK) ∧
         ((∀ y ∈ x.unacked, y.owner ≠ .copy k q e.seq) → e' = e)) ∧
     (∀ (d : DieId) (n : Nat) (m : Move) (u : Unacked), x.up = true → dies → (∀ k q, (s.ctx k).running q = none) → x.unacked = [u] →
       u.owner = m.flits d → (s.die d).moves[n]? = some m → m.load = false →
       (∀ j m', j < n → (s.die d).moves[j]? = some m' → m'.load = true ∨ m'.flits d ≠ m.flits d) →
       exec .evLinkDead s = .next (endWb (moveFailed (s.setBport p { x with up := false, unacked := [], replays := 0 }) m 0x25) d n m)) ∧
     (x.up = false → exec .evLinkRetrain s =
       .next (s.setBport p { x with up := true, txSeq := 0, rxSeq := 0, replayFrom := none, unacked := [], replays := 0 })) ∧
     (x.up = true → exec .evLinkRetrain s = .next s)) ∧
  (∀ s : State,
     let i := s.arg.steer
     let e := s.arg.entry
     let p := s.part (Fin.ofNat 16 e.part.toNat)
     let f := s.arg.frame
     (e.valid = false → ∃ t, exec .evSteeringEntryWrite s = .next t ∧ steerAt t i =
       { e with deliv := (steerAt s i).deliv, drops := (steerAt s i).drops, lastSeq := (steerAt s i).lastSeq }) ∧
     (e.valid = true → e.part.toNat < 16 → e.core.toNat < 64 → e.ctx.toNat < 4 → p.fh = true → p.en = true →
       p.cores.getLsbD e.core.toNat = true → (bindings (steerPut i e s.steering)).length ≤ 512 →
       ∃ t, exec .evSteeringEntryWrite s = .next t ∧ t = { s with steering := t.steering } ∧ steerAt t i =
         { e with deliv := (steerAt s i).deliv, drops := (steerAt s i).drops, lastSeq := (steerAt s i).lastSeq }) ∧
     (e.valid = true → 16 ≤ e.part.toNat ∨ 64 ≤ e.core.toNat ∨ 4 ≤ e.ctx.toNat ∨ p.fh = false ∨ p.en = false ∨
       p.cores.getLsbD e.core.toNat = false ∨ 512 < (bindings (steerPut i e s.steering)).length →
       exec .evSteeringEntryWrite s = .next s) ∧
     (f.fcsOk = false ∨ s.fhSpeed[f.port.val] = 0 → exec .evFronthaulFrameRx s = .next s) ∧
     (f.fcsOk = true → s.fhSpeed[f.port.val] ≠ 0 → f.ecpri = false ∨ f.msgType ≠ 0 →
       ∃ t, exec .evFronthaulFrameRx s = .next t ∧ t.fhFrames = s.fhFrames.set f.port.val (s.fhFrames[f.port.val] + 1) ∧
         t.toHost = (s.tsc, f) :: s.toHost ∧ t = { s with fhFrames := t.fhFrames, toHost := t.toHost, marks := t.marks, late := t.late } ∧
         ((∀ m ∈ s.marks, m.obj = .steering → m.at_ = s.tsc → m.src ≤ f.port.val) → t.late = s.late) ∧
         ((∃ m ∈ s.marks, m.obj = .steering ∧ m.at_ = s.tsc ∧ f.port.val < m.src) → t.late = true)) ∧
     (s.fhSpeed[s.arg.port.val] ≠ 0 → exec .evEventMessageTx s = .next { s with txStamps := (s.arg.port, s.tsc) :: s.txStamps }) ∧
     (s.fhSpeed[s.arg.port.val] = 0 → exec .evEventMessageTx s = .next s)) ∧
  (∀ (s : State) (i : Fin 4096) (e : SteerEntry) (x : Section) (l₁ l₂ : List (Fin 4096 × SteerEntry)),
     let f := s.arg.frame
     let part := Fin.ofNat 16 e.part.toNat
     let core : CoreId := Fin.ofNat 64 e.core.toNat
     let k := ctxAt core (Fin.ofNat 4 e.ctx.toNat)
     let c := s.ctx k
     let o := e.ring.toNat
     let r := ringOf (s.read (.pool core) o 32)
     let secid := if e.raw then 0 else x.sectionId.toNat
     let pay := if e.raw then f.payload else x.bytes
     let s1 := { s with fhFrames := s.fhFrames.set f.port.val (s.fhFrames[f.port.val] + 1) }.contend .steering f.port.val
     let refused := c.run = .idle ∨ c.csr.partn.val ≠ e.part.toNat ∨ o % 32 ≠ 0 ∨ o < c.scrStart ∨ c.privStart < o + 32 ∨ r.valid c = false
     let full := r.slotsz < 32 + pay.length ∨ 2 ^ r.lgn ≤ (r.resv - r.freed).toNat
     f.fcsOk = true → s.fhSpeed[f.port.val] ≠ 0 → f.ecpri = true → f.msgType = 0 → f.sections = [x] →
     s.steering = l₁ ++ (i, e) :: l₂ → (∀ y ∈ l₁, y.1 < i ∧ ¬ y.2.takes f x) → (∀ y ∈ l₂, i < y.1) → e.takes f x →
     (spent (s.part part).fhb (s.part part).fhLeft = true ∨ refused →
       exec .evFronthaulFrameRx s = .next { s1 with toHost := (s.tsc, f) :: s.toHost }) ∧
     (spent (s.part part).fhb (s.part part).fhLeft = false → ¬ refused → full → ∃ t, exec .evFronthaulFrameRx s = .next t ∧
       t = { s1 with steering := t.steering, fhDrops := s.fhDrops.set f.port.val (s.fhDrops[f.port.val] + 1) } ∧
       steerAt t i = { e with drops := e.drops + 1 } ∧ ∀ j, j ≠ i → steerAt t j = steerAt s j) ∧
     (spent (s.part part).fhb (s.part part).fhLeft = false → ¬ refused → ¬ full → s.memWf = true →
       let pool := Space.pool core
       let slot := r.base + r.resv.toNat % 2 ^ r.lgn * r.slotsz
       let gap := ∃ q, e.lastSeq = some q ∧ f.seqId ≠ q + 1
       ∃ t, exec .evFronthaulFrameRx s = .next t ∧ t.toHost = s.toHost ∧ t.fhDrops = s.fhDrops ∧ t.ctxs = s.ctxs ∧
         steerAt t i = { e with deliv := e.deliv + 1, lastSeq := some f.seqId } ∧ (∀ j, j ≠ i → steerAt t j = steerAt s j) ∧
         t.steerClaims = s.steerClaims ++ [{ ctx := k, ring := o, claim := r.resv }] ∧
         (t.part part).fhLeft = (s.part part).fhLeft - (32 + pay.length) ∧
         ((o + 32 ≤ slot ∨ slot + 32 + pay.length ≤ o) → ringOf (t.read pool o 32) = { r with resv := r.resv + 1 }) ∧
         (∀ j, j < pay.length → (t.memOf pool).get (slot + 32 + j) = ⟨pay.getD j 0, false⟩) ∧
         (t.readNat pool slot 8 = s.tsc.toNat ∧ t.readNat pool (slot + 8) 1 = f.port.val ∧ t.readNat pool (slot + 9) 1 = f.msgType.toNat ∧
          t.readNat pool (slot + 10) 2 = f.pcId.toNat ∧ t.readNat pool (slot + 12) 2 = f.seqId.toNat ∧
          t.readNat pool (slot + 14) 2 = secid ∧ t.readNat pool (slot + 16) 1 = f.frameId.toNat ∧
          t.readNat pool (slot + 17) 2 = f.subframeId.toNat * 2 ^ 12 + f.slotId.toNat * 2 ^ 6 + f.symbolId.toNat ∧
          t.readNat pool (slot + 19) 1 % 2 = (if f.dir then 1 else 0) ∧ (t.readNat pool (slot + 19) 1 / 2 = 1 ↔ gap) ∧
          t.readNat pool (slot + 20) 2 = pay.length % 2 ^ 16) ∧
         ∀ sp a, sp ≠ pool ∨ ((a < slot ∨ slot + 32 + pay.length ≤ a) ∧ (a < o + 16 ∨ o + 20 ≤ a)) →
           (t.memOf sp).get a = (s.memOf sp).get a)) ∧
  (∀ (s : State) (k : CtxId) (ring : Nat) (y : SteerClaim), s.arg.producer = .steering k ring → s.memWf = true →
     s.steerClaims.find? (fun x => decide (x.ctx = k ∧ x.ring = ring)) = some y →
     let pool := Space.pool (coreOf k)
     let filled := s.readNat pool (ring + 20) 4
     (filled ≠ y.claim.toNat → exec .evStreamSlotPublish s = .next s) ∧
     (filled = y.claim.toNat → ∃ t, exec .evStreamSlotPublish s = .next t ∧ t.readNat pool (ring + 20) 4 = (y.claim + 1).toNat ∧
       t.steerClaims = s.steerClaims.erase y ∧
       ∀ sp a, sp ≠ pool ∨ a < ring + 20 ∨ ring + 24 ≤ a → (t.memOf sp).get a = (s.memOf sp).get a))

/-- R133, R419, R441, R443, R444, R458: BAR 2 reads and writes device memory below the installed capacity, a write as a release at SYS scope;
a read may give the older value of a word the host holds, but as an acquire none that the maker of a release it meets knows overwritten;
the completion of a waiting host load writes its register, an error writes 0 with poison and is kept for FENCE, and an ldaq acquires; a posted store is performed when it is accepted. Errors are logged in the uncorrectable-error status. That both dies' READY opens the
windows is log 84: the model's choice. -/
def Obligations.HostAccessEvents : Prop :=
  ∀ s : State,
    let k := s.arg.ctx
    let c := s.ctx k
    let logged := fun (t : State) (bit : Nat) => { t with aerUncorr := t.aerUncorr ||| BitVec.ofNat 32 (2 ^ bit) }
    let within := fun (n : Nat) => s.arg.n / 2 ^ 36 < 2 ∧ s.arg.n % 2 ^ 36 + n ≤ 64000000000
    let beyond := 2 ≤ s.arg.n / 2 ^ 36 ∨ (64000000000 ≤ s.arg.n % 2 ^ 36 ∧ s.arg.n % 2 ^ 36 + s.arg.bytes.length ≤ 2 ^ 36)
    let rel : Rel := { at_ := .word .dmem s.arg.n s.arg.bytes.length, by_ := s.latest .outside, scope := 4, live := true }
    (barsRespond s = true → s.arg.flag = false → beyond → exec .evBar2Write s = .next (s.addRel rel)) ∧
    (barsRespond s = true → beyond → exec .evBar2Read s = .next (logged { s with replies := s.replies ++ [.unsupported] } 20)) ∧
    (barsRespond s = false → exec .evBar2Write s = .next (logged s 20)) ∧
    (barsRespond s = true → s.memWf = true → s.arg.flag = false → within s.arg.bytes.length →
      ∃ t, exec .evBar2Write s = .next t ∧ t = { s with dmem := t.dmem, early := t.early, stale := t.stale, rels := t.rels } ∧ rel ∈ t.rels ∧
      (∀ i, i < s.arg.bytes.length → (t.dmem.get (s.arg.n + i)).val = s.arg.bytes.getD i 0) ∧
      (∀ a, a < s.arg.n ∨ s.arg.n + s.arg.bytes.length ≤ a → t.dmem.get a = s.dmem.get a)) ∧
    (barsRespond s = true → s.memWf = true → s.arg.flag = true → s.arg.bytes.length = 4 → s.arg.n % 4 = 0 → within 4 →
      ∃ t, exec .evBar2Write s = .next t ∧ t.aerUncorr.getLsbD 12 = true ∧
        ∀ a, a / 32 = s.arg.n / 32 → (t.dmem.get a).poison = true) ∧
    (barsRespond s = true → s.arg.flag = false → 0 < s.arg.word.toNat → within s.arg.word.toNat → (∀ x ∈ s.stale, x.seer ≠ none) →
      exec .evBar2Read s = .next { s with replies := s.replies ++
        [.bar2 ((s.dmem.read s.arg.n s.arg.word.toNat).map (·.val)) (anyPoison (s.dmem.read s.arg.n s.arg.word.toNat))] }) ∧
    (∀ x, barsRespond s = true → s.arg.flag = false → s.arg.word.toNat = 8 → s.arg.n % 8 = 0 → within 8 →
      heldWord none s.arg.n s.stale = some x → x.bytes.length = 8 →
      exec .evBar2Read s = .next { s with replies := s.replies ++ [.bar2 (x.bytes.map (·.val)) (anyPoison x.bytes)] }) ∧
    (barsRespond s = true → s.arg.flag = true → s.arg.word.toNat = 8 → s.arg.n % 8 = 0 → within 8 →
      let u := hostAcquire s s.arg.n 8
      let l := (List.range 8).map (fun i => seenByte u none .dmem (s.arg.n + i))
      exec .evBar2Read s = .next { u with replies := u.replies ++ [.bar2 (l.map (·.val)) (anyPoison l)] } ∧
      knowsWhat u .outside ((s.heardAt none .dmem s.arg.n 8).filter (fun r => decide (4 ≤ r.scope)))) ∧
    (barsRespond s = false → exec .evBar2Read s = .next (logged { s with replies := s.replies ++ [.unsupported] } 20)) ∧
    let met := fun (l : HostLoad) => if l.acq then acquire s k 4 [s.latest .outside] else s
    (∀ l r b, s.arg.flag = false → c.hostLoads = l :: r → s.arg.answer = .data b → b.length = l.size →
      l.size = 1 ∨ l.size = 2 ∨ l.size = 4 ∨ l.size = 8 →
      exec .evHostCompletion s = .next ((met l).modCtx k (fun c =>
        { c with hostLoads := r }.setReg l.d (loadedValue l.signed l.size (pbytes false b))))) ∧
    (∀ l r, s.arg.flag = false → c.hostLoads = l :: r →
      exec .evHostCompletionTimeout s = .next (logged ((met l).modCtx k (fun c =>
        ({ c with hostLoads := r }.setRegP l.d 0 true).fail 2)) 14)) ∧
    (∀ p r, s.arg.flag = true → c.posted = p :: r → (∃ b, s.arg.answer = .data b) →
      exec .evHostCompletion s = .next (performPending k (s.modCtx k (fun c => { c with posted := r })) p)) ∧
    (∀ p r, s.arg.flag = true → c.posted = p :: r → p.poison = false →
      exec .evHostCompletionTimeout s = .next (logged (s.modCtx k (fun c => { c with posted := r }.fail 2)) 14))

/-- R423, R424, R458: an uncorrectable error poisons the granule of its address, the scrub reports a poisoned one, and a page-table walk
changes nothing but the translation structures it fills. Which entries leave a full structure is log entry 22, and that a partial write
leaves the granule poisoned 20: the model's choices. -/
def Obligations.MemoryErrorsAndWalks : Prop :=
  ∀ s : State,
    (validDev s.arg.n = true → s.memWf = true → ∃ t, exec .evEccUncorrectable s = .next t ∧
      t = { s with dmem := t.dmem, early := t.early, stale := t.stale, rels := t.rels } ∧ ∀ a, (t.dmem.get a).val = (s.dmem.get a).val ∧
        (t.dmem.get a).poison = ((s.dmem.get a).poison || decide (a / 32 = s.arg.n / 32))) ∧
    (validDev s.arg.n = false → exec .evEccUncorrectable s = .next s) ∧
    ((∃ i, i < 32 ∧ (s.dmem.get (s.arg.n / 32 * 32 + i)).poison = true) →
      exec .evMemoryScrub s = .next { s with memErrors := s.memErrors ++ [s.arg.n / 32 * 32] }) ∧
    ((∀ i, i < 32 → (s.dmem.get (s.arg.n / 32 * 32 + i)).poison = false) → exec .evMemoryScrub s = .next s) ∧
    (∃ t, exec .evPageTableWalk s = .next t ∧ onlyFills { s with memErrors := t.memErrors } t ∧
      ((s.part s.arg.part).ten = false → t = s))

/-! ## Host queues -/

/-- R385 to R388, R390 to R393, R419: a doorbell publishes its ring's new write position behind the spans already there; the thread of a queue
on a die takes its next packet, and the thread that reads a packet first does what its rule says, the other only reads it; one that cannot
be read or breaks R390 stops the queue. `u` is the state with the packet consumed: nothing else has changed but the translations filled.
What SIGNAL writes is a release at SYS scope: the host keeps no older value of it, nor of what a unit knows overwritten.
A WAIT that cannot be read counts as not over, and a SIGNAL that cannot be written is lost (log 64); a vector of 256 or more raises
none (log 65): the model's choices. -/
def Obligations.QueuePackets : Prop :=
  ∀ (s : State),
    let q := s.arg.hq
    let d := s.arg.die
    (∀ m, (s.hq q).map = some m → s.arg.ring.val < m.rings → barsRespond s = true →
      let x := s.hq q
      let v : BitVec 32 := BitVec.ofNat 32 s.arg.word.toNat
      let old := x.published[s.arg.ring.val]
      (0 < (v - old).toNat → (v - old).toNat ≤ 2 ^ m.sizeLog →
        exec .evDoorbell s = .next (s.setHq q { x with
          published := x.published.set s.arg.ring.val v
          spans := insertSpan { stamp := s.tsc, ring := s.arg.ring, stop := v, begun := false } x.spans })) ∧
      (2 ^ m.sizeLog < (v - old).toNat →
        exec .evDoorbell s = .next (stopQueue s q codeBAD { level := 0, ring := s.arg.ring, at_ := none }))) ∧
    (∀ c x l, takePacket s q d = .stop c x l → ∀ i ∈ [Instr.evNop, .evLaunch, .evLaunchWarm, .evWait, .evSignal, .evIndirect, .evCreate,
        .evReady, .evCancel, .evRemove, .evEnd, .evPacketFence, .evDestroy],
      exec i s = .next (stopQueue (touchWords s d (s.qpart q) l) q c x)) ∧
    (∀ (va : Word) (l : List PByte) (a : Nat), let w := unitRecord s d (s.qpart q) va l
      unitPlace (unitStore (learn s .outside [s.latest .unit]) d (s.qpart q) va l) d (s.qpart q) accDevWrite va = some a →
      ({ at_ := .word .dmem a l.length, by_ := s.latest .unit, scope := 4, live := true } : Rel) ∈ w.rels ∧
      ∀ x ∈ w.stale, x.seer = none → rangesMeet .dmem x.addr 8 .dmem a l.length = false ∧ goneFor x.gone [s.latest .unit] = false) ∧
    ∀ (p : Packet) (th : QThread) (spans : List Span) (l : List Word), takePacket s q d = .packet p th spans l →
    let r := touchWords s d (s.qpart q) l
    let u := takeBy r q d p th spans
    let h := u.hq q
    onlyFills { s with memErrors := r.memErrors } r ∧ u = { r with hqueues := u.hqueues } ∧ (∀ x, x ≠ q → u.hq x = s.hq x) ∧
    h.map = (s.hq q).map ∧ h.block = (s.hq q).block ∧ h.acted = max (s.hq q).acted th.taken ∧
    (p.kind ≠ .indirect → h.thread d = th) ∧ (∀ x, x ≠ d → h.thread x = (s.hq q).thread x) ∧
    (p.good = false → ∀ i ∈ [Instr.evNop, .evLaunch, .evLaunchWarm, .evWait, .evSignal, .evIndirect, .evCreate,
        .evReady, .evCancel, .evRemove, .evEnd, .evPacketFence, .evDestroy], exec i s = .next (stopQueue r q codeBAD p.place)) ∧
    (p.good = true → th.taken ≤ (s.hq q).acted → ∀ x ∈ [(PacketKind.nop, Instr.evNop), (.launch, .evLaunch), (.warm, .evLaunchWarm),
        (.wait, .evWait), (.signal, .evSignal), (.indirect, .evIndirect), (.create, .evCreate), (.ready, .evReady), (.cancel, .evCancel),
        (.remove, .evRemove), (.stop, .evEnd), (.fence, .evPacketFence), (.destroy, .evDestroy)], p.kind = x.1 → exec x.2 s = .next u) ∧
    (p.good = true → (s.hq q).acted < th.taken →
      (p.type = 0 → exec .evNop s = .next u) ∧
      (p.type = 1 → p.isWarm = false → exec .evLaunch s = .next
        { u with tasks := s.tasks ++ [p.task q (s.qpart q)], hqueues := u.hqueues.set q.val { h with block := .launch s.tasks.length } }) ∧
      (p.type = 1 → p.isWarm = true → exec .evLaunchWarm s = .next
        { u with tasks := s.tasks ++ [p.task q (s.qpart q)], hqueues := u.hqueues.set q.val { h with block := .launch s.tasks.length } }) ∧
      (∀ w, w = touch u d (s.qpart q) accDevRead (p.word 1) → p.type = 2 →
        (waitOver w q (p.word 1) (BitVec.ofNat 2 p.flags) (p.word 2) = true →
          exec .evWait s = .next (unitAcquire w d (s.qpart q) (p.word 1) 8)) ∧
        (waitOver w q (p.word 1) (BitVec.ofNat 2 p.flags) (p.word 2) = false → exec .evWait s =
          .next (w.setHq q { h with block := .wait (p.word 1) (BitVec.ofNat 2 p.flags) (p.word 2) }))) ∧
      (p.type = 3 → p.flags = 0 →
        exec .evSignal s = .next (unitRecord u d (s.qpart q) (p.word 1) (natBytes 8 (p.word 2).toNat))) ∧
      (∀ old, p.type = 3 → p.flags = 1 → unitWord u d (s.qpart q) (p.word 1) = some old →
        exec .evSignal s = .next (unitRecord u d (s.qpart q) (p.word 1) (natBytes 8 (old + p.word 2).toNat))) ∧
      (p.type = 3 → p.flags = 2 → exec .evSignal s = .next
        (raiseVec (unitRecord u d (s.qpart q) (p.word 1) (natBytes 8 (p.word 2).toNat)) (Fin.ofNat 256 p.arg.toNat))) ∧
      (∀ old, p.type = 3 → p.flags = 3 → unitWord u d (s.qpart q) (p.word 1) = some old → exec .evSignal s = .next
        (raiseVec (unitRecord u d (s.qpart q) (p.word 1) (natBytes 8 (old + p.word 2).toNat)) (Fin.ofNat 256 p.arg.toNat))) ∧
      (p.type = 4 → p.place.level < 4 → overlapsStack (p.word 1) p.arg.toNat th.stack = false →
        exec .evIndirect s = .next u ∧ h.thread d = { th with stack :=
          { base := p.word 1, words := p.arg.toNat, pos := 0, ring := p.place.ring, stamp := p.stamp } :: th.stack }) ∧
      (p.type = 4 → p.place.level = 4 ∨ overlapsStack (p.word 1) p.arg.toNat th.stack = true →
        exec .evIndirect s = .next (stopQueue u q codeLOOP p.place)) ∧
      (p.type = 6 → fenceOver u q = true → exec .evPacketFence s = .next u) ∧
      (p.type = 6 → fenceOver u q = false → exec .evPacketFence s = .next (u.setHq q { h with block := .fence })))

/-- R388, R392, R418: a waiting queue goes on when its condition holds: a WAIT's when the value it reads does, a FENCE's when every task
launched from the queue that it still names is over; and not before. A task whose queue was stopped or unmapped since is no longer named
by it (log 66), and a WAIT that cannot be read goes on waiting (log 64): the model's choices. An event opens its vector's
coalescing window or joins it; a window that ends sends the vector's message. -/
def Obligations.QueueWaitsEnd : Prop :=
  ∀ (s : State),
    let q := s.arg.hq
    let x := s.hq q
    (∀ a c v, x.block = .wait a c v →
      let w := touch s s.arg.die (s.qpart q) accDevRead a
      (waitOver w q a c v = true →
        exec .evWaitSatisfied s = .next ((unitAcquire w s.arg.die (s.qpart q) a 8).setHq q { x with block := .none })) ∧
      (waitOver w q a c v = false → exec .evWaitSatisfied s = .next w)) ∧
    (∀ a c v, waitOver s q a c v = (match unitWord s s.arg.die (s.qpart q) a with | some y => waitHolds c y v | none => false)) ∧
    (x.block = .fence → (∀ t ∈ s.tasks, t.q = q → t.orphan = false → t.st = .completed ∨ t.st = .killed ∨ t.st = .refused) →
      exec .evPacketFenceDone s = .next (s.setHq q { x with block := .none })) ∧
    (x.block = .fence → (∃ t ∈ s.tasks, t.q = q ∧ t.orphan = false ∧ ¬ (t.st = .completed ∨ t.st = .killed ∨ t.st = .refused)) →
      exec .evPacketFenceDone s = .next s) ∧
    (∀ v w : Word, waitHolds 0 v w = decide (w.toNat ≤ v.toNat) ∧ waitHolds 1 v w = decide (v = w) ∧ waitHolds 2 v w = decide (v ≠ w)) ∧
    (∀ i, (s.msiOf i).openUntil = none → raiseVec s i = { s with msi := s.msi.set i.val { s.msiOf i with
      openUntil := some (s.tsc + BitVec.ofNat 64 (1000 * (s.msiOf i).win.toNat)), count := 1 } }) ∧
    (∀ i t, (s.msiOf i).openUntil = some t → s.tsc.toNat < t.toNat →
      raiseVec s i = { s with msi := s.msi.set i.val { s.msiOf i with count := (s.msiOf i).count + 1 } }) ∧
    (∀ t, (s.msiOf s.arg.vec).openUntil = some t → t.toNat ≤ s.tsc.toNat →
      ∃ u, exec .evInterruptWindowExpiry s = .next u ∧
        ((s.msixOf s.arg.vec).mask = false → u.sent = (s.arg.vec, (s.msiOf s.arg.vec).count) :: s.sent ∧ u.msixPending = s.msixPending) ∧
        ((s.msixOf s.arg.vec).mask = true → u.sent = s.sent ∧ u.msixPending.getLsbD s.arg.vec.val = true) ∧
        (u.msiOf s.arg.vec).openUntil = none ∧ (u.msiOf s.arg.vec).count = 0 ∧
        u = { s with sent := u.sent, msi := u.msi, msixPending := u.msixPending }) ∧
    (∀ t, (s.msiOf s.arg.vec).openUntil = some t → s.tsc.toNat < t.toNat → exec .evInterruptWindowExpiry s = .next s)

/-! ## Copies and streams -/

/-- R13, R118, R209, R213, R214, R216, R231: a granule of a fill or of a copy from the shared part into the core's own scratchpad moves
its next bytes, up to a multiple of 256 and the rest of an aligned 8-byte word begun, and no other; it takes its core's engine first. The
end of a copy records its failure in CPSTAT, makes its arrival and leaves the engine. R140, R142, R227, R456: a cstrm claims the slot at
RESV of a ring with room and room for its bytes, waits for room, and ends at once where the ring is refused; claims are published in order
by FILLED. A cstrm takes the engine as it claims (log 32): the model's choice. R113, R216 to R226, R228, R413: whatever the copy, its
granule takes each byte from where its form says and puts it where it says, in its window or by translation, and writes nothing else; a
reducing copy combines element by element; a spent budget holds it. What a granule takes with it beyond its 256 bytes, and that its writes
beyond the core may be performed later, are log entries 8 and 27. -/
def Obligations.CopyStreamEvents : Prop :=
  (∀ (s : State) (e : Entry) (op : CopyOp),
     let k := s.arg.ctx
     let q := s.arg.q
     let pool := Space.pool (coreOf k)
     let lo := 256 * e.goff + 4 * e.ahead.length
     let hi := min (256 * e.goff + 256) op.total
     s.memWf = true → (s.ctx k).running q = some (e, op) →
     (e.onEngine = false → enginePick s (coreOf k) q ≠ some k → exec .evCopyGranule s = .next s) ∧
     (∀ o, op.ra = scrAt (coreOf k) o → o + op.total ≤ 2 ^ 22 → o % 4 = 0 → op.total % 4 = 0 → e.dead = false → e.drop = false →
       e.zeroFrom = none → e.ahead = (if (o + 256 * e.goff) % 8 = 0 ∨ e.goff = 0 then [] else [64 * e.goff]) →
       256 * e.goff < op.total → e.onEngine = true ∨ enginePick s (coreOf k) q = some k → s.posts = [] →
       let tail := if hi < op.total ∧ (o + hi) % 8 ≠ 0 then 4 else 0
       let n := hi + tail - lo
       (op.kind = .cfill → ∃ t, exec .evCopyGranule s = .next t ∧
         (∀ i, i < n → (t.memOf pool).get (o + lo + i) = ⟨regByte op.rb ((lo + i) % 8), false⟩) ∧
         (∀ sp x, sp ≠ pool ∨ x < o + lo ∨ o + lo + n ≤ x → (t.memOf sp).get x = (s.memOf sp).get x) ∧
         ((t.ctx k).queue q).entries = { e with goff := e.goff + 1, delivered := hi, ahead := (if tail = 4 then [hi / 4] else []),
                                                onEngine := true } :: ((s.ctx k).queue q).entries.tail) ∧
       (∀ d p, op.kind = .cin ∨ op.kind = .cout → op.rb = dshAt d p → p + op.total ≤ 2 ^ 22 →
         ∃ t, exec .evCopyGranule s = .next t ∧
         (∀ i, i < n → (t.memOf pool).get (o + lo + i) = (s.memOf (.dsh d)).get (p + lo + i)) ∧
         (∀ sp x, sp ≠ pool ∨ x < o + lo ∨ o + lo + n ≤ x → (t.memOf sp).get x = (s.memOf sp).get x))) ∧
     (op.kind ≠ .cstrm → op.kind ≠ .cmcast → foreignCores k op = [] → e.drop = false → e.claim = none →
       (∀ (p : Fin 4), ∀ u ∈ (s.bport p).unacked, u.owner ≠ .copy k q e.seq) → e.dead = true ∨ op.total ≤ 256 * e.goff →
       (op.bar = none → exec .evCopyComplete s = .next (s.modCtx k (fun c =>
         { c with csr := if e.fail = 0 then c.csr else
             { c.csr with cpSeq := e.seq, cpQueue := q.code, cpFail := c.csr.cpFail ||| e.fail,
                          cpCount := BitVec.ofNat 8 (min 255 (c.csr.cpCount.toNat + 1)) } }.setHead q
           { e with done := true, onEngine := false }))) ∧
       (∀ b o, op.bar = some b → objectAt s k b 8 = .ok o → 0 < e.delivered → s.posts = [] →
         ∃ t, exec .evCopyComplete s = .next t ∧ readBar t (coreOf k) o = arrivalOn (readBar s (coreOf k) o) e.delivered ∧
         (∀ sp x, sp ≠ pool ∨ x < o ∨ o + 8 ≤ x → (t.memOf sp).get x = (s.memOf sp).get x) ∧
         ((t.ctx k).queue q).entries = { e with done := true, onEngine := false } :: ((s.ctx k).queue q).entries.tail)) ∧
     (e.claim = none → e.dead = false → e.drop = false → 256 * e.goff < op.total → exec .evCopyComplete s = .next s) ∧
     ((∃ p : Fin 4, ∃ u ∈ (s.bport p).unacked, u.owner = .copy k q e.seq) → exec .evCopyComplete s = .next s)) ∧
  (∀ (s : State) (k : CtxId) (e : Entry) (op : CopyOp), s.memWf = true → s.arg.producer = .stream k → (s.ctx k).enginesRun = true →
     (s.ctx k).running .co = some (e, op) → op.kind = .cstrm →
     (∀ r, engineBusy s (coreOf k) .co = false → e.claim = none → e.slot = none → e.dead = false → e.drop = false →
       producerRing s k (scrCore op.ra) (scrOff op.ra) = some r → op.total ≤ r.slotsz →
       ((r.resv - r.freed).toNat < 2 ^ r.lgn →
         ∃ t, exec .evStreamSlotClaim s = .next t ∧
           (ringOf (t.read (.pool (scrCore op.ra)) (scrOff op.ra) 32)) = { r with resv := r.resv + 1 } ∧
           ∃ e', ((t.ctx k).queue .co).entries = e' :: ((s.ctx k).queue .co).entries.tail ∧ e'.claim = some r.resv ∧
             e'.onEngine = true ∧ e'.op = e.op) ∧
       (2 ^ r.lgn ≤ (r.resv - r.freed).toNat → exec .evStreamSlotClaim s = .next s)) ∧
     (engineBusy s (coreOf k) .co = false → e.claim = none → e.slot = none → e.dead = false → e.drop = false →
       producerRing s k (scrCore op.ra) (scrOff op.ra) = none →
       exec .evStreamSlotClaim s = .next (s.modCtx k (·.setHead .co { e with fail := e.fail ||| failREFUSED, dead := true, delivered := 0 }))) ∧
     (engineBusy s (coreOf k) .co = true → exec .evStreamSlotClaim s = .next s) ∧
     (∀ n slot, e.claim = some n → e.slot = some slot → e.dead = true ∨ op.total ≤ 256 * e.goff →
       destOk s k (scrCore e.ring) (scrOff e.ring) 32 = true →
       let old := ringOf (s.read (.pool (scrCore e.ring)) (scrOff e.ring) 32)
       (old.filled = n → s.posts = [] → ∃ t, exec .evStreamSlotPublish s = .next t ∧
         ringOf (t.read (.pool (scrCore e.ring)) (scrOff e.ring) 32) = { old with filled := n + 1 }) ∧
       (old.filled ≠ n → exec .evStreamSlotPublish s = .next s))) ∧
  (∀ (s : State) (e : Entry) (op : CopyOp),
     let k := s.arg.ctx
     let q := s.arg.q
     let e1 := e.accept s k op
     let u := s.setHead k q e1
     let z := nextGranule u k e1 op
     let g := z.2.2
     let acc := if op.kind.isCred then accCredDst else accCopyDst
     let place := fun (x : Nat) => copyPlaces k (u.ctx k) op x
     let source := fun (x : Nat) => if ∃ y, e.zeroFrom = some y ∧ y ≤ x then ByteSrc.const ⟨0, false⟩ else (place x).1
     let bad := g.moved.any (fun m => m.byte.poison)
     s.memWf = true → s.posts = [] → (s.ctx k).running q = some (e, op) → e.onEngine = true → e.dead = false → e.drop = false →
     256 * e.goff < op.total → (op.kind = .cstrm → e.claim ≠ none) → refusedNow s k e op = [] → g.halt = none →
     (∀ m ∈ g.moved,
       TakenFrom u k op m.byte (fun y => ∃ sp a, PlaceOf u k acc op.dstWindow (place m.pos).2 sp a ∧ y = (s.memOf sp).get a) (source m.pos) ∧
       (op.kind ≠ .cmcast → ∃ sp a, PlaceOf u k acc op.dstWindow (place m.pos).2 sp a ∧ m.dests = [(sp, a)]) ∧
       (∀ c o, op.kind = .cmcast → op.ra = scrAt c o → o + op.total ≤ 2 ^ 22 → op.total % 4 = 0 →
         m.dests = (liveCores op e).map (fun c => (Space.pool c, o + m.pos)))) ∧
     (∀ x, e.zeroFrom = none → op.total % 4 = 0 → 256 * e.goff ≤ x → x < min (256 * e.goff + 256) op.total → x / 4 ∉ e.ahead →
       (∃ m ∈ g.moved, m.pos = x) ∨ joins k (u.ctx k) e1 op (64 * e.goff) (min (256 * e.goff + 256) op.total / 4) (x / 4) = none) ∧
     (budgetStops u (s.ctx k).csr.partn g.dm g.lk = true → exec .evCopyGranule s = .next u) ∧
     (budgetStops u (s.ctx k).csr.partn g.dm g.lk = false → ∃ t e', exec .evCopyGranule s = .next t ∧
       ((t.ctx k).queue q).entries = e' :: ((s.ctx k).queue q).entries.tail ∧
       e' = { e1 with goff := e.goff + 1, delivered := z.1, ahead := (e.ahead ++ z.2.1).filter (fun p => decide (z.1 ≤ 4 * p)),
                      flags := e'.flags, fail := e'.fail } ∧
       (op.kind.isCred = false →
         e'.flags = e.flags ∧ e'.fail = e.fail ||| (if bad then failPOISON else 0) ∧
         (∀ sp a, (∀ m ∈ g.moved, (sp, a) ∉ m.dests) → (t.memOf sp).get a = (s.memOf sp).get a) ∧
         ∀ m ∈ g.moved, ∀ d ∈ m.dests,
           ((s.ctx k).lags = false ∨ d.1.beyond (coreOf k) = false → (∀ y ∈ g.moved, y.pos ≠ m.pos → d ∉ y.dests) →
             ((t.memOf d.1).get d.2).val = m.byte.val ∧ (d.1.ecc = false → ((t.memOf d.1).get d.2).poison = m.byte.poison)) ∧
           ((s.ctx k).lags = true → d.1.beyond (coreOf k) = true → (t.memOf d.1).get d.2 = (s.memOf d.1).get d.2 ∧
             ∃ p ∈ t.posts, p.ctx = k ∧ p.q = q ∧ p.ord = e.ord ∧ (d.1, d.2, m.byte) ∈ p.writes)) ∧
       (∀ o, op.kind = .cred o → let r := credAll o (some k) g.st (flitPoison g.moved.reverse)
         e'.flags = e.flags ||| r.2.1 ∧ e'.fail = e.fail ||| (if r.2.2 then failPOISON else 0) ∧ ∀ sp, t.memOf sp = r.1.memOf sp))) ∧
  (∀ (k : CtxId) (c : Ctx) (op : CopyOp) (x : Nat),
     let at_ := fun (p : Word) (n : Nat) => BitVec.ofNat 64 (p.toNat + n)
     let h := shapeFields op.shape
     let row := x / h.rowBytes
     let o := x % h.rowBytes
     let n := fmtBits h.fmt / 8
     let part := fun (y : Nat) => scrAt (coreOf k) (c.scrStart + y)
     (op.kind ∈ [.cin, .cout, .cmcast, .cstrm] ∨ (∃ f, op.kind = .cred f) → copyPlaces k c op x = (.at (at_ op.rb x), at_ op.ra x)) ∧
     (op.kind = .cfill → copyPlaces k c op x = (.const ⟨regByte op.rb (x % 8), false⟩, at_ op.ra x)) ∧
     (op.kind = .nest ∨ op.kind = .nesto → copyPlaces k c op x =
       (.at (BitVec.ofInt 64 (op.rb.toInt + nestGone (·.ss) op.levels (x / 4) + (x % 4 : Nat))),
        BitVec.ofInt 64 (op.ra.toInt + nestGone (·.ds) op.levels (x / 4) + (x % 4 : Nat)))) ∧
     (op.kind = .cgath →
       let rowsz := op.rc.toNat / 2 ^ 20 % 2 ^ 16
       let rows := 2 ^ (op.rc.toNat / 2 ^ 16 % 2 ^ 4)
       let i := op.rc.toNat % 2 ^ 16 + x / rowsz
       copyPlaces k c op x = (.paged (at_ op.rb (8 * (i / rows))) (i % rows * rowsz + x % rowsz), at_ op.ra x)) ∧
     (op.kind = .cpack → fmtBits h.fmt ≠ 4 → copyPlaces k c op x =
       (.at (at_ (part (h.base + row * h.stride)) (ilvPos (ilvGroup h.ilv) h.cols (o / n) * n + o % n)), at_ op.rb (row * op.rc.toNat + o))) ∧
     (op.kind = .cunpk → fmtBits h.fmt ≠ 4 → ∀ y, y < h.cols → ilvPos (ilvGroup h.ilv) h.cols y = o / n → copyPlaces k c op x =
       (.at (at_ op.rb (row * op.rc.toNat + (y * n + o % n))), part (h.base + row * h.stride + o))) ∧
     (∀ y y', y < h.cols → y' < h.cols → ilvPos (ilvGroup h.ilv) h.cols y < h.cols ∧
       (ilvPos (ilvGroup h.ilv) h.cols y = ilvPos (ilvGroup h.ilv) h.cols y' → y = y'))) ∧
  (∀ (s : State) (k : CtxId) (acc : Access) (va : Word),
     (∀ o, va = privAt o → o < 2 ^ 24 → copyPlace s k acc 1 va = .ok (s, .pool (coreOf k), (s.ctx k).privStart + o)) ∧
     (∀ c o, va = scrAt c o → o < 2 ^ 22 → copyPlace s k acc 2 va = .ok (s, .pool c, o)) ∧
     (∀ d o, va = dshAt d o → o < 2 ^ 22 → copyPlace s k acc 3 va = .ok (s, .dsh d, o)) ∧
     (¬ malformedPtr va → (va.toNat / 2 ^ 40 % 256 < 0xF0 ∨ 0xF2 < va.toNat / 2 ^ 40 % 256) →
       let r := translate s (dieOf (coreOf k)) (some (coreOf k)) (s.ctx k).csr.partn (s.ctx k).csr.sact acc (va.toNat % 2 ^ 48)
       (∀ t sp a, r = .ok (t, sp, a) → answered t sp a = .ok () → copyPlace s k acc 0 va = .ok (t, sp, a)) ∧
       (∀ c t, r = .error (c, t) → copyPlace s k acc 0 va = .error (.fault c va, t)))) ∧
  (∀ (s : State) (k : CtxId) (o : CredOp) (l : List Moved) (sp : Space) (a : Nat), s.memWf = true → s.posts = [] →
     l.length = credBytes o → l.flatMap (·.dests) = (List.range (credBytes o)).map (fun i => (sp, a + i)) →
     let old := s.read sp a (credBytes o)
     let src := l.map (·.byte)
     let r := credApply o (some k) s l
     bytesNat (r.1.read sp a (credBytes o)) = (credElem o (bytesNat old) (bytesNat src)).1 ∧ r.2.1 = (credElem o (bytesNat old) (bytesNat src)).2 ∧
     r.2.2 = (anyPoison old || anyPoison src) ∧ (r.2.2 = true → ∀ i, i < credBytes o → ((r.1.memOf sp).get (a + i)).poison = true) ∧
     ∀ sp' x, sp' ≠ sp ∨ x < a ∨ a + credBytes o ≤ x → (r.1.memOf sp').get x = (s.memOf sp').get x) ∧
  (∀ x y : Nat, x < 2 ^ 32 → y < 2 ^ 32 →
     let u := BitVec.ofNat 32 x
     let v := BitVec.ofNat 32 y
     credElem .addi x y = ((x + y) % 2 ^ 32, 0) ∧ credElem .addf x y = ((add32 u v).1.toNat, (add32 u v).2) ∧
     (credElem .maxf x y).1 = (max32 u v).toNat ∧ (credElem .minf x y).1 = (min32 u v).toNat ∧
     ((credElem .maxf x y).2 = if isNan32 u = true ∨ isNan32 v = true then NV else 0) ∧
     credElem .addbf x y = (let z := (decodeFp bf16 x).add false (decodeFp bf16 y)
       ((roundFp bf16 .rne false z.1).1, z.2 ||| (roundFp bf16 .rne false z.1).2)))

/-! ## Madder, Firkin and Bushel -/

/-- R312, R313, R315, R316, R436: the unit performs the oldest G-instruction of a context, on automata of the context's own partition; any
other, and one on an automaton that is not bound, sets REF; one of a snapshot that is not valid sets SNAPINV. A mask has bit v for token v
of the grammar bound. It waits behind a restore of an automaton it reaches and behind G-instructions for it that other contexts of the die
sent earlier. `u` is the state with the G-instruction taken in the order of R456. What a gbind that fails leaves beside REF is log 113, and
that a mask which finds no room still makes its walks log 115: the model's choices. -/
def Obligations.MadderPerforms : Prop :=
  ∀ (s : State) (g : GOp) (at_ : Word) (r : List (GOp × Word)),
    let k := s.arg.ctx
    let d := dieOf (coreOf k)
    let p := (s.ctx k).csr.partn
    let u := takeTurn (s.modCtx k (fun c => { c with gops := r })) k g
    (s.ctx k).gops = (g, at_) :: r →
    ((∃ n ∈ g.reaches, (s.aut d n).restoring = true) ∨
      (∃ j h t, j ≠ k ∧ dieOf (coreOf j) = d ∧ (h, t) ∈ (s.ctx j).gops ∧ (∃ n ∈ g.reaches, n ∈ h.reaches) ∧
        (t.toNat < at_.toNat ∨ (t = at_ ∧ j.val < k.val))) →
      exec .evMadderPerform s = .next s) ∧
    (gWaits s k g at_ = false →
    (∀ n tok c, g = .adv n tok → (s.aut d n).part = some p → (s.aut d n).bound = true →
      walkToken u ((s.aut d n).image d p) (s.aut d n).conf tok = .ok c →
      exec .evMadderPerform s = .next (u.setAut d n { s.aut d n with conf := c })) ∧
    (∀ n tok, g = .adv n tok → (s.aut d n).part = some p → (s.aut d n).bound = true →
      walkToken u ((s.aut d n).image d p) (s.aut d n).conf tok = .error .dead →
      exec .evMadderPerform s = .next (u.setAut d n { s.aut d n with rej := true })) ∧
    (∀ n tok x, g = .adv n tok → (s.aut d n).part = some p → (s.aut d n).bound = true →
      walkToken u ((s.aut d n).image d p) (s.aut d n).conf tok = .error (.malformed x) →
      exec .evMadderPerform s = .next (touchReads (u.setAut d n { s.aut d n with rej := true, badg := true }) d p x.toList)) ∧
    (∀ n ptr h, g = .bind n ptr → (s.aut d n).part = some p → readHeader u d p ptr = some h →
      exec .evMadderPerform s = .next (u.setAut d n { s.aut d n with
        grammar := ptr, bound := true, header := h, snaps := Vector.replicate 8 none, badg := false,
        conf := { state := h.start, stack := [], fin := false } })) ∧
    (∀ n ptr, g = .bind n ptr → (s.aut d n).part = some p → readHeader u d p ptr = none →
      exec .evMadderPerform s = .next (touchReads (u.setAut d n { s.aut d n with
        grammar := ptr, bound := false, ref := true, snaps := Vector.replicate 8 none, badg := false,
        conf := { state := 0, stack := [], fin := false } }) d p [(ptr, 64)])) ∧
    (∀ n ptr, g = .bind n ptr → (s.aut d n).part ≠ some p →
      exec .evMadderPerform s = .next (u.setAut d n { s.aut d n with ref := true })) ∧
    (∀ n j, g = .snap n j ∨ g = .roll n j → (s.aut d n).part ≠ some p ∨ (s.aut d n).bound = false →
      exec .evMadderPerform s = .next (u.setAut d n { s.aut d n with ref := true })) ∧
    (∀ n j m, g = .roll n j ∧ m = n ∨ g = .fork n j m → (h : j < 8) → (s.aut d n).part = some p → (s.aut d n).bound = true →
      (s.aut d m).part = some p → (s.aut d m).bound = true → (s.aut d m).snaps[j] = none →
      exec .evMadderPerform s = .next (u.setAut d n { s.aut d n with snapinv := true })) ∧
    (∀ n j, g = .snap n j → (h : j < 8) → (s.aut d n).part = some p → (s.aut d n).bound = true →
      exec .evMadderPerform s = .next (u.setAut d n { s.aut d n with snaps := (s.aut d n).snaps.set j (some (s.aut d n).conf) h })) ∧
    (∀ n j c, g = .roll n j → (h : j < 8) → (s.aut d n).part = some p → (s.aut d n).bound = true → (s.aut d n).snaps[j] = some c →
      ∃ t, exec .evMadderPerform s = .next t ∧ (t.aut d n).conf = c ∧
        ∀ i : Fin 8, (t.aut d n).snaps[i.val] = if i.val ≤ j then (s.aut d n).snaps[i.val] else none) ∧
    (∀ n j m c, g = .fork n j m → (h : j < 8) → (s.aut d n).part = some p → (s.aut d n).bound = true →
      (s.aut d m).part = some p → (s.aut d m).bound = true → (s.aut d m).snaps[j] = some c →
      ∃ t, exec .evMadderPerform s = .next t ∧ (t.aut d n).conf = c ∧ (t.aut d n).grammar = (s.aut d m).grammar ∧
        (t.aut d n).bound = true ∧ (t.aut d n).snaps = Vector.replicate 8 none) ∧
    (∀ n j m, g = .fork n j m → (s.aut d n).part ≠ some p ∨ (s.aut d n).bound = false ∨
        (s.aut d m).part ≠ some p ∨ (s.aut d m).bound = false →
      exec .evMadderPerform s = .next (u.setAut d n { s.aut d n with ref := true })) ∧
    (∀ n ptr, g = .mask n ptr none → (s.aut d n).part ≠ some p ∨ (s.aut d n).bound = false → ptr.toNat + 128 ≤ (s.ctx k).scrStop →
      s.memWf = true → ∃ t, exec .evMadderPerform s = .next t ∧ (t.aut d n).ref = true ∧
        (∀ i, i < 128 → (t.memOf (.pool (coreOf k))).get (ptr.toNat + i) = ⟨0, false⟩) ∧
        ∀ sp a, sp ≠ .pool (coreOf k) ∨ a < ptr.toNat ∨ ptr.toNat + 128 ≤ a → (t.memOf sp).get a = (s.memOf sp).get a) ∧
    (∀ n ptr b,
      let img := (s.aut d n).image d p
      let walk := walkToken u img (s.aut d n).conf
      let usable := (s.aut d n).part = some p ∧ (s.aut d n).bound = true
      let len := if (s.aut d n).part = some p ∧ (s.aut d n).bound = true then 128 * ((img.hdr.ntok + 1023) / 1024) else 128
      (g = .mask n ptr none → usable → ptr.toNat + len ≤ (s.ctx k).scrStop → s.memWf = true →
        ∃ t, exec .evMadderPerform s = .next t ∧ (t.aut d n).ref = (s.aut d n).ref ∧
          ((t.aut d n).badg = true ↔ (s.aut d n).badg = true ∨ ∃ v x, v < img.hdr.ntok ∧ walk v = .error (.malformed x)) ∧
          (∀ v, v < 8 * len → let y := (t.memOf (.pool (coreOf k))).get (ptr.toNat + v / 8)
            y.poison = false ∧ (y.val.getLsbD (v % 8) = true ↔ v < img.hdr.ntok ∧ ∃ c, walk v = .ok c)) ∧
          ∀ sp a, sp ≠ .pool (coreOf k) ∨ a < ptr.toNat ∨ ptr.toNat + len ≤ a → (t.memOf sp).get a = (s.memOf sp).get a) ∧
      (g = .mask n ptr b → (s.ctx k).scrStop < ptr.toNat + len →
        ∃ t, exec .evMadderPerform s = .next t ∧ (t.aut d n).ref = true ∧ ∀ sp, t.memOf sp = s.memOf sp) ∧
      (∀ x, g = .mask n ptr b → b = some x → ptr.toNat + len ≤ (s.ctx k).scrStop →
        exec .evMadderPerform s = .next (arrival (performG u k (.mask n ptr none)) (coreOf k) x.toNat len))) ∧
    (∀ n tok, g = .adv n tok → (s.aut d n).part ≠ some p ∨ (s.aut d n).bound = false →
      exec .evMadderPerform s = .next (u.setAut d n { s.aut d n with ref := true })))

/-- R294, R316, R436 to R440: a load that waits for a write-back does nothing, and a move whose partition's budget is spent waits; a
granule of a slice load writes its pairs, and the last one makes the arrival; a segment is restored with its last granule. A write-back
stores the buffer, or the automaton, as it stood at the boundary (log 60); once its last granule is written and its flits are acknowledged
(log 121: the model's choice), or on a failure, it ends: the automaton it saved is free, and the request has one write-back less to wait
for. The record follows. -/
def Obligations.FrameEngine : Prop :=
  ∀ (s : State) (m : Move),
    let d := s.arg.die
    let i := s.arg.n
    ((s.die d).moves[i]? = none → exec .evFirkinLoad s = .next s ∧ exec .evFirkinWriteback s = .next s) ∧
    ((s.die d).moves[i]? = some m → loadWaits s d m = true → m.load = true → exec .evFirkinLoad s = .next s) ∧
    ((s.die d).moves[i]? = some m → (s.part m.part).dmem ≠ 0xFFFFFFFF → (s.part m.part).dmemLeft = 0 →
      (m.member = none ∧ m.pos < 2048) ∨
        (∃ rank k, m.member = some (rank, k) ∧ (sliceAt m.map.ffmt (m.map.ofRank rank) m.pos).isSome = true) →
      (m.load = true → exec .evFirkinLoad s = .next s) ∧ (m.load = false → exec .evFirkinWriteback s = .next s)) ∧
    (∀ rank k x o b, (s.die d).moves[i]? = some m → m.load = true → loadWaits s d m = false → m.member = some (rank, k) →
      sliceAt m.map.ffmt (m.map.ofRank rank) m.pos = some (x, o) →
      let w := frameBytes m.map.ffmt
      let cnt := min 256 (w * x.elems - o)
      let va := x.addr + BitVec.ofNat 64 o
      let cost := frameCost s d m.part accUnitRead va cnt
      let s1 := touchRange (countMoved (charge s m.part cost.1 cost.2) d cnt) d m.part accUnitRead va cnt
      let at0 := m.base + 64 + x.offset + 8 * (o / w)
      moveStops s m.part cost.2 = false → frameRead s1 d m.part va cnt = .ok b → s.memWf = true →
      ∃ t, exec .evFirkinLoad s = .next t ∧
        (∀ j y, j < cnt / w → y < 8 → (t.memOf (.pool (coreOf k))).get (at0 + 8 * j + y) =
          ⟨regByte (BitVec.ofNat 64 (pairBits (fromFrame m.map.ffmt (bytesNat ((b.drop (w * j)).take w))))) y, false⟩) ∧
        (∀ sp a, sp ≠ .pool (coreOf k) ∨ (¬ (m.base ≤ a ∧ a < m.base + 8) ∧ (a < at0 ∨ at0 + 8 * (cnt / w) ≤ a)) →
          (t.memOf sp).get a = (s.memOf sp).get a) ∧
        ((sliceAt m.map.ffmt (m.map.ofRank rank) (m.pos + cnt)).isSome = true →
          (t.die d).moves = (s.die d).moves.set i { m with pos := m.pos + cnt } ∧ readBar t (coreOf k) m.base = readBar s (coreOf k) m.base) ∧
        (sliceAt m.map.ffmt (m.map.ofRank rank) (m.pos + cnt) = none →
          (t.die d).moves = (s.die d).moves.eraseIdx i ∧
          readBar t (coreOf k) m.base = arrivalOn (readBar s (coreOf k) m.base) (m.map.rankBytes rank))) ∧
    (∀ b, (s.die d).moves[i]? = some m → m.load = true → loadWaits s d m = false → m.member = none →
      let va := m.map.gseg + BitVec.ofNat 64 m.pos
      let cost := frameCost s d m.part accUnitRead va 256
      let s1 := touchRange (countMoved (charge s m.part cost.1 cost.2) d 256) d m.part accUnitRead va 256
      moveStops s m.part cost.2 = false → frameRead s1 d m.part va 256 = .ok b →
      (m.pos + 256 < 2048 → exec .evFirkinLoad s = .next (setMove s1 d i { m with pos := m.pos + 256, seg := m.seg ++ b })) ∧
      (2048 ≤ m.pos + 256 → ∃ t, exec .evFirkinLoad s = .next t ∧ t.aut d m.aut.val = restoreAut s1 d m.part (m.seg ++ b) ∧
        (∀ n, n < 512 → n ≠ m.aut.val → t.aut d n = s.aut d n) ∧ (t.die d).moves = (s.die d).moves.eraseIdx i ∧
        ∀ sp, t.memOf sp = s.memOf sp)) ∧
    (∀ s2, (s.die d).moves[i]? = some m → m.load = false → m.member = none →
      let va := m.map.gseg + BitVec.ofNat 64 m.pos
      let cost := frameCost s d m.part accUnitWrite va 256
      let s1 := touchRange (countMoved (charge s m.part cost.1 cost.2) d 256) d m.part accUnitWrite va 256
      let b := (m.seg.drop m.pos).take 256
      let m1 : Move := { m with pos := m.pos + b.length }
      (2048 ≤ m.pos → exec .evFirkinWriteback s = .next (tryEndWb s d i m)) ∧
      (m.pos < 2048 → moveStops s m.part cost.2 = false → frameWrite s1 d (m.flits d) m.part va b = .ok s2 →
        exec .evFirkinWriteback s = .next (if 2048 ≤ m.pos + 256 then tryEndWb s2 d i m1 else setMove s2 d i m1))) ∧
    (∀ rank k x o, (s.die d).moves[i]? = some m → m.load = false → m.member = some (rank, k) →
      sliceAt m.map.ffmt (m.map.ofRank rank) m.pos = some (x, o) →
      let w := frameBytes m.map.ffmt
      let cnt := min 256 (w * x.elems - o)
      let va := x.addr + BitVec.ofNat 64 o
      let cost := frameCost s d m.part accUnitWrite va cnt
      let s1 := touchRange (countMoved (charge s m.part cost.1 cost.2) d cnt) d m.part accUnitWrite va cnt
      let b := (m.seg.drop (8 * (m.pos / w))).take (8 * (cnt / w))
      let c := compress m.map.ffmt b (cnt / w)
      let m1 : Move := { m with pos := m.pos + c.length }
      moveStops s m.part cost.2 = false →
      (anyPoison b = true → exec .evFirkinWriteback s = .next (endWb (moveFailed s1 m codePoison) d i m)) ∧
      (∀ s2, anyPoison b = false → frameWrite s1 d (m.flits d) m.part va c = .ok s2 →
        exec .evFirkinWriteback s = .next (
          if (sliceAt m.map.ffmt (m.map.ofRank rank) (m.pos + cnt)).isSome then setMove s2 d i m1 else tryEndWb s2 d i m1)) ∧
      (∀ code, anyPoison b = false → frameWrite s1 d (m.flits d) m.part va c = .error code →
        exec .evFirkinWriteback s = .next (endWb (moveFailed s1 m code) d i m))) ∧
    (∀ (u : State), tryEndWb u d i m =
      if unackedOf u (fun o => o == .move d m.task m.reqid (m.member.map (·.1))) then setMove u d i m else endWb u d i m) ∧
    (∀ (u : State), ((endWb u d i m).die d).moves = (u.die d).moves.eraseIdx i ∧ (∀ sp, (endWb u d i m).memOf sp = u.memOf sp) ∧
      (m.member = none → (endWb u d i m).aut d m.aut.val = (if (u.aut d m.aut.val).restoring = true
        then { Automaton.unbound with part := (u.aut d m.aut.val).part, restoring := true } else Automaton.unbound)) ∧
      (∀ x j e, u.findReq (fun e => e.task == m.task && e.record.reqid == m.reqid) = some (x, j, e) →
        ((endWb u d i m).die x).table[j]? = some { e with pendingWb := e.pendingWb - 1 })) ∧
    (∀ e r t, (s.die d).table[i]? = some e → e.wb = some r → e.pendingWb = 0 → s.taskAt e.task = some t →
      let s1 := unitStore s d t.part e.addr (pbytes false (recordBytes r))
      exec .evRecordWriteback s = .next (
        if e.leave then s1.modDie d (fun x => { x with
          table := x.table.eraseIdx i, gens := (e.record.reqid, e.record.gen) :: x.gens.filter (fun g => g.1 != e.record.reqid) })
        else s1.setReq d i { e with wb := none })) ∧
    (∀ e, (s.die d).table[i]? = some e → e.wb = none ∨ e.pendingWb ≠ 0 → exec .evRecordWriteback s = .next s)

/-- R49 to R51, R408, R409, R469: a step boundary. It waits for every member; with END it returns 1 and NSLOTS 0 to each; with requests
admitted that all stay it returns 0 with the next STEPN and the new NSLOTS; with nothing admitted or ready it is withheld. That what
observers hold of the past ends at a boundary is log 90: the model's choice. Which requests are candidates is 57. -/
def Obligations.StepBoundaries : Prop :=
  ∀ (s : State) (t : Task),
    let n := s.arg.task
    let d := dieOf t.first
    s.taskAt n = some t → t.stepp = true → t.st = .released → t.gsize ≤ 64 →
    ((∃ m ∈ t.members, (s.ctx m).arr = false ∨ (s.ctx m).arrStep = false) → exec .evStepBoundary s = .next s) ∧
    ((∀ m ∈ t.members, (s.ctx m).arr = true ∧ (s.ctx m).arrStep = true) →
      (t.endReq = true → ∃ u, exec .evStepBoundary s = .next u ∧
        (∃ x, u.taskAt n = some x ∧ x.ended = true ∧ x.gen = t.gen + 1) ∧
        ∀ m ∈ t.members, ∀ r, (s.ctx m).run = .waiting (.gbarStep r) →
          (u.ctx m).run = .running ∧ (u.ctx m).pc = (s.ctx m).pc + 4 ∧ (u.ctx m).reg r = (if r = 0 then 0 else 1) ∧
          (u.ctx m).csr.nslots = 0 ∧ (u.ctx m).arr = false) ∧
      (t.endReq = false → (∀ x ∈ admittedOf s n d, x.2.faultMark = false ∧ x.2.stopMark = false ∧ x.2.cancelled = false) →
        rowsOf t (admittedOf s n d) ≤ t.rowlim → (∀ x ∈ reqsOf s n d, x.2.slot = none → x.2.record.state ≠ 1) →
        (admittedOf s n d = [] → exec .evStepBoundary s =
          .next (let s0 := hearAt s .unit 3 (s.relsOn (.gang n)); { s0 with clock := s0.clock + 1 })) ∧
        (∀ top, (∀ x ∈ admittedOf s n d, ∀ i, x.2.slot = some i → i ≤ top) → (∃ x ∈ admittedOf s n d, x.2.slot = some top) →
          ∃ u, exec .evStepBoundary s = .next u ∧
          ∀ m ∈ t.members, ∀ r, (s.ctx m).run = .waiting (.gbarStep r) → (s.ctx m).ended = false →
            (u.ctx m).run = .running ∧ (u.ctx m).pc = (s.ctx m).pc + 4 ∧ (u.ctx m).reg r = 0 ∧
            (u.ctx m).csr.nslots = BitVec.ofNat 9 (top + 1) ∧
            (u.ctx m).csr.stepn = (s.ctx (ctxAt t.first t.ctx)).csr.stepn + 1)))

/-- R317, R394, R406, R456: the STEP packets on requests of a step-program task of the queue, the refusal of any other, and DESTROY, each
taken by the thread that reads its packet first. `u` is the state with the packet consumed; an update of a request table takes its place
in the order of the sources (log 91). What a CREATE of an unaligned record does is 55, and a STEP with OP 5 to 7 56: the model's choices.
-/
def Obligations.StepPackets : Prop :=
  ∀ (s : State) (p : Packet) (th : QThread) (spans : List Span) (l : List Word),
    let q := s.arg.hq
    let u := takeBy (touchWords s s.arg.die (s.qpart q) l) q s.arg.die p th spans
    let id : BitVec 32 := BitVec.ofNat 32 (p.word 2).toNat
    let plen : BitVec 32 := BitVec.ofNat 32 ((p.word 2).toNat / 2 ^ 32)
    takePacket s q s.arg.die = .packet p th spans l → p.good = true → (s.hq q).acted < th.taken →
    (∀ n t, p.type = 5 → stepTaskOf u q p.arg = some (n, t) →
      let done := fun (v : State) => Host.Outcome.next (φ := Fault) (ρ := Refusal) (v.contended (.table (dieOf t.first)))
      let w := touchCreate u (dieOf t.first) t (p.word 1)
      (∀ v, p.flags = 0 → createReq w n t (p.word 1) = some v → exec .evCreate s = done v) ∧
      (p.flags = 0 → createReq w n t (p.word 1) = none → exec .evCreate s = .next (writeStatus w q codeSREF p.place)) ∧
      (p.flags = 4 → exec .evEnd s = done (u.setTask n { t with endReq := true })) ∧
      (∀ d i e, u.findReq (fun e => e.task == n && e.record.reqid == id && !e.leave) = some (d, i, e) →
        let r := e.record
        (p.flags = 1 → r.state = 0 ∨ r.state = 3 → r.pos.toNat < plen.toNat → plen.toNat ≤ r.maxlen.toNat →
          ∃ v : State, exec .evReady s = done v ∧ v = { u with clock := u.clock + 1, dies := v.dies } ∧
          (let e1 : ReqEntry := { e with readyAt := u.clock, record := { r with state := 1, plen := plen, stopr := 0 } }
           v.die d = { u.die d with table := (u.die d).table.set i e1 }) ∧ v.die (1 - d) = u.die (1 - d)) ∧
        (p.flags = 1 → (r.state ≠ 0 ∧ r.state ≠ 3) ∨ plen.toNat ≤ r.pos.toNat ∨ r.maxlen.toNat < plen.toNat →
          exec .evReady s = .next (writeStatus u q codeSREF p.place)) ∧
        (p.flags = 2 → r.state = 1 → exec .evCancel s = done (u.setReq d i { e with record := { r with state := 0 } })) ∧
        (p.flags = 2 → r.state = 2 → exec .evCancel s = done (u.setReq d i { e with cancelled := true })) ∧
        (p.flags = 2 → r.state ≠ 1 → r.state ≠ 2 → exec .evCancel s = .next (writeStatus u q codeSREF p.place)) ∧
        (p.flags = 3 → r.state = 0 ∨ r.state = 3 ∨ r.state = 4 → e.pendingWb = 0 →
          exec .evRemove s = done (removeReq (writeRecord u d t.part e.addr r) d i { e with wb := some r, leave := true })) ∧
        (p.flags = 3 → r.state = 0 ∨ r.state = 3 ∨ r.state = 4 → e.pendingWb ≠ 0 →
          exec .evRemove s = done (u.setReq d i { e with wb := some r, leave := true })) ∧
        (p.flags = 3 → r.state = 1 ∨ r.state = 2 → exec .evRemove s = .next (writeStatus u q codeSREF p.place)))) ∧
    (p.type = 5 → stepTaskOf u q p.arg = none →
      (p.flags = 0 → exec .evCreate s = .next (writeStatus u q codeSREF p.place)) ∧
      (p.flags = 1 → exec .evReady s = .next (writeStatus u q codeSREF p.place)) ∧
      (p.flags = 2 → exec .evCancel s = .next (writeStatus u q codeSREF p.place)) ∧
      (p.flags = 3 → exec .evRemove s = .next (writeStatus u q codeSREF p.place)) ∧
      (p.flags = 4 → exec .evEnd s = .next (writeStatus u q codeSREF p.place))) ∧
    (p.type = 5 → 5 ≤ p.flags → ∀ i ∈ [Instr.evCreate, .evReady, .evCancel, .evRemove, .evEnd],
      exec i s = .next (writeStatus u q codeSREF p.place)) ∧
    (p.type = 7 → p.place.level ≠ 0 → exec .evDestroy s = .next (stopQueue u q codeBAD p.place)) ∧
    (p.type = 7 → p.place.level = 0 → (∀ t ∈ s.tasks, t.q = q → t.orphan = true ∨ t.warm = true ∨ t.st = .completed ∨ t.st = .killed ∨
        t.st = .refused) → exec .evDestroy s = .next (stopQueue u q codeDESTROYED p.place)) ∧
    (∀ t, p.type = 7 → p.place.level = 0 → p.flags = 1 → s.tasks = [t] → t.q = q → t.orphan = false → t.warm = false →
      t.st = .placed ∨ t.st = .released → exec .evDestroy s = .next (stopQueue (u.setTask 0 { t with killReq := true }) q codeDESTROYED p.place))

/-! ## Tasks -/

/-- R22, R23, R39, R396 to R400: the decision of the LAUNCH due first, which refuses it with the first reason that applies or puts it into
the pending list; the placement of a chosen gang, each die restoring its own members, and its release. The pending list is tried again at
the decision time. What a decision reads of the occupancy logs and when the list is tried is log 69, what a release settles for observers
log 90: the model's choices. At which moment a reason is found is log entry 67, and that firmware chooses the regions 68. -/
def Obligations.LaunchEvents : Prop :=
  (∀ (s : State) (n : Nat) (t : Task), dueLaunch s = some (n, t) → s.taskAt n = some t →
    let w := touchHeaders s t
    let T := t.stamp.toNat + 1500
    t.st = .deciding ∧ T ≤ s.tsc.toNat ∧ onlyFills { s with memErrors := w.memErrors } w ∧
    (∀ m x, s.taskAt m = some x → x.st = .deciding → t.stamp.toNat ≤ x.stamp.toNat) ∧
    (t.warm = false → launchReason w n t = none → exec .evLaunchDecision s =
      .next (retryAt T (enlist (w.setTask n { t with st := .pending }) n { t with st := .pending }))) ∧
    (∀ r, t.warm = false → launchReason w n t = some r → exec .evLaunchDecision s = .next (retryAt T (refuseTask w n r))) ∧
    (t.warm = true → t.badField = true → exec .evLaunchDecision s = .next (retryAt T (refuseTask s n 4)))) ∧
  (∀ s : State, dueLaunch s = none → exec .evLaunchDecision s = .next (retryPending s)) ∧
  (∀ (s : State) (t : Task) (hs : List (ImageRef × ImageHeader)),
    let n := s.arg.task
    s.taskAt n = some t → t.st = .chosen → t.dlc = false → t.preload = false →
    let own := fun (x : Nat × ImageRef × ImageHeader) =>
      dieOf (coreOf (memberAt t t.first x.1)) == s.arg.die && (s.ctx (memberAt t t.first x.1)).task != some n
    let half := ((List.range hs.length).zip hs).filter own
    (taskHeaders s t = none → (∀ m ∈ t.members, (s.ctx m).task ≠ some n) →
      exec .evGangPlacement s = .next (refuseTask (touchHeaders s t) n 1)) ∧
    (∀ r, taskHeaders s t = some hs → segmentReason s t t.first hs = some r → (∀ m ∈ t.members, (s.ctx m).task ≠ some n) →
      exec .evGangPlacement s = .next (refuseTask (touchHeaders s t) n r)) ∧
    (∀ s1 gens, taskHeaders s t = some hs → segmentReason s t t.first hs = none → regionsOk s t s.arg.bases half = true →
      half.foldl (placeMember n t s.arg.bases) (some (s, t.gens)) = some (s1, gens) →
      (gens.length < t.gsize → exec .evGangPlacement s = .next (s1.setTask n { t with gens := gens })) ∧
      (t.gsize ≤ gens.length → t.saved = false → ∃ u, exec .evGangPlacement s = .next u ∧
        u.taskAt n = some { t with st := .placed, gen := gangGen (gens.map (·.2)), gens := [], release := s1.tsc, mixed := [] } ∧
        (∀ m ∈ t.members, (u.ctx m).run = (s1.ctx m).run ∧ (u.ctx m).s = (s1.ctx m).s ∧ (u.ctx m).csr = (s1.ctx m).csr)))) ∧
  (∀ (s : State) (t : Task),
    let n := s.arg.task
    s.taskAt n = some t → t.st = .placed → t.killReq = false →
    (s.tsc.toNat < (if t.warmed then t.at_.toNat else max t.at_.toNat (t.release.toNat + 200)) → exec .evGangRelease s = .next s) ∧
    ((if t.warmed then t.at_.toNat else max t.at_.toNat (t.release.toNat + 200)) ≤ s.tsc.toNat → t.preload = false → t.dlc = false →
      t.members.Nodup → (∀ m ∈ t.members, (s.ctx m).heldReports = [] ∧ (s.ctx m).heldEscs = []) →
      ∃ u, exec .evGangRelease s = .next u ∧ u.taskAt n = some { t with st := .released, release := s.tsc } ∧
        (∀ m ∈ t.members, u.ctx m = { s.ctx m with run := .running, preHeld := false }) ∧
        ∀ k, k ∉ t.members → u.ctx k = s.ctx k) ∧
    (∀ k x r, (s.ctx k).heldReports = x :: r → (s.ctx k).preHeld = false → (s.ctx k).csr.sact = false →
      startMember s k = s.modCtx k (fun c => { c with run := .draining (.trap x), drainIdle := 0, heldReports := r })))

/-- R25, R401, R403, R404, R363: how a task ends. It completes once every member has finished with its stores accepted; a kill that was
ordered is made; the members of a checkpoint victim begin to drain; an escalated context goes on with NOTE set, or its task is killed; one
whose drain under a pre-emption was abandoned does not go on. The pending list is tried again after each end. When the list is tried and
what the logs keep is log 69: the model's choice. That a kill is one step and raises no vector is log entry 76. -/
def Obligations.TaskEndEvents : Prop :=
  (∀ (s : State) (t : Task),
    let n := s.arg.task
    s.taskAt n = some t → t.st = .released →
    ((∃ m ∈ t.members, (s.ctx m).run ≠ .finished ∨ (s.ctx m).posted ≠ [] ∨ (s.ctx m).hostLoads ≠ []) → exec .evTaskComplete s = .next s) ∧
    ((∀ m ∈ t.members, (s.ctx m).run = .finished ∧ (s.ctx m).posted = [] ∧ (s.ctx m).hostLoads = []) → t.stepp = false →
      ∃ v, exec .evTaskComplete s = .next (retryPending v) ∧ v.taskAt n = some { t with st := .completed } ∧
        (∀ m ∈ t.members, (v.ctx m).run = .idle ∧ (v.ctx m).s = (Ctx.clean s.limits.wdfloor).s ∧
          (v.ctx m).tiles = (Ctx.clean s.limits.wdfloor).tiles ∧
          ∀ d : DieId, (⟨m, none, s.tsc⟩ : Occupied) ∈ (v.die d).occLog) ∧
        (∀ k, k ∉ t.members → v.ctx k = s.ctx k)) ∧
    (t.killReq = false → exec .evTaskKill s = .next s) ∧
    (t.killReq = true → t.stepp = false → (∀ m ∈ t.members, (s.ctx m).task = some n) →
      ∃ v, exec .evTaskKill s = .next (retryPending v) ∧ (v.taskAt n).map (·.st) = some .killed ∧
        (∀ m ∈ t.members, (v.ctx m).run = .idle) ∧
        (∀ k, k ∉ t.members → v.ctx k = { s.ctx k with gops := (v.ctx k).gops }))) ∧
  (∀ (s : State) (t : Task),
    let n := s.arg.task
    s.taskAt n = some t → t.st = .preempting → t.killReq = false → t.members ≠ [] → t.members.Nodup →
    (∀ m ∈ t.members, (s.ctx m).run = .running ∧ (s.ctx m).drainedOut = false) →
    ∃ u, exec .evPreemptCheckpoint s = .next u ∧
      (∀ m ∈ t.members, u.ctx m = { s.ctx m with run := .draining .preempt, drainIdle := 0, preHeld := false }) ∧
      ∀ k, k ∉ t.members → u.ctx k = s.ctx k) ∧
  (∀ (s : State) (c : Option TrapCode),
    let k := s.arg.ctx
    (s.ctx k).run = .escalated c →
    ((s.ctx k).doomed = false → (s.ctx k).heldReports = [] → (s.ctx k).heldEscs = [] → exec .evEscalationResume s =
      .next (s.modCtx k (fun c => { c.resumeCopies 0 with run := .running, csr := { c.csr with note := true } }))) ∧
    (∀ x r, (s.ctx k).doomed = false → (s.ctx k).csr.sact = true → (s.ctx k).heldEscs = x :: r → ∃ u, exec .evEscalationResume s = .next u ∧
      (u.ctx k).run = .draining (.trap x) ∧ (u.ctx k).heldEscs = r ∧ (u.ctx k).csr.note = true ∧ ∀ j, j ≠ k → u.ctx j = s.ctx j) ∧
    ((s.ctx k).doomed = true → exec .evEscalationResume s = .next s) ∧
    (∀ n, (s.ctx k).task = some n → ∃ v, exec .evEscalationKill s = .next (retryPending v) ∧
      (∀ t, s.taskAt n = some t → t.st = .released → t.stepp = false → k ∈ t.members →
        (v.ctx k).run = .idle ∧ (v.taskAt n).map (·.st) = some .killed)))

/-- R39, R415, R416: while its deadline-class context may issue, a core's borrowers are held and their copies parked; when it may not,
they go on; when the radio task has left, the split returns. Which releases reclaim, and what the returned range holds, are log entries 71
and 72: the model's choices. -/
def Obligations.LentCoreEvents : Prop :=
  ∀ s : State,
    let c := s.arg.core
    (∀ k, dlcOf s c = some k → (∀ j ∈ borrowers s c, (s.ctx j).copyHolds .ci = false ∧ (s.ctx j).copyHolds .co = false ∧ (s.ctx j).stillWrites = false) →
      (s.ctx k).run = .running → couldIssue s k = true →
      ∃ u, exec .evReclaim s = .next u ∧ (∀ j ∈ borrowers s c, (u.ctx j).csr = { (s.ctx j).csr with hold := true } ∧
          ∀ q ∈ [EngineQ.ci, .co], ∀ x ∈ ((u.ctx j).queue q).entries, x.started = true → x.done = false → x.parked = true) ∧
        ∀ j, j ∉ borrowers s c → u.ctx j = s.ctx j) ∧
    (dlcOf s c = none ∨ (∃ j ∈ borrowers s c, (s.ctx j).stillWrites = true) → exec .evReclaim s = .next s) ∧
    (dlcOf s c = none → ∃ u, exec .evHoldEnd s = .next u ∧
      ∀ j ∈ borrowers s c, (u.ctx j).csr.hold = ((s.ctx j).csr.hold && (s.ctx j).spilled)) ∧
    (∀ k, dlcOf s c = some k → couldIssue s k = true → exec .evHoldEnd s = .next s) ∧
    (∀ old, (s.core c).savedSplit = some old → dlcOf s c = none → ∃ u, exec .evSpillRefill s = .next u ∧
      (u.core c).accsplit = old ∧ (u.core c).savedSplit = none ∧ ∀ j ∈ borrowers s c, (u.ctx j).spilled = false) ∧
    ((s.core c).savedSplit = none → exec .evSpillRefill s = .next s)

/-! ## Resets, the boot ROM and attestation -/

/-- R459, R467: what both resets leave: no task, every context idle in its reset state, both dies before the boot ROM's first step, every
fronthaul port down, device memory as it stands; a cold reset senses the fuses, of which a bit once programmed stays, and starts the
counter at 0, a module reset keeps both. The values that the spec does not give are the model's (log entries 4, 5, 6). -/
def Obligations.Resets : Prop :=
  ∀ (s : State),
    ∃ t u, exec .evColdReset s = .next t ∧ exec .evModuleReset s = .next u ∧
    (∀ x ∈ [t, u], x.tasks = [] ∧ x.ctxs = State.reset.ctxs ∧ x.cores = State.reset.cores ∧ x.parts = State.reset.parts ∧
      x.fhSpeed = State.reset.fhSpeed ∧ (∀ p : Fin 4, x.fhSpeed[p.val] = 0) ∧ x.dmem = s.dmem ∧ x.hostMem = s.hostMem ∧ x.peerMem = s.peerMem ∧ x.flash = s.flash ∧ x.measured = false ∧
      ∀ d, (x.die d).bootStage = 0 ∧ (x.die d).ready = false ∧ (x.die d).dsh = ⟨[], []⟩) ∧
    t.tsc = 0 ∧ (∀ i, t.fuses.getD i 0 = s.fuses.getD i 0 ||| s.arg.bytes.getD i 0) ∧ u.tsc = s.tsc ∧ u.fuses = s.fuses

/-- R460 to R464: the boot ROM's steps on one die, in order: its self-check and the keys fused, memory trained and zeroed, the first copy
that verifies taken into the die's L2, the dies' agreement, the limits of that copy locked, firmware entered at ENTRY; a failed step halts
the die with its cause. The FAILCODE of a failed self-check is free (log 104): no rule states it. R465, R466: the attestation requests are
answered from slot 0 once the attestation key exists, and with an error else. What STAGE shows between the steps is log entry 87, and that
the cryptography is opaque 88: the model's choices. -/
def Obligations.BootAndAttestation : Prop :=
  ∀ (s : State),
    let d := s.arg.die
    let x := s.die d
    let y := s.die (1 - d)
    (x.bootStage = 0 → s.arg.flag = false → (∃ b ∈ fuseEKH s, b ≠ 0) → (∃ b ∈ fuseLKH s, b ≠ 0) →
      exec .evBootRomStep s = .next (stageDone s d 1)) ∧
    (x.bootStage = 0 → s.arg.flag = false → (∀ b ∈ fuseEKH s, b = 0) ∨ (∀ b ∈ fuseLKH s, b = 0) →
      exec .evBootRomStep s = .next (haltDie s d 1)) ∧
    (x.bootStage = 0 → s.arg.flag = true → ∃ t c, exec .evBootRomStep s = .next t ∧ t.die d = { x with bootStage := 15, failcode := c } ∧
      t.die (1 - d) = y) ∧
    (x.bootStage = 1 → exec .evBootRomStep s = .next (if s.arg.flag then haltDie s d 8 else stageDone s d 2)) ∧
    (x.bootStage = 2 → ∃ t, exec .evBootRomStep s = .next t ∧ t = stageDone { s with dmem := t.dmem, stale := t.stale, rels := t.rels } d 3 ∧
      (∀ x, x ∈ t.stale ↔ x ∈ s.stale ∧ homeDie x.addr ≠ d) ∧
      (s.dmem.wf = true → ∀ a, a / 2 ^ 36 ≠ d.val → t.dmem.get a = s.dmem.get a) ∧
      (∀ a, a / 2 ^ 36 = d.val → t.dmem.get a = ⟨0, false⟩)) ∧
    (x.bootStage = 3 → ∃ t, exec .evBootRomStep s = .next t ∧ (t.die d).bootStage = 4 ∧
      (t.die d).bootImage = s.flash[0] ∧ (t.die d).copyB = false ∧
      (verifyCopy s s.flash[0] = none → (t.die d).bootDigest = some (Config.sha384 (imgSpan s.flash[0]))) ∧
      (verifyCopy s s.flash[0] ≠ none → (t.die d).bootDigest = x.bootDigest)) ∧
    (x.bootStage = 4 → x.bootDigest ≠ none → exec .evBootRomStep s = .next (stageDone s d 5)) ∧
    (x.bootStage = 4 → x.bootDigest = none → ∃ t, exec .evBootRomStep s = .next t ∧ (t.die d).copyB = true ∧
      (t.die d).bootImage = s.flash[1] ∧
      match verifyCopy s s.flash[1] with
      | none => (t.die d).bootStage = 5 ∧ (t.die d).bootDigest = some (Config.sha384 (imgSpan s.flash[1]))
      | some c => (t.die d).bootStage = 15 ∧ (t.die d).failcode = c) ∧
    (x.bootStage = 5 → 5 ≤ y.bootStage → y.bootStage ≠ 15 → x.copyB = y.copyB → x.bootDigest ≠ none → x.bootDigest = y.bootDigest →
      exec .evBootRomStep s = .next (stageDone s d 6)) ∧
    (x.bootStage = 5 → 5 ≤ y.bootStage → y.bootStage ≠ 15 → x.copyB ≠ y.copyB ∨ x.bootDigest ≠ y.bootDigest →
      exec .evBootRomStep s = .next (haltDie (haltDie s d 9) (1 - d) 9)) ∧
    (x.bootStage = 6 → s.measured = false → ∃ t, exec .evBootRomStep s = .next t ∧ (t.die d).bootStage = 7 ∧ t.measured = true ∧
      t.limits = lockedLimits s x.bootImage) ∧
    (x.bootStage = 7 → ∃ t, exec .evBootRomStep s = .next t ∧
      t.die d = { x with bootStage := 8, entry := some (BitVec.ofNat 32 (imgENTRY x.bootImage)) }) ∧
    (let answers := fun (r : Reply) => Host.Outcome.next (φ := Fault) (ρ := Refusal) { s with replies := s.replies ++ [r] }
    exec .evGetVersion s = answers (.version 1 2) ∧
    exec .evGetCapabilities s = answers .capabilities ∧
    exec .evNegotiateAlgorithms s = answers (.algorithms s.arg.flag) ∧
    (s.measured = false → exec .evGetDigests s = answers .spdmError ∧ exec .evGetCertificate s = answers .spdmError ∧
      exec .evChallenge s = answers .spdmError ∧ exec .evGetMeasurements s = answers .spdmError) ∧
    (s.measured = true →
      let key := Config.sha384 Config.rootCert = fuseAKH s
      exec .evGetDigests s =
        (if key then answers (.digests [Config.sha384 (Config.certChain (fuseUDS s) (runningDigest s))]) else answers .spdmError) ∧
      exec .evGetCertificate s =
        (if s.arg.n = 0 ∧ key then answers (.certificate (Config.certChain (fuseUDS s) (runningDigest s))) else answers .spdmError) ∧
      exec .evChallenge s =
        (if s.arg.n = 0 ∧ key then answers (.challengeAuth (Config.attest (fuseUDS s) (runningDigest s) (leBytes 32 s.arg.nonce.toNat)))
         else answers .spdmError)) ∧
    (s.measured = true → s.arg.n = 4 → exec .evGetMeasurements s = answers (.measurement 4
      (leBytes 1 s.limits.radiomin ++ leBytes 1 s.limits.tenmax ++ leBytes 1 s.limits.wdfloor ++ [0] ++ leBytes 4 s.limits.issfloor))) ∧
    (s.measured = true → s.arg.n = 6 → exec .evGetMeasurements s = answers .spdmError))

/-! ## An invariant of every step -/

/-- Whatever a step does, in any state whose memories are in canonical form, they stay so: equal memories are equal data. -/
def Obligations.StepKeepsMemoriesCanonical : Prop :=
  ∀ s t : State, s.memWf = true → step s = .next t → t.memWf = true

/-- The memories of the state after reset are in canonical form. -/
def Obligations.ResetMemoriesCanonical : Prop := State.reset.memWf = true
end

