-- ==== Sys2Proof/Laws/Bits.lean ====
section
/-!
SUPPORT. Bit fields of words put together from parts, and the way a word's major opcode leads to its decoder.
-/
namespace Sys2Proof

/-- A field inside the low part. -/
theorem fld_append_low {v w : Nat} (x : BitVec v) (y : BitVec w) (lo n : Nat) (h : lo + n ≤ w) :
    fld (x ++ y) lo n = fld y lo n := by
  simp only [fld]
  ext i hi
  simp [BitVec.getLsbD_append]
  intro; omega

/-- A field inside the high part. -/
theorem fld_append_high {v w : Nat} (x : BitVec v) (y : BitVec w) (lo n : Nat) (h : w ≤ lo) :
    fld (x ++ y) lo n = fld x (lo - w) n := by
  simp only [fld]
  ext i hi
  have h1 : ¬ (lo + i < w) := by omega
  have h2 : lo + i - w = lo - w + i := by omega
  simp [BitVec.getLsbD_append, h1, h2]

/-- The whole of a value. -/
theorem fld_full {n : Nat} (x : BitVec n) : fld x 0 n = x := by
  simp only [fld]
  ext i hi
  simp

/-- A field of a literal. -/
theorem fld_ofNat (m v lo n : Nat) : fld (BitVec.ofNat m v) lo n = BitVec.ofNat n (v % 2 ^ m / 2 ^ lo) := by
  apply BitVec.eq_of_toNat_eq
  simp [fld, BitVec.extractLsb'_toNat, Nat.shiftRight_eq_div_pow]

/-- A field of a field. -/
theorem fld_fld {m : Nat} (x : BitVec m) (lo n a b : Nat) (h : a + b ≤ n) : fld (fld x lo n) a b = fld x (lo + a) b := by
  simp only [fld]
  ext i hi
  have h1 : a + i < n := by omega
  simp [h1, Nat.add_assoc]

/-- The rules that read a field of a word put together from parts. -/
theorem flds :
    (∀ {v w : Nat} (x : BitVec v) (y : BitVec w) (lo n : Nat), lo + n ≤ w → fld (x ++ y) lo n = fld y lo n) ∧
    (∀ {v w : Nat} (x : BitVec v) (y : BitVec w) (lo n : Nat), w ≤ lo → fld (x ++ y) lo n = fld x (lo - w) n) ∧
    (∀ {n : Nat} (x : BitVec n), fld x 0 n = x) ∧
    (∀ m v lo n : Nat, fld (BitVec.ofNat m v) lo n = BitVec.ofNat n (v % 2 ^ m / 2 ^ lo)) ∧
    (∀ p : Prop, (p ∧ True) = p) ∧ (∀ p : Prop, (True ∧ p) = p) ∧ (∀ p : Prop, (p ∧ False) = False) ∧
    (∀ p : Prop, (False ∧ p) = False) :=
  ⟨fld_append_low, fld_append_high, fld_full, fld_ofNat, and_true, true_and, and_false, false_and⟩

/-! ## Majors (R151) -/

theorem decode_int {w : IWord} (h : fld w 22 6 = 0x0#6) (e : fld w 28 4 = 0) : decode w = decodeInt w := by
  unfold decode; rw [h]; exact if_pos e
theorem decode_imm {w : IWord} (h : fld w 22 6 = 0x1#6) (e : fld w 28 4 = 0) : decode w = decodeImm w := by
  unfold decode; rw [h]; exact if_pos e
theorem decode_mul {w : IWord} (h : fld w 22 6 = 0x2#6) (e : fld w 28 4 = 0) : decode w = decodeMul w := by
  unfold decode; rw [h]; exact if_pos e
theorem decode_cmp {w : IWord} (h : fld w 22 6 = 0x3#6) (e : fld w 28 4 = 0) : decode w = decodeCmp w := by
  unfold decode; rw [h]; exact if_pos e
theorem decode_branch {w : IWord} (h : fld w 22 6 = 0x4#6) (e : fld w 28 4 = 0) : decode w = decodeBranch w := by
  unfold decode; rw [h]; exact if_pos e
theorem decode_jump {w : IWord} (h : fld w 22 6 = 0x5#6) (e : fld w 28 4 = 0) : decode w = decodeJump w := by
  unfold decode; rw [h]; exact if_pos e
theorem decode_load {w : IWord} (h : fld w 22 6 = 0x6#6) (e : fld w 28 4 = 0) : decode w = decodeLoad w := by
  unfold decode; rw [h]; exact if_pos e
theorem decode_store {w : IWord} (h : fld w 22 6 = 0x7#6) (e : fld w 28 4 = 0) : decode w = decodeStore w := by
  unfold decode; rw [h]; exact if_pos e
theorem decode_atomic {w : IWord} (h : fld w 22 6 = 0x8#6) (e : fld w 28 4 = 0) : decode w = decodeAtomic w := by
  unfold decode; rw [h]; exact if_pos e
theorem decode_sync {w : IWord} (h : fld w 22 6 = 0x9#6) (e : fld w 28 4 = 0) : decode w = decodeSync w := by
  unfold decode; rw [h]; exact if_pos e
theorem decode_barrier {w : IWord} (h : fld w 22 6 = 0xa#6) (e : fld w 28 4 = 0) : decode w = decodeBarrier w := by
  unfold decode; rw [h]; exact if_pos e
theorem decode_window {w : IWord} (h : fld w 22 6 = 0xb#6) (e : fld w 28 4 = 0) : decode w = decodeWindow w := by
  unfold decode; rw [h]; exact if_pos e
theorem decode_csr {w : IWord} (h : fld w 22 6 = 0xc#6) (e : fld w 28 4 = 0) : decode w = decodeCsr w := by
  unfold decode; rw [h]; exact if_pos e
theorem decode_shape {w : IWord} (h : fld w 22 6 = 0xd#6) (e : fld w 28 4 = 0) : decode w = decodeShape w := by
  unfold decode; rw [h]; exact if_pos e
theorem decode_madder {w : IWord} (h : fld w 22 6 = 0xe#6) (e : fld w 28 4 = 0) : decode w = decodeMadder w := by
  unfold decode; rw [h]; exact if_pos e
theorem decode_cin {w : IWord} (h : fld w 22 6 = 0x10#6) : decode w = decodeCin w := by
  unfold decode; rw [h]; rfl
theorem decode_cnest {w : IWord} (h : fld w 22 6 = 0x11#6) : decode w = decodeCnest w := by
  unfold decode; rw [h]; rfl
theorem decode_cgath {w : IWord} (h : fld w 22 6 = 0x12#6) : decode w = decodeCgath w := by
  unfold decode; rw [h]; rfl
theorem decode_cpack {w : IWord} (h : fld w 22 6 = 0x13#6) : decode w = decodeCpack w := by
  unfold decode; rw [h]; rfl
theorem decode_cmcast {w : IWord} (h : fld w 22 6 = 0x14#6) : decode w = decodeCmcast w := by
  unfold decode; rw [h]; rfl
theorem decode_cfill {w : IWord} (h : fld w 22 6 = 0x15#6) : decode w = decodeCfill w := by
  unfold decode; rw [h]; rfl
theorem decode_mcfg {w : IWord} (h : fld w 22 6 = 0x18#6) : decode w = decodeMcfg w := by
  unfold decode; rw [h]; rfl
theorem decode_mwld {w : IWord} (h : fld w 22 6 = 0x19#6) : decode w = decodeMwld w := by
  unfold decode; rw [h]; rfl
theorem decode_mwswap {w : IWord} (h : fld w 22 6 = 0x1a#6) : decode w = decodeMwswap w := by
  unfold decode; rw [h]; rfl
theorem decode_mscl {w : IWord} (h : fld w 22 6 = 0x1b#6) : decode w = decodeMscl w := by
  unfold decode; rw [h]; rfl
theorem decode_mma {w : IWord} (h : fld w 22 6 = 0x1c#6) : decode w = decodeMma w := by
  unfold decode; rw [h]; rfl
theorem decode_mzero {w : IWord} (h : fld w 22 6 = 0x1d#6) : decode w = decodeMzero w := by
  unfold decode; rw [h]; rfl
theorem decode_mdrain {w : IWord} (h : fld w 22 6 = 0x1e#6) : decode w = decodeMdrain w := by
  unfold decode; rw [h]; rfl
theorem decode_scfg {w : IWord} (h : fld w 22 6 = 0x20#6) : decode w = decodeScfg w := by
  unfold decode; rw [h]; rfl
theorem decode_sdecay {w : IWord} (h : fld w 22 6 = 0x21#6) : decode w = decodeSdecay w := by
  unfold decode; rw [h]; rfl
theorem decode_schunk {w : IWord} (h : fld w 22 6 = 0x22#6) : decode w = decodeSchunk w := by
  unfold decode; rw [h]; rfl
theorem decode_sstep {w : IWord} (h : fld w 22 6 = 0x23#6) : decode w = decodeSstep w := by
  unfold decode; rw [h]; rfl
theorem decode_sout {w : IWord} (h : fld w 22 6 = 0x24#6) : decode w = decodeSout w := by
  unfold decode; rw [h]; rfl
theorem decode_sver {w : IWord} (h : fld w 22 6 = 0x25#6) : decode w = decodeSver w := by
  unfold decode; rw [h]; rfl
theorem decode_spair {w : IWord} (h : fld w 22 6 = 0x26#6) : decode w = decodeSpair w := by
  unfold decode; rw [h]; rfl
theorem decode_vmem {w : IWord} (h : fld w 22 6 = 0x28#6) : decode w = decodeVmem w := by
  unfold decode; rw [h]; rfl
theorem decode_lanef {w : IWord} (h : fld w 22 6 = 0x29#6) : decode w = decodeLaneF w := by
  unfold decode; rw [h]; rfl
theorem decode_lanei {w : IWord} (h : fld w 22 6 = 0x2a#6) : decode w = decodeLaneI w := by
  unfold decode; rw [h]; rfl
theorem decode_mask {w : IWord} (h : fld w 22 6 = 0x2b#6) : decode w = decodeMask w := by
  unfold decode; rw [h]; rfl
theorem decode_row {w : IWord} (h : fld w 22 6 = 0x2c#6) : decode w = decodeRow w := by
  unfold decode; rw [h]; rfl
theorem decode_col {w : IWord} (h : fld w 22 6 = 0x2d#6) : decode w = decodeCol w := by
  unfold decode; rw [h]; rfl
theorem decode_move {w : IWord} (h : fld w 22 6 = 0x2e#6) : decode w = decodeMove w := by
  unfold decode; rw [h]; rfl
theorem decode_vsf {w : IWord} (h : fld w 22 6 = 0x2f#6) : decode w = decodeVsf w := by
  unfold decode; rw [h]; rfl
theorem decode_recip {w : IWord} (h : fld w 22 6 = 0x30#6) : decode w = decodeRecip w := by
  unfold decode; rw [h]; rfl
theorem decode_vcvt {w : IWord} (h : fld w 22 6 = 0x31#6) : decode w = decodeVcvt w := by
  unfold decode; rw [h]; rfl
theorem decode_select {w : IWord} (h : fld w 22 6 = 0x32#6) : decode w = decodeSelect w := by
  unfold decode; rw [h]; rfl
theorem decode_park {w : IWord} (h : fld w 22 6 = 0x33#6) : decode w = decodePark w := by
  unfold decode; rw [h]; rfl
theorem decode_cout {w : IWord} (h : fld w 22 6 = 0x34#6) : decode w = decodeCout w := by
  unfold decode; rw [h]; rfl
theorem decode_cred {w : IWord} (h : fld w 22 6 = 0x35#6) : decode w = decodeCred w := by
  unfold decode; rw [h]; rfl
theorem decode_cstrm {w : IWord} (h : fld w 22 6 = 0x36#6) : decode w = decodeCstrm w := by
  unfold decode; rw [h]; rfl
theorem decode_cnesto {w : IWord} (h : fld w 22 6 = 0x37#6) : decode w = decodeCnesto w := by
  unfold decode; rw [h]; rfl
theorem decode_ox {w : IWord} (h : fld w 22 6 = 0x38#6) : decode w = decodeOx w := by
  unfold decode; rw [h]; rfl
theorem decode_ochre {w : IWord} (h : fld w 22 6 = 0x39#6) : decode w = decodeOchre w := by
  unfold decode; rw [h]; rfl
theorem decode_request {w : IWord} (h : fld w 22 6 = 0x3c#6) (e : fld w 28 4 = 0) : decode w = decodeRequest w := by
  unfold decode; rw [h]; exact if_pos e
theorem decode_sys {w : IWord} (h : fld w 22 6 = 0x3d#6) (e : fld w 28 4 = 0) : decode w = decodeSys w := by
  unfold decode; rw [h]; exact if_pos e
theorem decode_limm {w : IWord} (h : fld w 22 6 = 0x3f#6) (e : fld w 28 4 = 0) : decode w = decodeLimm w := by
  unfold decode; rw [h]; exact if_pos e

end Sys2Proof
end

