-- ==== Sys2Proof/Laws/State.lean ====
section
/-!
SUPPORT. One lemma per field per update: what the accessors of State and Ctx read after each of the named updates, and the
accessor laws of contexts, registers, predicates, tokens and queues.
-/
namespace Sys2Proof.Machine

/-! ## Updates of State, field by field -/

@[simp] theorem State.setCtx_cores (s : State) (k : CtxId) (c : Ctx) : (s.setCtx k c).cores = s.cores := rfl
@[simp] theorem State.setCtx_dies (s : State) (k : CtxId) (c : Ctx) : (s.setCtx k c).dies = s.dies := rfl
@[simp] theorem State.setCtx_dmem (s : State) (k : CtxId) (c : Ctx) : (s.setCtx k c).dmem = s.dmem := rfl
@[simp] theorem State.setCtx_early (s : State) (k : CtxId) (c : Ctx) : (s.setCtx k c).early = s.early := rfl
@[simp] theorem State.setCtx_stale (s : State) (k : CtxId) (c : Ctx) : (s.setCtx k c).stale = s.stale := rfl
@[simp] theorem State.setCtx_posts (s : State) (k : CtxId) (c : Ctx) : (s.setCtx k c).posts = s.posts := rfl
@[simp] theorem State.setCtx_rels (s : State) (k : CtxId) (c : Ctx) : (s.setCtx k c).rels = s.rels := rfl
@[simp] theorem State.setCtx_memErrors (s : State) (k : CtxId) (c : Ctx) : (s.setCtx k c).memErrors = s.memErrors := rfl
@[simp] theorem State.setCtx_eccCount (s : State) (k : CtxId) (c : Ctx) : (s.setCtx k c).eccCount = s.eccCount := rfl
@[simp] theorem State.setCtx_eccReports (s : State) (k : CtxId) (c : Ctx) : (s.setCtx k c).eccReports = s.eccReports := rfl
@[simp] theorem State.setCtx_tsc (s : State) (k : CtxId) (c : Ctx) : (s.setCtx k c).tsc = s.tsc := rfl
@[simp] theorem State.setCtx_tscFrac (s : State) (k : CtxId) (c : Ctx) : (s.setCtx k c).tscFrac = s.tscFrac := rfl
@[simp] theorem State.setCtx_adj (s : State) (k : CtxId) (c : Ctx) : (s.setCtx k c).adj = s.adj := rfl
@[simp] theorem State.setCtx_tspps (s : State) (k : CtxId) (c : Ctx) : (s.setCtx k c).tspps = s.tspps := rfl
@[simp] theorem State.setCtx_parts (s : State) (k : CtxId) (c : Ctx) : (s.setCtx k c).parts = s.parts := rfl
@[simp] theorem State.setCtx_lend (s : State) (k : CtxId) (c : Ctx) : (s.setCtx k c).lend = s.lend := rfl
@[simp] theorem State.setCtx_rsplit (s : State) (k : CtxId) (c : Ctx) : (s.setCtx k c).rsplit = s.rsplit := rfl
@[simp] theorem State.setCtx_rctx (s : State) (k : CtxId) (c : Ctx) : (s.setCtx k c).rctx = s.rctx := rfl
@[simp] theorem State.setCtx_phase (s : State) (k : CtxId) (c : Ctx) : (s.setCtx k c).phase = s.phase := rfl
@[simp] theorem State.setCtx_len (s : State) (k : CtxId) (c : Ctx) : (s.setCtx k c).len = s.len := rfl
@[simp] theorem State.setCtx_period (s : State) (k : CtxId) (c : Ctx) : (s.setCtx k c).period = s.period := rfl
@[simp] theorem State.setCtx_killgap (s : State) (k : CtxId) (c : Ctx) : (s.setCtx k c).killgap = s.killgap := rfl
@[simp] theorem State.setCtx_drainmax (s : State) (k : CtxId) (c : Ctx) : (s.setCtx k c).drainmax = s.drainmax := rfl
@[simp] theorem State.setCtx_limits (s : State) (k : CtxId) (c : Ctx) : (s.setCtx k c).limits = s.limits := rfl
@[simp] theorem State.setCtx_hqueues (s : State) (k : CtxId) (c : Ctx) : (s.setCtx k c).hqueues = s.hqueues := rfl
@[simp] theorem State.setCtx_tasks (s : State) (k : CtxId) (c : Ctx) : (s.setCtx k c).tasks = s.tasks := rfl
@[simp] theorem State.setCtx_pendingList (s : State) (k : CtxId) (c : Ctx) : (s.setCtx k c).pendingList = s.pendingList := rfl
@[simp] theorem State.setCtx_msi (s : State) (k : CtxId) (c : Ctx) : (s.setCtx k c).msi = s.msi := rfl
@[simp] theorem State.setCtx_msix (s : State) (k : CtxId) (c : Ctx) : (s.setCtx k c).msix = s.msix := rfl
@[simp] theorem State.setCtx_msixPending (s : State) (k : CtxId) (c : Ctx) : (s.setCtx k c).msixPending = s.msixPending := rfl
@[simp] theorem State.setCtx_aerUncorr (s : State) (k : CtxId) (c : Ctx) : (s.setCtx k c).aerUncorr = s.aerUncorr := rfl
@[simp] theorem State.setCtx_aerCorr (s : State) (k : CtxId) (c : Ctx) : (s.setCtx k c).aerCorr = s.aerCorr := rfl
@[simp] theorem State.setCtx_sent (s : State) (k : CtxId) (c : Ctx) : (s.setCtx k c).sent = s.sent := rfl
@[simp] theorem State.setCtx_steering (s : State) (k : CtxId) (c : Ctx) : (s.setCtx k c).steering = s.steering := rfl
@[simp] theorem State.setCtx_steerClaims (s : State) (k : CtxId) (c : Ctx) : (s.setCtx k c).steerClaims = s.steerClaims := rfl
@[simp] theorem State.setCtx_unsteered (s : State) (k : CtxId) (c : Ctx) : (s.setCtx k c).unsteered = s.unsteered := rfl
@[simp] theorem State.setCtx_fhSpeed (s : State) (k : CtxId) (c : Ctx) : (s.setCtx k c).fhSpeed = s.fhSpeed := rfl
@[simp] theorem State.setCtx_fhFrames (s : State) (k : CtxId) (c : Ctx) : (s.setCtx k c).fhFrames = s.fhFrames := rfl
@[simp] theorem State.setCtx_fhDrops (s : State) (k : CtxId) (c : Ctx) : (s.setCtx k c).fhDrops = s.fhDrops := rfl
@[simp] theorem State.setCtx_toHost (s : State) (k : CtxId) (c : Ctx) : (s.setCtx k c).toHost = s.toHost := rfl
@[simp] theorem State.setCtx_txStamps (s : State) (k : CtxId) (c : Ctx) : (s.setCtx k c).txStamps = s.txStamps := rfl
@[simp] theorem State.setCtx_bports (s : State) (k : CtxId) (c : Ctx) : (s.setCtx k c).bports = s.bports := rfl
@[simp] theorem State.setCtx_flitErrors (s : State) (k : CtxId) (c : Ctx) : (s.setCtx k c).flitErrors = s.flitErrors := rfl
@[simp] theorem State.setCtx_snapat (s : State) (k : CtxId) (c : Ctx) : (s.setCtx k c).snapat = s.snapat := rfl
@[simp] theorem State.setCtx_snapshot (s : State) (k : CtxId) (c : Ctx) : (s.setCtx k c).snapshot = s.snapshot := rfl
@[simp] theorem State.setCtx_snapArmed (s : State) (k : CtxId) (c : Ctx) : (s.setCtx k c).snapArmed = s.snapArmed := rfl
@[simp] theorem State.setCtx_snapLast (s : State) (k : CtxId) (c : Ctx) : (s.setCtx k c).snapLast = s.snapLast := rfl
@[simp] theorem State.setCtx_replies (s : State) (k : CtxId) (c : Ctx) : (s.setCtx k c).replies = s.replies := rfl
@[simp] theorem State.setCtx_fuses (s : State) (k : CtxId) (c : Ctx) : (s.setCtx k c).fuses = s.fuses := rfl
@[simp] theorem State.setCtx_flash (s : State) (k : CtxId) (c : Ctx) : (s.setCtx k c).flash = s.flash := rfl
@[simp] theorem State.setCtx_measured (s : State) (k : CtxId) (c : Ctx) : (s.setCtx k c).measured = s.measured := rfl
@[simp] theorem State.setCtx_hostMem (s : State) (k : CtxId) (c : Ctx) : (s.setCtx k c).hostMem = s.hostMem := rfl
@[simp] theorem State.setCtx_hostRefused (s : State) (k : CtxId) (c : Ctx) : (s.setCtx k c).hostRefused = s.hostRefused := rfl
@[simp] theorem State.setCtx_peerMem (s : State) (k : CtxId) (c : Ctx) : (s.setCtx k c).peerMem = s.peerMem := rfl
@[simp] theorem State.setCtx_peerWin (s : State) (k : CtxId) (c : Ctx) : (s.setCtx k c).peerWin = s.peerWin := rfl
@[simp] theorem State.setCtx_clock (s : State) (k : CtxId) (c : Ctx) : (s.setCtx k c).clock = s.clock := rfl
@[simp] theorem State.setCtx_marks (s : State) (k : CtxId) (c : Ctx) : (s.setCtx k c).marks = s.marks := rfl
@[simp] theorem State.setCtx_src (s : State) (k : CtxId) (c : Ctx) : (s.setCtx k c).src = s.src := rfl
@[simp] theorem State.setCtx_writer (s : State) (k : CtxId) (c : Ctx) : (s.setCtx k c).writer = s.writer := rfl
@[simp] theorem State.setCtx_late (s : State) (k : CtxId) (c : Ctx) : (s.setCtx k c).late = s.late := rfl
@[simp] theorem State.setCtx_agenda (s : State) (k : CtxId) (c : Ctx) : (s.setCtx k c).agenda = s.agenda := rfl
@[simp] theorem State.setCtx_cur (s : State) (k : CtxId) (c : Ctx) : (s.setCtx k c).cur = s.cur := rfl
@[simp] theorem State.setCtx_arg (s : State) (k : CtxId) (c : Ctx) : (s.setCtx k c).arg = s.arg := rfl
@[simp] theorem State.setCtx_fresh (s : State) (k : CtxId) (c : Ctx) : (s.setCtx k c).fresh = s.fresh := rfl
@[simp] theorem State.modCtx_cores (s : State) (k : CtxId) (f : Ctx → Ctx) : (s.modCtx k f).cores = s.cores := rfl
@[simp] theorem State.modCtx_dies (s : State) (k : CtxId) (f : Ctx → Ctx) : (s.modCtx k f).dies = s.dies := rfl
@[simp] theorem State.modCtx_dmem (s : State) (k : CtxId) (f : Ctx → Ctx) : (s.modCtx k f).dmem = s.dmem := rfl
@[simp] theorem State.modCtx_early (s : State) (k : CtxId) (f : Ctx → Ctx) : (s.modCtx k f).early = s.early := rfl
@[simp] theorem State.modCtx_stale (s : State) (k : CtxId) (f : Ctx → Ctx) : (s.modCtx k f).stale = s.stale := rfl
@[simp] theorem State.modCtx_posts (s : State) (k : CtxId) (f : Ctx → Ctx) : (s.modCtx k f).posts = s.posts := rfl
@[simp] theorem State.modCtx_rels (s : State) (k : CtxId) (f : Ctx → Ctx) : (s.modCtx k f).rels = s.rels := rfl
@[simp] theorem State.modCtx_memErrors (s : State) (k : CtxId) (f : Ctx → Ctx) : (s.modCtx k f).memErrors = s.memErrors := rfl
@[simp] theorem State.modCtx_eccCount (s : State) (k : CtxId) (f : Ctx → Ctx) : (s.modCtx k f).eccCount = s.eccCount := rfl
@[simp] theorem State.modCtx_eccReports (s : State) (k : CtxId) (f : Ctx → Ctx) : (s.modCtx k f).eccReports = s.eccReports := rfl
@[simp] theorem State.modCtx_tsc (s : State) (k : CtxId) (f : Ctx → Ctx) : (s.modCtx k f).tsc = s.tsc := rfl
@[simp] theorem State.modCtx_tscFrac (s : State) (k : CtxId) (f : Ctx → Ctx) : (s.modCtx k f).tscFrac = s.tscFrac := rfl
@[simp] theorem State.modCtx_adj (s : State) (k : CtxId) (f : Ctx → Ctx) : (s.modCtx k f).adj = s.adj := rfl
@[simp] theorem State.modCtx_tspps (s : State) (k : CtxId) (f : Ctx → Ctx) : (s.modCtx k f).tspps = s.tspps := rfl
@[simp] theorem State.modCtx_parts (s : State) (k : CtxId) (f : Ctx → Ctx) : (s.modCtx k f).parts = s.parts := rfl
@[simp] theorem State.modCtx_lend (s : State) (k : CtxId) (f : Ctx → Ctx) : (s.modCtx k f).lend = s.lend := rfl
@[simp] theorem State.modCtx_rsplit (s : State) (k : CtxId) (f : Ctx → Ctx) : (s.modCtx k f).rsplit = s.rsplit := rfl
@[simp] theorem State.modCtx_rctx (s : State) (k : CtxId) (f : Ctx → Ctx) : (s.modCtx k f).rctx = s.rctx := rfl
@[simp] theorem State.modCtx_phase (s : State) (k : CtxId) (f : Ctx → Ctx) : (s.modCtx k f).phase = s.phase := rfl
@[simp] theorem State.modCtx_len (s : State) (k : CtxId) (f : Ctx → Ctx) : (s.modCtx k f).len = s.len := rfl
@[simp] theorem State.modCtx_period (s : State) (k : CtxId) (f : Ctx → Ctx) : (s.modCtx k f).period = s.period := rfl
@[simp] theorem State.modCtx_killgap (s : State) (k : CtxId) (f : Ctx → Ctx) : (s.modCtx k f).killgap = s.killgap := rfl
@[simp] theorem State.modCtx_drainmax (s : State) (k : CtxId) (f : Ctx → Ctx) : (s.modCtx k f).drainmax = s.drainmax := rfl
@[simp] theorem State.modCtx_limits (s : State) (k : CtxId) (f : Ctx → Ctx) : (s.modCtx k f).limits = s.limits := rfl
@[simp] theorem State.modCtx_hqueues (s : State) (k : CtxId) (f : Ctx → Ctx) : (s.modCtx k f).hqueues = s.hqueues := rfl
@[simp] theorem State.modCtx_tasks (s : State) (k : CtxId) (f : Ctx → Ctx) : (s.modCtx k f).tasks = s.tasks := rfl
@[simp] theorem State.modCtx_pendingList (s : State) (k : CtxId) (f : Ctx → Ctx) : (s.modCtx k f).pendingList = s.pendingList := rfl
@[simp] theorem State.modCtx_msi (s : State) (k : CtxId) (f : Ctx → Ctx) : (s.modCtx k f).msi = s.msi := rfl
@[simp] theorem State.modCtx_msix (s : State) (k : CtxId) (f : Ctx → Ctx) : (s.modCtx k f).msix = s.msix := rfl
@[simp] theorem State.modCtx_msixPending (s : State) (k : CtxId) (f : Ctx → Ctx) : (s.modCtx k f).msixPending = s.msixPending := rfl
@[simp] theorem State.modCtx_aerUncorr (s : State) (k : CtxId) (f : Ctx → Ctx) : (s.modCtx k f).aerUncorr = s.aerUncorr := rfl
@[simp] theorem State.modCtx_aerCorr (s : State) (k : CtxId) (f : Ctx → Ctx) : (s.modCtx k f).aerCorr = s.aerCorr := rfl
@[simp] theorem State.modCtx_sent (s : State) (k : CtxId) (f : Ctx → Ctx) : (s.modCtx k f).sent = s.sent := rfl
@[simp] theorem State.modCtx_steering (s : State) (k : CtxId) (f : Ctx → Ctx) : (s.modCtx k f).steering = s.steering := rfl
@[simp] theorem State.modCtx_steerClaims (s : State) (k : CtxId) (f : Ctx → Ctx) : (s.modCtx k f).steerClaims = s.steerClaims := rfl
@[simp] theorem State.modCtx_unsteered (s : State) (k : CtxId) (f : Ctx → Ctx) : (s.modCtx k f).unsteered = s.unsteered := rfl
@[simp] theorem State.modCtx_fhSpeed (s : State) (k : CtxId) (f : Ctx → Ctx) : (s.modCtx k f).fhSpeed = s.fhSpeed := rfl
@[simp] theorem State.modCtx_fhFrames (s : State) (k : CtxId) (f : Ctx → Ctx) : (s.modCtx k f).fhFrames = s.fhFrames := rfl
@[simp] theorem State.modCtx_fhDrops (s : State) (k : CtxId) (f : Ctx → Ctx) : (s.modCtx k f).fhDrops = s.fhDrops := rfl
@[simp] theorem State.modCtx_toHost (s : State) (k : CtxId) (f : Ctx → Ctx) : (s.modCtx k f).toHost = s.toHost := rfl
@[simp] theorem State.modCtx_txStamps (s : State) (k : CtxId) (f : Ctx → Ctx) : (s.modCtx k f).txStamps = s.txStamps := rfl
@[simp] theorem State.modCtx_bports (s : State) (k : CtxId) (f : Ctx → Ctx) : (s.modCtx k f).bports = s.bports := rfl
@[simp] theorem State.modCtx_flitErrors (s : State) (k : CtxId) (f : Ctx → Ctx) : (s.modCtx k f).flitErrors = s.flitErrors := rfl
@[simp] theorem State.modCtx_snapat (s : State) (k : CtxId) (f : Ctx → Ctx) : (s.modCtx k f).snapat = s.snapat := rfl
@[simp] theorem State.modCtx_snapshot (s : State) (k : CtxId) (f : Ctx → Ctx) : (s.modCtx k f).snapshot = s.snapshot := rfl
@[simp] theorem State.modCtx_snapArmed (s : State) (k : CtxId) (f : Ctx → Ctx) : (s.modCtx k f).snapArmed = s.snapArmed := rfl
@[simp] theorem State.modCtx_snapLast (s : State) (k : CtxId) (f : Ctx → Ctx) : (s.modCtx k f).snapLast = s.snapLast := rfl
@[simp] theorem State.modCtx_replies (s : State) (k : CtxId) (f : Ctx → Ctx) : (s.modCtx k f).replies = s.replies := rfl
@[simp] theorem State.modCtx_fuses (s : State) (k : CtxId) (f : Ctx → Ctx) : (s.modCtx k f).fuses = s.fuses := rfl
@[simp] theorem State.modCtx_flash (s : State) (k : CtxId) (f : Ctx → Ctx) : (s.modCtx k f).flash = s.flash := rfl
@[simp] theorem State.modCtx_measured (s : State) (k : CtxId) (f : Ctx → Ctx) : (s.modCtx k f).measured = s.measured := rfl
@[simp] theorem State.modCtx_hostMem (s : State) (k : CtxId) (f : Ctx → Ctx) : (s.modCtx k f).hostMem = s.hostMem := rfl
@[simp] theorem State.modCtx_hostRefused (s : State) (k : CtxId) (f : Ctx → Ctx) : (s.modCtx k f).hostRefused = s.hostRefused := rfl
@[simp] theorem State.modCtx_peerMem (s : State) (k : CtxId) (f : Ctx → Ctx) : (s.modCtx k f).peerMem = s.peerMem := rfl
@[simp] theorem State.modCtx_peerWin (s : State) (k : CtxId) (f : Ctx → Ctx) : (s.modCtx k f).peerWin = s.peerWin := rfl
@[simp] theorem State.modCtx_clock (s : State) (k : CtxId) (f : Ctx → Ctx) : (s.modCtx k f).clock = s.clock := rfl
@[simp] theorem State.modCtx_marks (s : State) (k : CtxId) (f : Ctx → Ctx) : (s.modCtx k f).marks = s.marks := rfl
@[simp] theorem State.modCtx_src (s : State) (k : CtxId) (f : Ctx → Ctx) : (s.modCtx k f).src = s.src := rfl
@[simp] theorem State.modCtx_writer (s : State) (k : CtxId) (f : Ctx → Ctx) : (s.modCtx k f).writer = s.writer := rfl
@[simp] theorem State.modCtx_late (s : State) (k : CtxId) (f : Ctx → Ctx) : (s.modCtx k f).late = s.late := rfl
@[simp] theorem State.modCtx_agenda (s : State) (k : CtxId) (f : Ctx → Ctx) : (s.modCtx k f).agenda = s.agenda := rfl
@[simp] theorem State.modCtx_cur (s : State) (k : CtxId) (f : Ctx → Ctx) : (s.modCtx k f).cur = s.cur := rfl
@[simp] theorem State.modCtx_arg (s : State) (k : CtxId) (f : Ctx → Ctx) : (s.modCtx k f).arg = s.arg := rfl
@[simp] theorem State.modCtx_fresh (s : State) (k : CtxId) (f : Ctx → Ctx) : (s.modCtx k f).fresh = s.fresh := rfl
@[simp] theorem State.setCore_ctxs (s : State) (c : CoreId) (x : Core) : (s.setCore c x).ctxs = s.ctxs := rfl
@[simp] theorem State.setCore_dies (s : State) (c : CoreId) (x : Core) : (s.setCore c x).dies = s.dies := rfl
@[simp] theorem State.setCore_dmem (s : State) (c : CoreId) (x : Core) : (s.setCore c x).dmem = s.dmem := rfl
@[simp] theorem State.setCore_early (s : State) (c : CoreId) (x : Core) : (s.setCore c x).early = s.early := rfl
@[simp] theorem State.setCore_stale (s : State) (c : CoreId) (x : Core) : (s.setCore c x).stale = s.stale := rfl
@[simp] theorem State.setCore_posts (s : State) (c : CoreId) (x : Core) : (s.setCore c x).posts = s.posts := rfl
@[simp] theorem State.setCore_rels (s : State) (c : CoreId) (x : Core) : (s.setCore c x).rels = s.rels := rfl
@[simp] theorem State.setCore_memErrors (s : State) (c : CoreId) (x : Core) : (s.setCore c x).memErrors = s.memErrors := rfl
@[simp] theorem State.setCore_eccCount (s : State) (c : CoreId) (x : Core) : (s.setCore c x).eccCount = s.eccCount := rfl
@[simp] theorem State.setCore_eccReports (s : State) (c : CoreId) (x : Core) : (s.setCore c x).eccReports = s.eccReports := rfl
@[simp] theorem State.setCore_tsc (s : State) (c : CoreId) (x : Core) : (s.setCore c x).tsc = s.tsc := rfl
@[simp] theorem State.setCore_tscFrac (s : State) (c : CoreId) (x : Core) : (s.setCore c x).tscFrac = s.tscFrac := rfl
@[simp] theorem State.setCore_adj (s : State) (c : CoreId) (x : Core) : (s.setCore c x).adj = s.adj := rfl
@[simp] theorem State.setCore_tspps (s : State) (c : CoreId) (x : Core) : (s.setCore c x).tspps = s.tspps := rfl
@[simp] theorem State.setCore_parts (s : State) (c : CoreId) (x : Core) : (s.setCore c x).parts = s.parts := rfl
@[simp] theorem State.setCore_lend (s : State) (c : CoreId) (x : Core) : (s.setCore c x).lend = s.lend := rfl
@[simp] theorem State.setCore_rsplit (s : State) (c : CoreId) (x : Core) : (s.setCore c x).rsplit = s.rsplit := rfl
@[simp] theorem State.setCore_rctx (s : State) (c : CoreId) (x : Core) : (s.setCore c x).rctx = s.rctx := rfl
@[simp] theorem State.setCore_phase (s : State) (c : CoreId) (x : Core) : (s.setCore c x).phase = s.phase := rfl
@[simp] theorem State.setCore_len (s : State) (c : CoreId) (x : Core) : (s.setCore c x).len = s.len := rfl
@[simp] theorem State.setCore_period (s : State) (c : CoreId) (x : Core) : (s.setCore c x).period = s.period := rfl
@[simp] theorem State.setCore_killgap (s : State) (c : CoreId) (x : Core) : (s.setCore c x).killgap = s.killgap := rfl
@[simp] theorem State.setCore_drainmax (s : State) (c : CoreId) (x : Core) : (s.setCore c x).drainmax = s.drainmax := rfl
@[simp] theorem State.setCore_limits (s : State) (c : CoreId) (x : Core) : (s.setCore c x).limits = s.limits := rfl
@[simp] theorem State.setCore_hqueues (s : State) (c : CoreId) (x : Core) : (s.setCore c x).hqueues = s.hqueues := rfl
@[simp] theorem State.setCore_tasks (s : State) (c : CoreId) (x : Core) : (s.setCore c x).tasks = s.tasks := rfl
@[simp] theorem State.setCore_pendingList (s : State) (c : CoreId) (x : Core) : (s.setCore c x).pendingList = s.pendingList := rfl
@[simp] theorem State.setCore_msi (s : State) (c : CoreId) (x : Core) : (s.setCore c x).msi = s.msi := rfl
@[simp] theorem State.setCore_msix (s : State) (c : CoreId) (x : Core) : (s.setCore c x).msix = s.msix := rfl
@[simp] theorem State.setCore_msixPending (s : State) (c : CoreId) (x : Core) : (s.setCore c x).msixPending = s.msixPending := rfl
@[simp] theorem State.setCore_aerUncorr (s : State) (c : CoreId) (x : Core) : (s.setCore c x).aerUncorr = s.aerUncorr := rfl
@[simp] theorem State.setCore_aerCorr (s : State) (c : CoreId) (x : Core) : (s.setCore c x).aerCorr = s.aerCorr := rfl
@[simp] theorem State.setCore_sent (s : State) (c : CoreId) (x : Core) : (s.setCore c x).sent = s.sent := rfl
@[simp] theorem State.setCore_steering (s : State) (c : CoreId) (x : Core) : (s.setCore c x).steering = s.steering := rfl
@[simp] theorem State.setCore_steerClaims (s : State) (c : CoreId) (x : Core) : (s.setCore c x).steerClaims = s.steerClaims := rfl
@[simp] theorem State.setCore_unsteered (s : State) (c : CoreId) (x : Core) : (s.setCore c x).unsteered = s.unsteered := rfl
@[simp] theorem State.setCore_fhSpeed (s : State) (c : CoreId) (x : Core) : (s.setCore c x).fhSpeed = s.fhSpeed := rfl
@[simp] theorem State.setCore_fhFrames (s : State) (c : CoreId) (x : Core) : (s.setCore c x).fhFrames = s.fhFrames := rfl
@[simp] theorem State.setCore_fhDrops (s : State) (c : CoreId) (x : Core) : (s.setCore c x).fhDrops = s.fhDrops := rfl
@[simp] theorem State.setCore_toHost (s : State) (c : CoreId) (x : Core) : (s.setCore c x).toHost = s.toHost := rfl
@[simp] theorem State.setCore_txStamps (s : State) (c : CoreId) (x : Core) : (s.setCore c x).txStamps = s.txStamps := rfl
@[simp] theorem State.setCore_bports (s : State) (c : CoreId) (x : Core) : (s.setCore c x).bports = s.bports := rfl
@[simp] theorem State.setCore_flitErrors (s : State) (c : CoreId) (x : Core) : (s.setCore c x).flitErrors = s.flitErrors := rfl
@[simp] theorem State.setCore_snapat (s : State) (c : CoreId) (x : Core) : (s.setCore c x).snapat = s.snapat := rfl
@[simp] theorem State.setCore_snapshot (s : State) (c : CoreId) (x : Core) : (s.setCore c x).snapshot = s.snapshot := rfl
@[simp] theorem State.setCore_snapArmed (s : State) (c : CoreId) (x : Core) : (s.setCore c x).snapArmed = s.snapArmed := rfl
@[simp] theorem State.setCore_snapLast (s : State) (c : CoreId) (x : Core) : (s.setCore c x).snapLast = s.snapLast := rfl
@[simp] theorem State.setCore_replies (s : State) (c : CoreId) (x : Core) : (s.setCore c x).replies = s.replies := rfl
@[simp] theorem State.setCore_fuses (s : State) (c : CoreId) (x : Core) : (s.setCore c x).fuses = s.fuses := rfl
@[simp] theorem State.setCore_flash (s : State) (c : CoreId) (x : Core) : (s.setCore c x).flash = s.flash := rfl
@[simp] theorem State.setCore_measured (s : State) (c : CoreId) (x : Core) : (s.setCore c x).measured = s.measured := rfl
@[simp] theorem State.setCore_hostMem (s : State) (c : CoreId) (x : Core) : (s.setCore c x).hostMem = s.hostMem := rfl
@[simp] theorem State.setCore_hostRefused (s : State) (c : CoreId) (x : Core) : (s.setCore c x).hostRefused = s.hostRefused := rfl
@[simp] theorem State.setCore_peerMem (s : State) (c : CoreId) (x : Core) : (s.setCore c x).peerMem = s.peerMem := rfl
@[simp] theorem State.setCore_peerWin (s : State) (c : CoreId) (x : Core) : (s.setCore c x).peerWin = s.peerWin := rfl
@[simp] theorem State.setCore_clock (s : State) (c : CoreId) (x : Core) : (s.setCore c x).clock = s.clock := rfl
@[simp] theorem State.setCore_marks (s : State) (c : CoreId) (x : Core) : (s.setCore c x).marks = s.marks := rfl
@[simp] theorem State.setCore_src (s : State) (c : CoreId) (x : Core) : (s.setCore c x).src = s.src := rfl
@[simp] theorem State.setCore_writer (s : State) (c : CoreId) (x : Core) : (s.setCore c x).writer = s.writer := rfl
@[simp] theorem State.setCore_late (s : State) (c : CoreId) (x : Core) : (s.setCore c x).late = s.late := rfl
@[simp] theorem State.setCore_agenda (s : State) (c : CoreId) (x : Core) : (s.setCore c x).agenda = s.agenda := rfl
@[simp] theorem State.setCore_cur (s : State) (c : CoreId) (x : Core) : (s.setCore c x).cur = s.cur := rfl
@[simp] theorem State.setCore_arg (s : State) (c : CoreId) (x : Core) : (s.setCore c x).arg = s.arg := rfl
@[simp] theorem State.setCore_fresh (s : State) (c : CoreId) (x : Core) : (s.setCore c x).fresh = s.fresh := rfl
@[simp] theorem State.setDie_ctxs (s : State) (d : DieId) (x : Die) : (s.setDie d x).ctxs = s.ctxs := rfl
@[simp] theorem State.setDie_cores (s : State) (d : DieId) (x : Die) : (s.setDie d x).cores = s.cores := rfl
@[simp] theorem State.setDie_dmem (s : State) (d : DieId) (x : Die) : (s.setDie d x).dmem = s.dmem := rfl
@[simp] theorem State.setDie_early (s : State) (d : DieId) (x : Die) : (s.setDie d x).early = s.early := rfl
@[simp] theorem State.setDie_stale (s : State) (d : DieId) (x : Die) : (s.setDie d x).stale = s.stale := rfl
@[simp] theorem State.setDie_posts (s : State) (d : DieId) (x : Die) : (s.setDie d x).posts = s.posts := rfl
@[simp] theorem State.setDie_rels (s : State) (d : DieId) (x : Die) : (s.setDie d x).rels = s.rels := rfl
@[simp] theorem State.setDie_memErrors (s : State) (d : DieId) (x : Die) : (s.setDie d x).memErrors = s.memErrors := rfl
@[simp] theorem State.setDie_eccCount (s : State) (d : DieId) (x : Die) : (s.setDie d x).eccCount = s.eccCount := rfl
@[simp] theorem State.setDie_eccReports (s : State) (d : DieId) (x : Die) : (s.setDie d x).eccReports = s.eccReports := rfl
@[simp] theorem State.setDie_tsc (s : State) (d : DieId) (x : Die) : (s.setDie d x).tsc = s.tsc := rfl
@[simp] theorem State.setDie_tscFrac (s : State) (d : DieId) (x : Die) : (s.setDie d x).tscFrac = s.tscFrac := rfl
@[simp] theorem State.setDie_adj (s : State) (d : DieId) (x : Die) : (s.setDie d x).adj = s.adj := rfl
@[simp] theorem State.setDie_tspps (s : State) (d : DieId) (x : Die) : (s.setDie d x).tspps = s.tspps := rfl
@[simp] theorem State.setDie_parts (s : State) (d : DieId) (x : Die) : (s.setDie d x).parts = s.parts := rfl
@[simp] theorem State.setDie_lend (s : State) (d : DieId) (x : Die) : (s.setDie d x).lend = s.lend := rfl
@[simp] theorem State.setDie_rsplit (s : State) (d : DieId) (x : Die) : (s.setDie d x).rsplit = s.rsplit := rfl
@[simp] theorem State.setDie_rctx (s : State) (d : DieId) (x : Die) : (s.setDie d x).rctx = s.rctx := rfl
@[simp] theorem State.setDie_phase (s : State) (d : DieId) (x : Die) : (s.setDie d x).phase = s.phase := rfl
@[simp] theorem State.setDie_len (s : State) (d : DieId) (x : Die) : (s.setDie d x).len = s.len := rfl
@[simp] theorem State.setDie_period (s : State) (d : DieId) (x : Die) : (s.setDie d x).period = s.period := rfl
@[simp] theorem State.setDie_killgap (s : State) (d : DieId) (x : Die) : (s.setDie d x).killgap = s.killgap := rfl
@[simp] theorem State.setDie_drainmax (s : State) (d : DieId) (x : Die) : (s.setDie d x).drainmax = s.drainmax := rfl
@[simp] theorem State.setDie_limits (s : State) (d : DieId) (x : Die) : (s.setDie d x).limits = s.limits := rfl
@[simp] theorem State.setDie_hqueues (s : State) (d : DieId) (x : Die) : (s.setDie d x).hqueues = s.hqueues := rfl
@[simp] theorem State.setDie_tasks (s : State) (d : DieId) (x : Die) : (s.setDie d x).tasks = s.tasks := rfl
@[simp] theorem State.setDie_pendingList (s : State) (d : DieId) (x : Die) : (s.setDie d x).pendingList = s.pendingList := rfl
@[simp] theorem State.setDie_msi (s : State) (d : DieId) (x : Die) : (s.setDie d x).msi = s.msi := rfl
@[simp] theorem State.setDie_msix (s : State) (d : DieId) (x : Die) : (s.setDie d x).msix = s.msix := rfl
@[simp] theorem State.setDie_msixPending (s : State) (d : DieId) (x : Die) : (s.setDie d x).msixPending = s.msixPending := rfl
@[simp] theorem State.setDie_aerUncorr (s : State) (d : DieId) (x : Die) : (s.setDie d x).aerUncorr = s.aerUncorr := rfl
@[simp] theorem State.setDie_aerCorr (s : State) (d : DieId) (x : Die) : (s.setDie d x).aerCorr = s.aerCorr := rfl
@[simp] theorem State.setDie_sent (s : State) (d : DieId) (x : Die) : (s.setDie d x).sent = s.sent := rfl
@[simp] theorem State.setDie_steering (s : State) (d : DieId) (x : Die) : (s.setDie d x).steering = s.steering := rfl
@[simp] theorem State.setDie_steerClaims (s : State) (d : DieId) (x : Die) : (s.setDie d x).steerClaims = s.steerClaims := rfl
@[simp] theorem State.setDie_unsteered (s : State) (d : DieId) (x : Die) : (s.setDie d x).unsteered = s.unsteered := rfl
@[simp] theorem State.setDie_fhSpeed (s : State) (d : DieId) (x : Die) : (s.setDie d x).fhSpeed = s.fhSpeed := rfl
@[simp] theorem State.setDie_fhFrames (s : State) (d : DieId) (x : Die) : (s.setDie d x).fhFrames = s.fhFrames := rfl
@[simp] theorem State.setDie_fhDrops (s : State) (d : DieId) (x : Die) : (s.setDie d x).fhDrops = s.fhDrops := rfl
@[simp] theorem State.setDie_toHost (s : State) (d : DieId) (x : Die) : (s.setDie d x).toHost = s.toHost := rfl
@[simp] theorem State.setDie_txStamps (s : State) (d : DieId) (x : Die) : (s.setDie d x).txStamps = s.txStamps := rfl
@[simp] theorem State.setDie_bports (s : State) (d : DieId) (x : Die) : (s.setDie d x).bports = s.bports := rfl
@[simp] theorem State.setDie_flitErrors (s : State) (d : DieId) (x : Die) : (s.setDie d x).flitErrors = s.flitErrors := rfl
@[simp] theorem State.setDie_snapat (s : State) (d : DieId) (x : Die) : (s.setDie d x).snapat = s.snapat := rfl
@[simp] theorem State.setDie_snapshot (s : State) (d : DieId) (x : Die) : (s.setDie d x).snapshot = s.snapshot := rfl
@[simp] theorem State.setDie_snapArmed (s : State) (d : DieId) (x : Die) : (s.setDie d x).snapArmed = s.snapArmed := rfl
@[simp] theorem State.setDie_snapLast (s : State) (d : DieId) (x : Die) : (s.setDie d x).snapLast = s.snapLast := rfl
@[simp] theorem State.setDie_replies (s : State) (d : DieId) (x : Die) : (s.setDie d x).replies = s.replies := rfl
@[simp] theorem State.setDie_fuses (s : State) (d : DieId) (x : Die) : (s.setDie d x).fuses = s.fuses := rfl
@[simp] theorem State.setDie_flash (s : State) (d : DieId) (x : Die) : (s.setDie d x).flash = s.flash := rfl
@[simp] theorem State.setDie_measured (s : State) (d : DieId) (x : Die) : (s.setDie d x).measured = s.measured := rfl
@[simp] theorem State.setDie_hostMem (s : State) (d : DieId) (x : Die) : (s.setDie d x).hostMem = s.hostMem := rfl
@[simp] theorem State.setDie_hostRefused (s : State) (d : DieId) (x : Die) : (s.setDie d x).hostRefused = s.hostRefused := rfl
@[simp] theorem State.setDie_peerMem (s : State) (d : DieId) (x : Die) : (s.setDie d x).peerMem = s.peerMem := rfl
@[simp] theorem State.setDie_peerWin (s : State) (d : DieId) (x : Die) : (s.setDie d x).peerWin = s.peerWin := rfl
@[simp] theorem State.setDie_clock (s : State) (d : DieId) (x : Die) : (s.setDie d x).clock = s.clock := rfl
@[simp] theorem State.setDie_marks (s : State) (d : DieId) (x : Die) : (s.setDie d x).marks = s.marks := rfl
@[simp] theorem State.setDie_src (s : State) (d : DieId) (x : Die) : (s.setDie d x).src = s.src := rfl
@[simp] theorem State.setDie_writer (s : State) (d : DieId) (x : Die) : (s.setDie d x).writer = s.writer := rfl
@[simp] theorem State.setDie_late (s : State) (d : DieId) (x : Die) : (s.setDie d x).late = s.late := rfl
@[simp] theorem State.setDie_agenda (s : State) (d : DieId) (x : Die) : (s.setDie d x).agenda = s.agenda := rfl
@[simp] theorem State.setDie_cur (s : State) (d : DieId) (x : Die) : (s.setDie d x).cur = s.cur := rfl
@[simp] theorem State.setDie_arg (s : State) (d : DieId) (x : Die) : (s.setDie d x).arg = s.arg := rfl
@[simp] theorem State.setDie_fresh (s : State) (d : DieId) (x : Die) : (s.setDie d x).fresh = s.fresh := rfl
@[simp] theorem State.modDie_ctxs (s : State) (d : DieId) (f : Die → Die) : (s.modDie d f).ctxs = s.ctxs := rfl
@[simp] theorem State.modDie_cores (s : State) (d : DieId) (f : Die → Die) : (s.modDie d f).cores = s.cores := rfl
@[simp] theorem State.modDie_dmem (s : State) (d : DieId) (f : Die → Die) : (s.modDie d f).dmem = s.dmem := rfl
@[simp] theorem State.modDie_early (s : State) (d : DieId) (f : Die → Die) : (s.modDie d f).early = s.early := rfl
@[simp] theorem State.modDie_stale (s : State) (d : DieId) (f : Die → Die) : (s.modDie d f).stale = s.stale := rfl
@[simp] theorem State.modDie_posts (s : State) (d : DieId) (f : Die → Die) : (s.modDie d f).posts = s.posts := rfl
@[simp] theorem State.modDie_rels (s : State) (d : DieId) (f : Die → Die) : (s.modDie d f).rels = s.rels := rfl
@[simp] theorem State.modDie_memErrors (s : State) (d : DieId) (f : Die → Die) : (s.modDie d f).memErrors = s.memErrors := rfl
@[simp] theorem State.modDie_eccCount (s : State) (d : DieId) (f : Die → Die) : (s.modDie d f).eccCount = s.eccCount := rfl
@[simp] theorem State.modDie_eccReports (s : State) (d : DieId) (f : Die → Die) : (s.modDie d f).eccReports = s.eccReports := rfl
@[simp] theorem State.modDie_tsc (s : State) (d : DieId) (f : Die → Die) : (s.modDie d f).tsc = s.tsc := rfl
@[simp] theorem State.modDie_tscFrac (s : State) (d : DieId) (f : Die → Die) : (s.modDie d f).tscFrac = s.tscFrac := rfl
@[simp] theorem State.modDie_adj (s : State) (d : DieId) (f : Die → Die) : (s.modDie d f).adj = s.adj := rfl
@[simp] theorem State.modDie_tspps (s : State) (d : DieId) (f : Die → Die) : (s.modDie d f).tspps = s.tspps := rfl
@[simp] theorem State.modDie_parts (s : State) (d : DieId) (f : Die → Die) : (s.modDie d f).parts = s.parts := rfl
@[simp] theorem State.modDie_lend (s : State) (d : DieId) (f : Die → Die) : (s.modDie d f).lend = s.lend := rfl
@[simp] theorem State.modDie_rsplit (s : State) (d : DieId) (f : Die → Die) : (s.modDie d f).rsplit = s.rsplit := rfl
@[simp] theorem State.modDie_rctx (s : State) (d : DieId) (f : Die → Die) : (s.modDie d f).rctx = s.rctx := rfl
@[simp] theorem State.modDie_phase (s : State) (d : DieId) (f : Die → Die) : (s.modDie d f).phase = s.phase := rfl
@[simp] theorem State.modDie_len (s : State) (d : DieId) (f : Die → Die) : (s.modDie d f).len = s.len := rfl
@[simp] theorem State.modDie_period (s : State) (d : DieId) (f : Die → Die) : (s.modDie d f).period = s.period := rfl
@[simp] theorem State.modDie_killgap (s : State) (d : DieId) (f : Die → Die) : (s.modDie d f).killgap = s.killgap := rfl
@[simp] theorem State.modDie_drainmax (s : State) (d : DieId) (f : Die → Die) : (s.modDie d f).drainmax = s.drainmax := rfl
@[simp] theorem State.modDie_limits (s : State) (d : DieId) (f : Die → Die) : (s.modDie d f).limits = s.limits := rfl
@[simp] theorem State.modDie_hqueues (s : State) (d : DieId) (f : Die → Die) : (s.modDie d f).hqueues = s.hqueues := rfl
@[simp] theorem State.modDie_tasks (s : State) (d : DieId) (f : Die → Die) : (s.modDie d f).tasks = s.tasks := rfl
@[simp] theorem State.modDie_pendingList (s : State) (d : DieId) (f : Die → Die) : (s.modDie d f).pendingList = s.pendingList := rfl
@[simp] theorem State.modDie_msi (s : State) (d : DieId) (f : Die → Die) : (s.modDie d f).msi = s.msi := rfl
@[simp] theorem State.modDie_msix (s : State) (d : DieId) (f : Die → Die) : (s.modDie d f).msix = s.msix := rfl
@[simp] theorem State.modDie_msixPending (s : State) (d : DieId) (f : Die → Die) : (s.modDie d f).msixPending = s.msixPending := rfl
@[simp] theorem State.modDie_aerUncorr (s : State) (d : DieId) (f : Die → Die) : (s.modDie d f).aerUncorr = s.aerUncorr := rfl
@[simp] theorem State.modDie_aerCorr (s : State) (d : DieId) (f : Die → Die) : (s.modDie d f).aerCorr = s.aerCorr := rfl
@[simp] theorem State.modDie_sent (s : State) (d : DieId) (f : Die → Die) : (s.modDie d f).sent = s.sent := rfl
@[simp] theorem State.modDie_steering (s : State) (d : DieId) (f : Die → Die) : (s.modDie d f).steering = s.steering := rfl
@[simp] theorem State.modDie_steerClaims (s : State) (d : DieId) (f : Die → Die) : (s.modDie d f).steerClaims = s.steerClaims := rfl
@[simp] theorem State.modDie_unsteered (s : State) (d : DieId) (f : Die → Die) : (s.modDie d f).unsteered = s.unsteered := rfl
@[simp] theorem State.modDie_fhSpeed (s : State) (d : DieId) (f : Die → Die) : (s.modDie d f).fhSpeed = s.fhSpeed := rfl
@[simp] theorem State.modDie_fhFrames (s : State) (d : DieId) (f : Die → Die) : (s.modDie d f).fhFrames = s.fhFrames := rfl
@[simp] theorem State.modDie_fhDrops (s : State) (d : DieId) (f : Die → Die) : (s.modDie d f).fhDrops = s.fhDrops := rfl
@[simp] theorem State.modDie_toHost (s : State) (d : DieId) (f : Die → Die) : (s.modDie d f).toHost = s.toHost := rfl
@[simp] theorem State.modDie_txStamps (s : State) (d : DieId) (f : Die → Die) : (s.modDie d f).txStamps = s.txStamps := rfl
@[simp] theorem State.modDie_bports (s : State) (d : DieId) (f : Die → Die) : (s.modDie d f).bports = s.bports := rfl
@[simp] theorem State.modDie_flitErrors (s : State) (d : DieId) (f : Die → Die) : (s.modDie d f).flitErrors = s.flitErrors := rfl
@[simp] theorem State.modDie_snapat (s : State) (d : DieId) (f : Die → Die) : (s.modDie d f).snapat = s.snapat := rfl
@[simp] theorem State.modDie_snapshot (s : State) (d : DieId) (f : Die → Die) : (s.modDie d f).snapshot = s.snapshot := rfl
@[simp] theorem State.modDie_snapArmed (s : State) (d : DieId) (f : Die → Die) : (s.modDie d f).snapArmed = s.snapArmed := rfl
@[simp] theorem State.modDie_snapLast (s : State) (d : DieId) (f : Die → Die) : (s.modDie d f).snapLast = s.snapLast := rfl
@[simp] theorem State.modDie_replies (s : State) (d : DieId) (f : Die → Die) : (s.modDie d f).replies = s.replies := rfl
@[simp] theorem State.modDie_fuses (s : State) (d : DieId) (f : Die → Die) : (s.modDie d f).fuses = s.fuses := rfl
@[simp] theorem State.modDie_flash (s : State) (d : DieId) (f : Die → Die) : (s.modDie d f).flash = s.flash := rfl
@[simp] theorem State.modDie_measured (s : State) (d : DieId) (f : Die → Die) : (s.modDie d f).measured = s.measured := rfl
@[simp] theorem State.modDie_hostMem (s : State) (d : DieId) (f : Die → Die) : (s.modDie d f).hostMem = s.hostMem := rfl
@[simp] theorem State.modDie_hostRefused (s : State) (d : DieId) (f : Die → Die) : (s.modDie d f).hostRefused = s.hostRefused := rfl
@[simp] theorem State.modDie_peerMem (s : State) (d : DieId) (f : Die → Die) : (s.modDie d f).peerMem = s.peerMem := rfl
@[simp] theorem State.modDie_peerWin (s : State) (d : DieId) (f : Die → Die) : (s.modDie d f).peerWin = s.peerWin := rfl
@[simp] theorem State.modDie_clock (s : State) (d : DieId) (f : Die → Die) : (s.modDie d f).clock = s.clock := rfl
@[simp] theorem State.modDie_marks (s : State) (d : DieId) (f : Die → Die) : (s.modDie d f).marks = s.marks := rfl
@[simp] theorem State.modDie_src (s : State) (d : DieId) (f : Die → Die) : (s.modDie d f).src = s.src := rfl
@[simp] theorem State.modDie_writer (s : State) (d : DieId) (f : Die → Die) : (s.modDie d f).writer = s.writer := rfl
@[simp] theorem State.modDie_late (s : State) (d : DieId) (f : Die → Die) : (s.modDie d f).late = s.late := rfl
@[simp] theorem State.modDie_agenda (s : State) (d : DieId) (f : Die → Die) : (s.modDie d f).agenda = s.agenda := rfl
@[simp] theorem State.modDie_cur (s : State) (d : DieId) (f : Die → Die) : (s.modDie d f).cur = s.cur := rfl
@[simp] theorem State.modDie_arg (s : State) (d : DieId) (f : Die → Die) : (s.modDie d f).arg = s.arg := rfl
@[simp] theorem State.modDie_fresh (s : State) (d : DieId) (f : Die → Die) : (s.modDie d f).fresh = s.fresh := rfl
@[simp] theorem State.setPart_ctxs (s : State) (p : Fin 16) (x : Part) : (s.setPart p x).ctxs = s.ctxs := rfl
@[simp] theorem State.setPart_cores (s : State) (p : Fin 16) (x : Part) : (s.setPart p x).cores = s.cores := rfl
@[simp] theorem State.setPart_dies (s : State) (p : Fin 16) (x : Part) : (s.setPart p x).dies = s.dies := rfl
@[simp] theorem State.setPart_dmem (s : State) (p : Fin 16) (x : Part) : (s.setPart p x).dmem = s.dmem := rfl
@[simp] theorem State.setPart_early (s : State) (p : Fin 16) (x : Part) : (s.setPart p x).early = s.early := rfl
@[simp] theorem State.setPart_stale (s : State) (p : Fin 16) (x : Part) : (s.setPart p x).stale = s.stale := rfl
@[simp] theorem State.setPart_posts (s : State) (p : Fin 16) (x : Part) : (s.setPart p x).posts = s.posts := rfl
@[simp] theorem State.setPart_rels (s : State) (p : Fin 16) (x : Part) : (s.setPart p x).rels = s.rels := rfl
@[simp] theorem State.setPart_memErrors (s : State) (p : Fin 16) (x : Part) : (s.setPart p x).memErrors = s.memErrors := rfl
@[simp] theorem State.setPart_eccCount (s : State) (p : Fin 16) (x : Part) : (s.setPart p x).eccCount = s.eccCount := rfl
@[simp] theorem State.setPart_eccReports (s : State) (p : Fin 16) (x : Part) : (s.setPart p x).eccReports = s.eccReports := rfl
@[simp] theorem State.setPart_tsc (s : State) (p : Fin 16) (x : Part) : (s.setPart p x).tsc = s.tsc := rfl
@[simp] theorem State.setPart_tscFrac (s : State) (p : Fin 16) (x : Part) : (s.setPart p x).tscFrac = s.tscFrac := rfl
@[simp] theorem State.setPart_adj (s : State) (p : Fin 16) (x : Part) : (s.setPart p x).adj = s.adj := rfl
@[simp] theorem State.setPart_tspps (s : State) (p : Fin 16) (x : Part) : (s.setPart p x).tspps = s.tspps := rfl
@[simp] theorem State.setPart_lend (s : State) (p : Fin 16) (x : Part) : (s.setPart p x).lend = s.lend := rfl
@[simp] theorem State.setPart_rsplit (s : State) (p : Fin 16) (x : Part) : (s.setPart p x).rsplit = s.rsplit := rfl
@[simp] theorem State.setPart_rctx (s : State) (p : Fin 16) (x : Part) : (s.setPart p x).rctx = s.rctx := rfl
@[simp] theorem State.setPart_phase (s : State) (p : Fin 16) (x : Part) : (s.setPart p x).phase = s.phase := rfl
@[simp] theorem State.setPart_len (s : State) (p : Fin 16) (x : Part) : (s.setPart p x).len = s.len := rfl
@[simp] theorem State.setPart_period (s : State) (p : Fin 16) (x : Part) : (s.setPart p x).period = s.period := rfl
@[simp] theorem State.setPart_killgap (s : State) (p : Fin 16) (x : Part) : (s.setPart p x).killgap = s.killgap := rfl
@[simp] theorem State.setPart_drainmax (s : State) (p : Fin 16) (x : Part) : (s.setPart p x).drainmax = s.drainmax := rfl
@[simp] theorem State.setPart_limits (s : State) (p : Fin 16) (x : Part) : (s.setPart p x).limits = s.limits := rfl
@[simp] theorem State.setPart_hqueues (s : State) (p : Fin 16) (x : Part) : (s.setPart p x).hqueues = s.hqueues := rfl
@[simp] theorem State.setPart_tasks (s : State) (p : Fin 16) (x : Part) : (s.setPart p x).tasks = s.tasks := rfl
@[simp] theorem State.setPart_pendingList (s : State) (p : Fin 16) (x : Part) : (s.setPart p x).pendingList = s.pendingList := rfl
@[simp] theorem State.setPart_msi (s : State) (p : Fin 16) (x : Part) : (s.setPart p x).msi = s.msi := rfl
@[simp] theorem State.setPart_msix (s : State) (p : Fin 16) (x : Part) : (s.setPart p x).msix = s.msix := rfl
@[simp] theorem State.setPart_msixPending (s : State) (p : Fin 16) (x : Part) : (s.setPart p x).msixPending = s.msixPending := rfl
@[simp] theorem State.setPart_aerUncorr (s : State) (p : Fin 16) (x : Part) : (s.setPart p x).aerUncorr = s.aerUncorr := rfl
@[simp] theorem State.setPart_aerCorr (s : State) (p : Fin 16) (x : Part) : (s.setPart p x).aerCorr = s.aerCorr := rfl
@[simp] theorem State.setPart_sent (s : State) (p : Fin 16) (x : Part) : (s.setPart p x).sent = s.sent := rfl
@[simp] theorem State.setPart_steering (s : State) (p : Fin 16) (x : Part) : (s.setPart p x).steering = s.steering := rfl
@[simp] theorem State.setPart_steerClaims (s : State) (p : Fin 16) (x : Part) : (s.setPart p x).steerClaims = s.steerClaims := rfl
@[simp] theorem State.setPart_unsteered (s : State) (p : Fin 16) (x : Part) : (s.setPart p x).unsteered = s.unsteered := rfl
@[simp] theorem State.setPart_fhSpeed (s : State) (p : Fin 16) (x : Part) : (s.setPart p x).fhSpeed = s.fhSpeed := rfl
@[simp] theorem State.setPart_fhFrames (s : State) (p : Fin 16) (x : Part) : (s.setPart p x).fhFrames = s.fhFrames := rfl
@[simp] theorem State.setPart_fhDrops (s : State) (p : Fin 16) (x : Part) : (s.setPart p x).fhDrops = s.fhDrops := rfl
@[simp] theorem State.setPart_toHost (s : State) (p : Fin 16) (x : Part) : (s.setPart p x).toHost = s.toHost := rfl
@[simp] theorem State.setPart_txStamps (s : State) (p : Fin 16) (x : Part) : (s.setPart p x).txStamps = s.txStamps := rfl
@[simp] theorem State.setPart_bports (s : State) (p : Fin 16) (x : Part) : (s.setPart p x).bports = s.bports := rfl
@[simp] theorem State.setPart_flitErrors (s : State) (p : Fin 16) (x : Part) : (s.setPart p x).flitErrors = s.flitErrors := rfl
@[simp] theorem State.setPart_snapat (s : State) (p : Fin 16) (x : Part) : (s.setPart p x).snapat = s.snapat := rfl
@[simp] theorem State.setPart_snapshot (s : State) (p : Fin 16) (x : Part) : (s.setPart p x).snapshot = s.snapshot := rfl
@[simp] theorem State.setPart_snapArmed (s : State) (p : Fin 16) (x : Part) : (s.setPart p x).snapArmed = s.snapArmed := rfl
@[simp] theorem State.setPart_snapLast (s : State) (p : Fin 16) (x : Part) : (s.setPart p x).snapLast = s.snapLast := rfl
@[simp] theorem State.setPart_replies (s : State) (p : Fin 16) (x : Part) : (s.setPart p x).replies = s.replies := rfl
@[simp] theorem State.setPart_fuses (s : State) (p : Fin 16) (x : Part) : (s.setPart p x).fuses = s.fuses := rfl
@[simp] theorem State.setPart_flash (s : State) (p : Fin 16) (x : Part) : (s.setPart p x).flash = s.flash := rfl
@[simp] theorem State.setPart_measured (s : State) (p : Fin 16) (x : Part) : (s.setPart p x).measured = s.measured := rfl
@[simp] theorem State.setPart_hostMem (s : State) (p : Fin 16) (x : Part) : (s.setPart p x).hostMem = s.hostMem := rfl
@[simp] theorem State.setPart_hostRefused (s : State) (p : Fin 16) (x : Part) : (s.setPart p x).hostRefused = s.hostRefused := rfl
@[simp] theorem State.setPart_peerMem (s : State) (p : Fin 16) (x : Part) : (s.setPart p x).peerMem = s.peerMem := rfl
@[simp] theorem State.setPart_peerWin (s : State) (p : Fin 16) (x : Part) : (s.setPart p x).peerWin = s.peerWin := rfl
@[simp] theorem State.setPart_clock (s : State) (p : Fin 16) (x : Part) : (s.setPart p x).clock = s.clock := rfl
@[simp] theorem State.setPart_marks (s : State) (p : Fin 16) (x : Part) : (s.setPart p x).marks = s.marks := rfl
@[simp] theorem State.setPart_src (s : State) (p : Fin 16) (x : Part) : (s.setPart p x).src = s.src := rfl
@[simp] theorem State.setPart_writer (s : State) (p : Fin 16) (x : Part) : (s.setPart p x).writer = s.writer := rfl
@[simp] theorem State.setPart_late (s : State) (p : Fin 16) (x : Part) : (s.setPart p x).late = s.late := rfl
@[simp] theorem State.setPart_agenda (s : State) (p : Fin 16) (x : Part) : (s.setPart p x).agenda = s.agenda := rfl
@[simp] theorem State.setPart_cur (s : State) (p : Fin 16) (x : Part) : (s.setPart p x).cur = s.cur := rfl
@[simp] theorem State.setPart_arg (s : State) (p : Fin 16) (x : Part) : (s.setPart p x).arg = s.arg := rfl
@[simp] theorem State.setPart_fresh (s : State) (p : Fin 16) (x : Part) : (s.setPart p x).fresh = s.fresh := rfl
@[simp] theorem State.setTask_ctxs (s : State) (n : Nat) (x : Task) : (s.setTask n x).ctxs = s.ctxs := rfl
@[simp] theorem State.setTask_cores (s : State) (n : Nat) (x : Task) : (s.setTask n x).cores = s.cores := rfl
@[simp] theorem State.setTask_dies (s : State) (n : Nat) (x : Task) : (s.setTask n x).dies = s.dies := rfl
@[simp] theorem State.setTask_dmem (s : State) (n : Nat) (x : Task) : (s.setTask n x).dmem = s.dmem := rfl
@[simp] theorem State.setTask_early (s : State) (n : Nat) (x : Task) : (s.setTask n x).early = s.early := rfl
@[simp] theorem State.setTask_stale (s : State) (n : Nat) (x : Task) : (s.setTask n x).stale = s.stale := rfl
@[simp] theorem State.setTask_posts (s : State) (n : Nat) (x : Task) : (s.setTask n x).posts = s.posts := rfl
@[simp] theorem State.setTask_rels (s : State) (n : Nat) (x : Task) : (s.setTask n x).rels = s.rels := rfl
@[simp] theorem State.setTask_memErrors (s : State) (n : Nat) (x : Task) : (s.setTask n x).memErrors = s.memErrors := rfl
@[simp] theorem State.setTask_eccCount (s : State) (n : Nat) (x : Task) : (s.setTask n x).eccCount = s.eccCount := rfl
@[simp] theorem State.setTask_eccReports (s : State) (n : Nat) (x : Task) : (s.setTask n x).eccReports = s.eccReports := rfl
@[simp] theorem State.setTask_tsc (s : State) (n : Nat) (x : Task) : (s.setTask n x).tsc = s.tsc := rfl
@[simp] theorem State.setTask_tscFrac (s : State) (n : Nat) (x : Task) : (s.setTask n x).tscFrac = s.tscFrac := rfl
@[simp] theorem State.setTask_adj (s : State) (n : Nat) (x : Task) : (s.setTask n x).adj = s.adj := rfl
@[simp] theorem State.setTask_tspps (s : State) (n : Nat) (x : Task) : (s.setTask n x).tspps = s.tspps := rfl
@[simp] theorem State.setTask_parts (s : State) (n : Nat) (x : Task) : (s.setTask n x).parts = s.parts := rfl
@[simp] theorem State.setTask_lend (s : State) (n : Nat) (x : Task) : (s.setTask n x).lend = s.lend := rfl
@[simp] theorem State.setTask_rsplit (s : State) (n : Nat) (x : Task) : (s.setTask n x).rsplit = s.rsplit := rfl
@[simp] theorem State.setTask_rctx (s : State) (n : Nat) (x : Task) : (s.setTask n x).rctx = s.rctx := rfl
@[simp] theorem State.setTask_phase (s : State) (n : Nat) (x : Task) : (s.setTask n x).phase = s.phase := rfl
@[simp] theorem State.setTask_len (s : State) (n : Nat) (x : Task) : (s.setTask n x).len = s.len := rfl
@[simp] theorem State.setTask_period (s : State) (n : Nat) (x : Task) : (s.setTask n x).period = s.period := rfl
@[simp] theorem State.setTask_killgap (s : State) (n : Nat) (x : Task) : (s.setTask n x).killgap = s.killgap := rfl
@[simp] theorem State.setTask_drainmax (s : State) (n : Nat) (x : Task) : (s.setTask n x).drainmax = s.drainmax := rfl
@[simp] theorem State.setTask_limits (s : State) (n : Nat) (x : Task) : (s.setTask n x).limits = s.limits := rfl
@[simp] theorem State.setTask_hqueues (s : State) (n : Nat) (x : Task) : (s.setTask n x).hqueues = s.hqueues := rfl
@[simp] theorem State.setTask_pendingList (s : State) (n : Nat) (x : Task) : (s.setTask n x).pendingList = s.pendingList := rfl
@[simp] theorem State.setTask_msi (s : State) (n : Nat) (x : Task) : (s.setTask n x).msi = s.msi := rfl
@[simp] theorem State.setTask_msix (s : State) (n : Nat) (x : Task) : (s.setTask n x).msix = s.msix := rfl
@[simp] theorem State.setTask_msixPending (s : State) (n : Nat) (x : Task) : (s.setTask n x).msixPending = s.msixPending := rfl
@[simp] theorem State.setTask_aerUncorr (s : State) (n : Nat) (x : Task) : (s.setTask n x).aerUncorr = s.aerUncorr := rfl
@[simp] theorem State.setTask_aerCorr (s : State) (n : Nat) (x : Task) : (s.setTask n x).aerCorr = s.aerCorr := rfl
@[simp] theorem State.setTask_sent (s : State) (n : Nat) (x : Task) : (s.setTask n x).sent = s.sent := rfl
@[simp] theorem State.setTask_steering (s : State) (n : Nat) (x : Task) : (s.setTask n x).steering = s.steering := rfl
@[simp] theorem State.setTask_steerClaims (s : State) (n : Nat) (x : Task) : (s.setTask n x).steerClaims = s.steerClaims := rfl
@[simp] theorem State.setTask_unsteered (s : State) (n : Nat) (x : Task) : (s.setTask n x).unsteered = s.unsteered := rfl
@[simp] theorem State.setTask_fhSpeed (s : State) (n : Nat) (x : Task) : (s.setTask n x).fhSpeed = s.fhSpeed := rfl
@[simp] theorem State.setTask_fhFrames (s : State) (n : Nat) (x : Task) : (s.setTask n x).fhFrames = s.fhFrames := rfl
@[simp] theorem State.setTask_fhDrops (s : State) (n : Nat) (x : Task) : (s.setTask n x).fhDrops = s.fhDrops := rfl
@[simp] theorem State.setTask_toHost (s : State) (n : Nat) (x : Task) : (s.setTask n x).toHost = s.toHost := rfl
@[simp] theorem State.setTask_txStamps (s : State) (n : Nat) (x : Task) : (s.setTask n x).txStamps = s.txStamps := rfl
@[simp] theorem State.setTask_bports (s : State) (n : Nat) (x : Task) : (s.setTask n x).bports = s.bports := rfl
@[simp] theorem State.setTask_flitErrors (s : State) (n : Nat) (x : Task) : (s.setTask n x).flitErrors = s.flitErrors := rfl
@[simp] theorem State.setTask_snapat (s : State) (n : Nat) (x : Task) : (s.setTask n x).snapat = s.snapat := rfl
@[simp] theorem State.setTask_snapshot (s : State) (n : Nat) (x : Task) : (s.setTask n x).snapshot = s.snapshot := rfl
@[simp] theorem State.setTask_snapArmed (s : State) (n : Nat) (x : Task) : (s.setTask n x).snapArmed = s.snapArmed := rfl
@[simp] theorem State.setTask_snapLast (s : State) (n : Nat) (x : Task) : (s.setTask n x).snapLast = s.snapLast := rfl
@[simp] theorem State.setTask_replies (s : State) (n : Nat) (x : Task) : (s.setTask n x).replies = s.replies := rfl
@[simp] theorem State.setTask_fuses (s : State) (n : Nat) (x : Task) : (s.setTask n x).fuses = s.fuses := rfl
@[simp] theorem State.setTask_flash (s : State) (n : Nat) (x : Task) : (s.setTask n x).flash = s.flash := rfl
@[simp] theorem State.setTask_measured (s : State) (n : Nat) (x : Task) : (s.setTask n x).measured = s.measured := rfl
@[simp] theorem State.setTask_hostMem (s : State) (n : Nat) (x : Task) : (s.setTask n x).hostMem = s.hostMem := rfl
@[simp] theorem State.setTask_hostRefused (s : State) (n : Nat) (x : Task) : (s.setTask n x).hostRefused = s.hostRefused := rfl
@[simp] theorem State.setTask_peerMem (s : State) (n : Nat) (x : Task) : (s.setTask n x).peerMem = s.peerMem := rfl
@[simp] theorem State.setTask_peerWin (s : State) (n : Nat) (x : Task) : (s.setTask n x).peerWin = s.peerWin := rfl
@[simp] theorem State.setTask_clock (s : State) (n : Nat) (x : Task) : (s.setTask n x).clock = s.clock := rfl
@[simp] theorem State.setTask_marks (s : State) (n : Nat) (x : Task) : (s.setTask n x).marks = s.marks := rfl
@[simp] theorem State.setTask_src (s : State) (n : Nat) (x : Task) : (s.setTask n x).src = s.src := rfl
@[simp] theorem State.setTask_writer (s : State) (n : Nat) (x : Task) : (s.setTask n x).writer = s.writer := rfl
@[simp] theorem State.setTask_late (s : State) (n : Nat) (x : Task) : (s.setTask n x).late = s.late := rfl
@[simp] theorem State.setTask_agenda (s : State) (n : Nat) (x : Task) : (s.setTask n x).agenda = s.agenda := rfl
@[simp] theorem State.setTask_cur (s : State) (n : Nat) (x : Task) : (s.setTask n x).cur = s.cur := rfl
@[simp] theorem State.setTask_arg (s : State) (n : Nat) (x : Task) : (s.setTask n x).arg = s.arg := rfl
@[simp] theorem State.setTask_fresh (s : State) (n : Nat) (x : Task) : (s.setTask n x).fresh = s.fresh := rfl
@[simp] theorem State.contend_ctxs (s : State) (o : Contended) (n : Nat) : (s.contend o n).ctxs = s.ctxs := by unfold State.contend; split <;> rfl
@[simp] theorem State.contended_ctxs (s : State) (o : Contended) : (s.contended o).ctxs = s.ctxs := s.contend_ctxs o s.src
@[simp] theorem State.contend_cores (s : State) (o : Contended) (n : Nat) : (s.contend o n).cores = s.cores := by unfold State.contend; split <;> rfl
@[simp] theorem State.contended_cores (s : State) (o : Contended) : (s.contended o).cores = s.cores := s.contend_cores o s.src
@[simp] theorem State.contend_dies (s : State) (o : Contended) (n : Nat) : (s.contend o n).dies = s.dies := by unfold State.contend; split <;> rfl
@[simp] theorem State.contended_dies (s : State) (o : Contended) : (s.contended o).dies = s.dies := s.contend_dies o s.src
@[simp] theorem State.contend_dmem (s : State) (o : Contended) (n : Nat) : (s.contend o n).dmem = s.dmem := by unfold State.contend; split <;> rfl
@[simp] theorem State.contended_dmem (s : State) (o : Contended) : (s.contended o).dmem = s.dmem := s.contend_dmem o s.src
@[simp] theorem State.contend_early (s : State) (o : Contended) (n : Nat) : (s.contend o n).early = s.early := by unfold State.contend; split <;> rfl
@[simp] theorem State.contended_early (s : State) (o : Contended) : (s.contended o).early = s.early := s.contend_early o s.src
@[simp] theorem State.contend_stale (s : State) (o : Contended) (n : Nat) : (s.contend o n).stale = s.stale := by unfold State.contend; split <;> rfl
@[simp] theorem State.contended_stale (s : State) (o : Contended) : (s.contended o).stale = s.stale := s.contend_stale o s.src
@[simp] theorem State.contend_posts (s : State) (o : Contended) (n : Nat) : (s.contend o n).posts = s.posts := by unfold State.contend; split <;> rfl
@[simp] theorem State.contended_posts (s : State) (o : Contended) : (s.contended o).posts = s.posts := s.contend_posts o s.src
@[simp] theorem State.contend_rels (s : State) (o : Contended) (n : Nat) : (s.contend o n).rels = s.rels := by unfold State.contend; split <;> rfl
@[simp] theorem State.contended_rels (s : State) (o : Contended) : (s.contended o).rels = s.rels := s.contend_rels o s.src
@[simp] theorem State.contend_memErrors (s : State) (o : Contended) (n : Nat) : (s.contend o n).memErrors = s.memErrors := by unfold State.contend; split <;> rfl
@[simp] theorem State.contended_memErrors (s : State) (o : Contended) : (s.contended o).memErrors = s.memErrors := s.contend_memErrors o s.src
@[simp] theorem State.contend_eccCount (s : State) (o : Contended) (n : Nat) : (s.contend o n).eccCount = s.eccCount := by unfold State.contend; split <;> rfl
@[simp] theorem State.contended_eccCount (s : State) (o : Contended) : (s.contended o).eccCount = s.eccCount := s.contend_eccCount o s.src
@[simp] theorem State.contend_eccReports (s : State) (o : Contended) (n : Nat) : (s.contend o n).eccReports = s.eccReports := by unfold State.contend; split <;> rfl
@[simp] theorem State.contended_eccReports (s : State) (o : Contended) : (s.contended o).eccReports = s.eccReports := s.contend_eccReports o s.src
@[simp] theorem State.contend_tsc (s : State) (o : Contended) (n : Nat) : (s.contend o n).tsc = s.tsc := by unfold State.contend; split <;> rfl
@[simp] theorem State.contended_tsc (s : State) (o : Contended) : (s.contended o).tsc = s.tsc := s.contend_tsc o s.src
@[simp] theorem State.contend_tscFrac (s : State) (o : Contended) (n : Nat) : (s.contend o n).tscFrac = s.tscFrac := by unfold State.contend; split <;> rfl
@[simp] theorem State.contended_tscFrac (s : State) (o : Contended) : (s.contended o).tscFrac = s.tscFrac := s.contend_tscFrac o s.src
@[simp] theorem State.contend_adj (s : State) (o : Contended) (n : Nat) : (s.contend o n).adj = s.adj := by unfold State.contend; split <;> rfl
@[simp] theorem State.contended_adj (s : State) (o : Contended) : (s.contended o).adj = s.adj := s.contend_adj o s.src
@[simp] theorem State.contend_tspps (s : State) (o : Contended) (n : Nat) : (s.contend o n).tspps = s.tspps := by unfold State.contend; split <;> rfl
@[simp] theorem State.contended_tspps (s : State) (o : Contended) : (s.contended o).tspps = s.tspps := s.contend_tspps o s.src
@[simp] theorem State.contend_parts (s : State) (o : Contended) (n : Nat) : (s.contend o n).parts = s.parts := by unfold State.contend; split <;> rfl
@[simp] theorem State.contended_parts (s : State) (o : Contended) : (s.contended o).parts = s.parts := s.contend_parts o s.src
@[simp] theorem State.contend_lend (s : State) (o : Contended) (n : Nat) : (s.contend o n).lend = s.lend := by unfold State.contend; split <;> rfl
@[simp] theorem State.contended_lend (s : State) (o : Contended) : (s.contended o).lend = s.lend := s.contend_lend o s.src
@[simp] theorem State.contend_rsplit (s : State) (o : Contended) (n : Nat) : (s.contend o n).rsplit = s.rsplit := by unfold State.contend; split <;> rfl
@[simp] theorem State.contended_rsplit (s : State) (o : Contended) : (s.contended o).rsplit = s.rsplit := s.contend_rsplit o s.src
@[simp] theorem State.contend_rctx (s : State) (o : Contended) (n : Nat) : (s.contend o n).rctx = s.rctx := by unfold State.contend; split <;> rfl
@[simp] theorem State.contended_rctx (s : State) (o : Contended) : (s.contended o).rctx = s.rctx := s.contend_rctx o s.src
@[simp] theorem State.contend_phase (s : State) (o : Contended) (n : Nat) : (s.contend o n).phase = s.phase := by unfold State.contend; split <;> rfl
@[simp] theorem State.contended_phase (s : State) (o : Contended) : (s.contended o).phase = s.phase := s.contend_phase o s.src
@[simp] theorem State.contend_len (s : State) (o : Contended) (n : Nat) : (s.contend o n).len = s.len := by unfold State.contend; split <;> rfl
@[simp] theorem State.contended_len (s : State) (o : Contended) : (s.contended o).len = s.len := s.contend_len o s.src
@[simp] theorem State.contend_period (s : State) (o : Contended) (n : Nat) : (s.contend o n).period = s.period := by unfold State.contend; split <;> rfl
@[simp] theorem State.contended_period (s : State) (o : Contended) : (s.contended o).period = s.period := s.contend_period o s.src
@[simp] theorem State.contend_killgap (s : State) (o : Contended) (n : Nat) : (s.contend o n).killgap = s.killgap := by unfold State.contend; split <;> rfl
@[simp] theorem State.contended_killgap (s : State) (o : Contended) : (s.contended o).killgap = s.killgap := s.contend_killgap o s.src
@[simp] theorem State.contend_drainmax (s : State) (o : Contended) (n : Nat) : (s.contend o n).drainmax = s.drainmax := by unfold State.contend; split <;> rfl
@[simp] theorem State.contended_drainmax (s : State) (o : Contended) : (s.contended o).drainmax = s.drainmax := s.contend_drainmax o s.src
@[simp] theorem State.contend_limits (s : State) (o : Contended) (n : Nat) : (s.contend o n).limits = s.limits := by unfold State.contend; split <;> rfl
@[simp] theorem State.contended_limits (s : State) (o : Contended) : (s.contended o).limits = s.limits := s.contend_limits o s.src
@[simp] theorem State.contend_hqueues (s : State) (o : Contended) (n : Nat) : (s.contend o n).hqueues = s.hqueues := by unfold State.contend; split <;> rfl
@[simp] theorem State.contended_hqueues (s : State) (o : Contended) : (s.contended o).hqueues = s.hqueues := s.contend_hqueues o s.src
@[simp] theorem State.contend_tasks (s : State) (o : Contended) (n : Nat) : (s.contend o n).tasks = s.tasks := by unfold State.contend; split <;> rfl
@[simp] theorem State.contended_tasks (s : State) (o : Contended) : (s.contended o).tasks = s.tasks := s.contend_tasks o s.src
@[simp] theorem State.contend_pendingList (s : State) (o : Contended) (n : Nat) : (s.contend o n).pendingList = s.pendingList := by unfold State.contend; split <;> rfl
@[simp] theorem State.contended_pendingList (s : State) (o : Contended) : (s.contended o).pendingList = s.pendingList := s.contend_pendingList o s.src
@[simp] theorem State.contend_msi (s : State) (o : Contended) (n : Nat) : (s.contend o n).msi = s.msi := by unfold State.contend; split <;> rfl
@[simp] theorem State.contended_msi (s : State) (o : Contended) : (s.contended o).msi = s.msi := s.contend_msi o s.src
@[simp] theorem State.contend_msix (s : State) (o : Contended) (n : Nat) : (s.contend o n).msix = s.msix := by unfold State.contend; split <;> rfl
@[simp] theorem State.contended_msix (s : State) (o : Contended) : (s.contended o).msix = s.msix := s.contend_msix o s.src
@[simp] theorem State.contend_msixPending (s : State) (o : Contended) (n : Nat) : (s.contend o n).msixPending = s.msixPending := by unfold State.contend; split <;> rfl
@[simp] theorem State.contended_msixPending (s : State) (o : Contended) : (s.contended o).msixPending = s.msixPending := s.contend_msixPending o s.src
@[simp] theorem State.contend_aerUncorr (s : State) (o : Contended) (n : Nat) : (s.contend o n).aerUncorr = s.aerUncorr := by unfold State.contend; split <;> rfl
@[simp] theorem State.contended_aerUncorr (s : State) (o : Contended) : (s.contended o).aerUncorr = s.aerUncorr := s.contend_aerUncorr o s.src
@[simp] theorem State.contend_aerCorr (s : State) (o : Contended) (n : Nat) : (s.contend o n).aerCorr = s.aerCorr := by unfold State.contend; split <;> rfl
@[simp] theorem State.contended_aerCorr (s : State) (o : Contended) : (s.contended o).aerCorr = s.aerCorr := s.contend_aerCorr o s.src
@[simp] theorem State.contend_sent (s : State) (o : Contended) (n : Nat) : (s.contend o n).sent = s.sent := by unfold State.contend; split <;> rfl
@[simp] theorem State.contended_sent (s : State) (o : Contended) : (s.contended o).sent = s.sent := s.contend_sent o s.src
@[simp] theorem State.contend_steering (s : State) (o : Contended) (n : Nat) : (s.contend o n).steering = s.steering := by unfold State.contend; split <;> rfl
@[simp] theorem State.contended_steering (s : State) (o : Contended) : (s.contended o).steering = s.steering := s.contend_steering o s.src
@[simp] theorem State.contend_steerClaims (s : State) (o : Contended) (n : Nat) : (s.contend o n).steerClaims = s.steerClaims := by unfold State.contend; split <;> rfl
@[simp] theorem State.contended_steerClaims (s : State) (o : Contended) : (s.contended o).steerClaims = s.steerClaims := s.contend_steerClaims o s.src
@[simp] theorem State.contend_unsteered (s : State) (o : Contended) (n : Nat) : (s.contend o n).unsteered = s.unsteered := by unfold State.contend; split <;> rfl
@[simp] theorem State.contended_unsteered (s : State) (o : Contended) : (s.contended o).unsteered = s.unsteered := s.contend_unsteered o s.src
@[simp] theorem State.contend_fhSpeed (s : State) (o : Contended) (n : Nat) : (s.contend o n).fhSpeed = s.fhSpeed := by unfold State.contend; split <;> rfl
@[simp] theorem State.contended_fhSpeed (s : State) (o : Contended) : (s.contended o).fhSpeed = s.fhSpeed := s.contend_fhSpeed o s.src
@[simp] theorem State.contend_fhFrames (s : State) (o : Contended) (n : Nat) : (s.contend o n).fhFrames = s.fhFrames := by unfold State.contend; split <;> rfl
@[simp] theorem State.contended_fhFrames (s : State) (o : Contended) : (s.contended o).fhFrames = s.fhFrames := s.contend_fhFrames o s.src
@[simp] theorem State.contend_fhDrops (s : State) (o : Contended) (n : Nat) : (s.contend o n).fhDrops = s.fhDrops := by unfold State.contend; split <;> rfl
@[simp] theorem State.contended_fhDrops (s : State) (o : Contended) : (s.contended o).fhDrops = s.fhDrops := s.contend_fhDrops o s.src
@[simp] theorem State.contend_toHost (s : State) (o : Contended) (n : Nat) : (s.contend o n).toHost = s.toHost := by unfold State.contend; split <;> rfl
@[simp] theorem State.contended_toHost (s : State) (o : Contended) : (s.contended o).toHost = s.toHost := s.contend_toHost o s.src
@[simp] theorem State.contend_txStamps (s : State) (o : Contended) (n : Nat) : (s.contend o n).txStamps = s.txStamps := by unfold State.contend; split <;> rfl
@[simp] theorem State.contended_txStamps (s : State) (o : Contended) : (s.contended o).txStamps = s.txStamps := s.contend_txStamps o s.src
@[simp] theorem State.contend_bports (s : State) (o : Contended) (n : Nat) : (s.contend o n).bports = s.bports := by unfold State.contend; split <;> rfl
@[simp] theorem State.contended_bports (s : State) (o : Contended) : (s.contended o).bports = s.bports := s.contend_bports o s.src
@[simp] theorem State.contend_flitErrors (s : State) (o : Contended) (n : Nat) : (s.contend o n).flitErrors = s.flitErrors := by unfold State.contend; split <;> rfl
@[simp] theorem State.contended_flitErrors (s : State) (o : Contended) : (s.contended o).flitErrors = s.flitErrors := s.contend_flitErrors o s.src
@[simp] theorem State.contend_snapat (s : State) (o : Contended) (n : Nat) : (s.contend o n).snapat = s.snapat := by unfold State.contend; split <;> rfl
@[simp] theorem State.contended_snapat (s : State) (o : Contended) : (s.contended o).snapat = s.snapat := s.contend_snapat o s.src
@[simp] theorem State.contend_snapshot (s : State) (o : Contended) (n : Nat) : (s.contend o n).snapshot = s.snapshot := by unfold State.contend; split <;> rfl
@[simp] theorem State.contended_snapshot (s : State) (o : Contended) : (s.contended o).snapshot = s.snapshot := s.contend_snapshot o s.src
@[simp] theorem State.contend_snapArmed (s : State) (o : Contended) (n : Nat) : (s.contend o n).snapArmed = s.snapArmed := by unfold State.contend; split <;> rfl
@[simp] theorem State.contended_snapArmed (s : State) (o : Contended) : (s.contended o).snapArmed = s.snapArmed := s.contend_snapArmed o s.src
@[simp] theorem State.contend_snapLast (s : State) (o : Contended) (n : Nat) : (s.contend o n).snapLast = s.snapLast := by unfold State.contend; split <;> rfl
@[simp] theorem State.contended_snapLast (s : State) (o : Contended) : (s.contended o).snapLast = s.snapLast := s.contend_snapLast o s.src
@[simp] theorem State.contend_replies (s : State) (o : Contended) (n : Nat) : (s.contend o n).replies = s.replies := by unfold State.contend; split <;> rfl
@[simp] theorem State.contended_replies (s : State) (o : Contended) : (s.contended o).replies = s.replies := s.contend_replies o s.src
@[simp] theorem State.contend_fuses (s : State) (o : Contended) (n : Nat) : (s.contend o n).fuses = s.fuses := by unfold State.contend; split <;> rfl
@[simp] theorem State.contended_fuses (s : State) (o : Contended) : (s.contended o).fuses = s.fuses := s.contend_fuses o s.src
@[simp] theorem State.contend_flash (s : State) (o : Contended) (n : Nat) : (s.contend o n).flash = s.flash := by unfold State.contend; split <;> rfl
@[simp] theorem State.contended_flash (s : State) (o : Contended) : (s.contended o).flash = s.flash := s.contend_flash o s.src
@[simp] theorem State.contend_measured (s : State) (o : Contended) (n : Nat) : (s.contend o n).measured = s.measured := by unfold State.contend; split <;> rfl
@[simp] theorem State.contended_measured (s : State) (o : Contended) : (s.contended o).measured = s.measured := s.contend_measured o s.src
@[simp] theorem State.contend_hostMem (s : State) (o : Contended) (n : Nat) : (s.contend o n).hostMem = s.hostMem := by unfold State.contend; split <;> rfl
@[simp] theorem State.contended_hostMem (s : State) (o : Contended) : (s.contended o).hostMem = s.hostMem := s.contend_hostMem o s.src
@[simp] theorem State.contend_hostRefused (s : State) (o : Contended) (n : Nat) : (s.contend o n).hostRefused = s.hostRefused := by unfold State.contend; split <;> rfl
@[simp] theorem State.contended_hostRefused (s : State) (o : Contended) : (s.contended o).hostRefused = s.hostRefused := s.contend_hostRefused o s.src
@[simp] theorem State.contend_peerMem (s : State) (o : Contended) (n : Nat) : (s.contend o n).peerMem = s.peerMem := by unfold State.contend; split <;> rfl
@[simp] theorem State.contended_peerMem (s : State) (o : Contended) : (s.contended o).peerMem = s.peerMem := s.contend_peerMem o s.src
@[simp] theorem State.contend_peerWin (s : State) (o : Contended) (n : Nat) : (s.contend o n).peerWin = s.peerWin := by unfold State.contend; split <;> rfl
@[simp] theorem State.contended_peerWin (s : State) (o : Contended) : (s.contended o).peerWin = s.peerWin := s.contend_peerWin o s.src
@[simp] theorem State.contend_clock (s : State) (o : Contended) (n : Nat) : (s.contend o n).clock = s.clock := by unfold State.contend; split <;> rfl
@[simp] theorem State.contended_clock (s : State) (o : Contended) : (s.contended o).clock = s.clock := s.contend_clock o s.src
@[simp] theorem State.contend_src (s : State) (o : Contended) (n : Nat) : (s.contend o n).src = s.src := by unfold State.contend; split <;> rfl
@[simp] theorem State.contended_src (s : State) (o : Contended) : (s.contended o).src = s.src := s.contend_src o s.src
@[simp] theorem State.contend_writer (s : State) (o : Contended) (n : Nat) : (s.contend o n).writer = s.writer := by unfold State.contend; split <;> rfl
@[simp] theorem State.contended_writer (s : State) (o : Contended) : (s.contended o).writer = s.writer := s.contend_writer o s.src
@[simp] theorem State.contend_agenda (s : State) (o : Contended) (n : Nat) : (s.contend o n).agenda = s.agenda := by unfold State.contend; split <;> rfl
@[simp] theorem State.contended_agenda (s : State) (o : Contended) : (s.contended o).agenda = s.agenda := s.contend_agenda o s.src
@[simp] theorem State.contend_cur (s : State) (o : Contended) (n : Nat) : (s.contend o n).cur = s.cur := by unfold State.contend; split <;> rfl
@[simp] theorem State.contended_cur (s : State) (o : Contended) : (s.contended o).cur = s.cur := s.contend_cur o s.src
@[simp] theorem State.contend_arg (s : State) (o : Contended) (n : Nat) : (s.contend o n).arg = s.arg := by unfold State.contend; split <;> rfl
@[simp] theorem State.contended_arg (s : State) (o : Contended) : (s.contended o).arg = s.arg := s.contend_arg o s.src
@[simp] theorem State.contend_fresh (s : State) (o : Contended) (n : Nat) : (s.contend o n).fresh = s.fresh := by unfold State.contend; split <;> rfl
@[simp] theorem State.contended_fresh (s : State) (o : Contended) : (s.contended o).fresh = s.fresh := s.contend_fresh o s.src
@[simp] theorem issued_cores (s : State) (k : CtxId) : (issued k s).cores = s.cores := rfl
@[simp] theorem issued_dies (s : State) (k : CtxId) : (issued k s).dies = s.dies := rfl
@[simp] theorem issued_dmem (s : State) (k : CtxId) : (issued k s).dmem = s.dmem := rfl
@[simp] theorem issued_early (s : State) (k : CtxId) : (issued k s).early = s.early := rfl
@[simp] theorem issued_stale (s : State) (k : CtxId) : (issued k s).stale = s.stale := rfl
@[simp] theorem issued_posts (s : State) (k : CtxId) : (issued k s).posts = s.posts := rfl
@[simp] theorem issued_rels (s : State) (k : CtxId) : (issued k s).rels = s.rels := rfl
@[simp] theorem issued_memErrors (s : State) (k : CtxId) : (issued k s).memErrors = s.memErrors := rfl
@[simp] theorem issued_eccCount (s : State) (k : CtxId) : (issued k s).eccCount = s.eccCount := rfl
@[simp] theorem issued_eccReports (s : State) (k : CtxId) : (issued k s).eccReports = s.eccReports := rfl
@[simp] theorem issued_tsc (s : State) (k : CtxId) : (issued k s).tsc = s.tsc := rfl
@[simp] theorem issued_tscFrac (s : State) (k : CtxId) : (issued k s).tscFrac = s.tscFrac := rfl
@[simp] theorem issued_adj (s : State) (k : CtxId) : (issued k s).adj = s.adj := rfl
@[simp] theorem issued_tspps (s : State) (k : CtxId) : (issued k s).tspps = s.tspps := rfl
@[simp] theorem issued_parts (s : State) (k : CtxId) : (issued k s).parts = s.parts := rfl
@[simp] theorem issued_lend (s : State) (k : CtxId) : (issued k s).lend = s.lend := rfl
@[simp] theorem issued_rsplit (s : State) (k : CtxId) : (issued k s).rsplit = s.rsplit := rfl
@[simp] theorem issued_rctx (s : State) (k : CtxId) : (issued k s).rctx = s.rctx := rfl
@[simp] theorem issued_phase (s : State) (k : CtxId) : (issued k s).phase = s.phase := rfl
@[simp] theorem issued_len (s : State) (k : CtxId) : (issued k s).len = s.len := rfl
@[simp] theorem issued_period (s : State) (k : CtxId) : (issued k s).period = s.period := rfl
@[simp] theorem issued_killgap (s : State) (k : CtxId) : (issued k s).killgap = s.killgap := rfl
@[simp] theorem issued_drainmax (s : State) (k : CtxId) : (issued k s).drainmax = s.drainmax := rfl
@[simp] theorem issued_limits (s : State) (k : CtxId) : (issued k s).limits = s.limits := rfl
@[simp] theorem issued_hqueues (s : State) (k : CtxId) : (issued k s).hqueues = s.hqueues := rfl
@[simp] theorem issued_tasks (s : State) (k : CtxId) : (issued k s).tasks = s.tasks := rfl
@[simp] theorem issued_pendingList (s : State) (k : CtxId) : (issued k s).pendingList = s.pendingList := rfl
@[simp] theorem issued_msi (s : State) (k : CtxId) : (issued k s).msi = s.msi := rfl
@[simp] theorem issued_msix (s : State) (k : CtxId) : (issued k s).msix = s.msix := rfl
@[simp] theorem issued_msixPending (s : State) (k : CtxId) : (issued k s).msixPending = s.msixPending := rfl
@[simp] theorem issued_aerUncorr (s : State) (k : CtxId) : (issued k s).aerUncorr = s.aerUncorr := rfl
@[simp] theorem issued_aerCorr (s : State) (k : CtxId) : (issued k s).aerCorr = s.aerCorr := rfl
@[simp] theorem issued_sent (s : State) (k : CtxId) : (issued k s).sent = s.sent := rfl
@[simp] theorem issued_steering (s : State) (k : CtxId) : (issued k s).steering = s.steering := rfl
@[simp] theorem issued_steerClaims (s : State) (k : CtxId) : (issued k s).steerClaims = s.steerClaims := rfl
@[simp] theorem issued_unsteered (s : State) (k : CtxId) : (issued k s).unsteered = s.unsteered := rfl
@[simp] theorem issued_fhSpeed (s : State) (k : CtxId) : (issued k s).fhSpeed = s.fhSpeed := rfl
@[simp] theorem issued_fhFrames (s : State) (k : CtxId) : (issued k s).fhFrames = s.fhFrames := rfl
@[simp] theorem issued_fhDrops (s : State) (k : CtxId) : (issued k s).fhDrops = s.fhDrops := rfl
@[simp] theorem issued_toHost (s : State) (k : CtxId) : (issued k s).toHost = s.toHost := rfl
@[simp] theorem issued_txStamps (s : State) (k : CtxId) : (issued k s).txStamps = s.txStamps := rfl
@[simp] theorem issued_bports (s : State) (k : CtxId) : (issued k s).bports = s.bports := rfl
@[simp] theorem issued_flitErrors (s : State) (k : CtxId) : (issued k s).flitErrors = s.flitErrors := rfl
@[simp] theorem issued_snapat (s : State) (k : CtxId) : (issued k s).snapat = s.snapat := rfl
@[simp] theorem issued_snapshot (s : State) (k : CtxId) : (issued k s).snapshot = s.snapshot := rfl
@[simp] theorem issued_snapArmed (s : State) (k : CtxId) : (issued k s).snapArmed = s.snapArmed := rfl
@[simp] theorem issued_snapLast (s : State) (k : CtxId) : (issued k s).snapLast = s.snapLast := rfl
@[simp] theorem issued_replies (s : State) (k : CtxId) : (issued k s).replies = s.replies := rfl
@[simp] theorem issued_fuses (s : State) (k : CtxId) : (issued k s).fuses = s.fuses := rfl
@[simp] theorem issued_flash (s : State) (k : CtxId) : (issued k s).flash = s.flash := rfl
@[simp] theorem issued_measured (s : State) (k : CtxId) : (issued k s).measured = s.measured := rfl
@[simp] theorem issued_hostMem (s : State) (k : CtxId) : (issued k s).hostMem = s.hostMem := rfl
@[simp] theorem issued_hostRefused (s : State) (k : CtxId) : (issued k s).hostRefused = s.hostRefused := rfl
@[simp] theorem issued_peerMem (s : State) (k : CtxId) : (issued k s).peerMem = s.peerMem := rfl
@[simp] theorem issued_peerWin (s : State) (k : CtxId) : (issued k s).peerWin = s.peerWin := rfl
@[simp] theorem issued_marks (s : State) (k : CtxId) : (issued k s).marks = s.marks := rfl
@[simp] theorem issued_src (s : State) (k : CtxId) : (issued k s).src = s.src := rfl
@[simp] theorem issued_writer (s : State) (k : CtxId) : (issued k s).writer = s.writer := rfl
@[simp] theorem issued_late (s : State) (k : CtxId) : (issued k s).late = s.late := rfl
@[simp] theorem issued_agenda (s : State) (k : CtxId) : (issued k s).agenda = s.agenda := rfl
@[simp] theorem issued_cur (s : State) (k : CtxId) : (issued k s).cur = s.cur := rfl
@[simp] theorem issued_arg (s : State) (k : CtxId) : (issued k s).arg = s.arg := rfl
@[simp] theorem issued_fresh (s : State) (k : CtxId) : (issued k s).fresh = s.fresh := rfl
@[simp] theorem issued_clock (s : State) (k : CtxId) : (issued k s).clock = s.clock + 1 := rfl

/-! ## Accessors after updates of State -/

@[simp] theorem State.setCtx_ctx (s : State) (k : CtxId) (c : Ctx) : (s.setCtx k c).ctx k = c := by
  simp [State.ctx, State.setCtx]
theorem State.setCtx_ctx_ne (s : State) (j k : CtxId) (c : Ctx) (h : j ≠ k) : (s.setCtx k c).ctx j = s.ctx j := by
  have : k.val ≠ j.val := fun e => h (Fin.ext e.symm)
  simp [State.ctx, State.setCtx, this]
@[simp] theorem State.modCtx_ctx (s : State) (k : CtxId) (f : Ctx → Ctx) : (s.modCtx k f).ctx k = f (s.ctx k) := by
  simp [State.modCtx]
theorem State.modCtx_ctx_ne (s : State) (j k : CtxId) (f : Ctx → Ctx) (h : j ≠ k) : (s.modCtx k f).ctx j = s.ctx j := by
  simp [State.modCtx, State.setCtx_ctx_ne _ _ _ _ h]
@[simp] theorem State.setCtx_setCtx (s : State) (k : CtxId) (c d : Ctx) : (s.setCtx k c).setCtx k d = s.setCtx k d := by
  simp [State.setCtx]
@[simp] theorem State.modCtx_modCtx (s : State) (k : CtxId) (f g : Ctx → Ctx) :
    (s.modCtx k f).modCtx k g = s.modCtx k (fun c => g (f c)) := by
  simp [State.modCtx]
@[simp] theorem State.setCtx_core (s : State) (k : CtxId) (c : Ctx) (x : CoreId) : (s.setCtx k c).core x = s.core x := rfl
@[simp] theorem State.setCtx_die (s : State) (k : CtxId) (c : Ctx) (x : DieId) : (s.setCtx k c).die x = s.die x := rfl
@[simp] theorem State.setCtx_part (s : State) (k : CtxId) (c : Ctx) (x : Fin 16) : (s.setCtx k c).part x = s.part x := rfl
@[simp] theorem State.setCtx_taskAt (s : State) (k : CtxId) (c : Ctx) (n : Nat) : (s.setCtx k c).taskAt n = s.taskAt n := rfl
@[simp] theorem State.modCtx_core (s : State) (k : CtxId) (f : Ctx → Ctx) (x : CoreId) : (s.modCtx k f).core x = s.core x := rfl
@[simp] theorem State.modCtx_die (s : State) (k : CtxId) (f : Ctx → Ctx) (x : DieId) : (s.modCtx k f).die x = s.die x := rfl
@[simp] theorem State.modCtx_part (s : State) (k : CtxId) (f : Ctx → Ctx) (x : Fin 16) : (s.modCtx k f).part x = s.part x := rfl
@[simp] theorem State.modCtx_taskAt (s : State) (k : CtxId) (f : Ctx → Ctx) (n : Nat) : (s.modCtx k f).taskAt n = s.taskAt n := rfl
@[simp] theorem State.setCore_ctx (s : State) (c : CoreId) (x : Core) (k : CtxId) : (s.setCore c x).ctx k = s.ctx k := rfl
@[simp] theorem State.setCore_die (s : State) (c : CoreId) (x : Core) (d : DieId) : (s.setCore c x).die d = s.die d := rfl
@[simp] theorem State.setCore_core (s : State) (c : CoreId) (x : Core) : (s.setCore c x).core c = x := by
  simp [State.core, State.setCore]
theorem State.setCore_core_ne (s : State) (c e : CoreId) (x : Core) (h : e ≠ c) : (s.setCore c x).core e = s.core e := by
  have : c.val ≠ e.val := fun q => h (Fin.ext q.symm)
  simp [State.core, State.setCore, this]
@[simp] theorem State.setDie_ctx (s : State) (d : DieId) (x : Die) (k : CtxId) : (s.setDie d x).ctx k = s.ctx k := rfl
@[simp] theorem State.setDie_core (s : State) (d : DieId) (x : Die) (c : CoreId) : (s.setDie d x).core c = s.core c := rfl
@[simp] theorem State.setDie_die (s : State) (d : DieId) (x : Die) : (s.setDie d x).die d = x := by
  simp [State.die, State.setDie]
@[simp] theorem State.modDie_ctx (s : State) (d : DieId) (f : Die → Die) (k : CtxId) : (s.modDie d f).ctx k = s.ctx k := rfl
@[simp] theorem State.modDie_core (s : State) (d : DieId) (f : Die → Die) (c : CoreId) : (s.modDie d f).core c = s.core c := rfl
@[simp] theorem State.modDie_die (s : State) (d : DieId) (f : Die → Die) : (s.modDie d f).die d = f (s.die d) := by
  simp [State.modDie]
@[simp] theorem State.setTask_ctx (s : State) (n : Nat) (x : Task) (k : CtxId) : (s.setTask n x).ctx k = s.ctx k := rfl
@[simp] theorem State.setPart_ctx (s : State) (p : Fin 16) (x : Part) (k : CtxId) : (s.setPart p x).ctx k = s.ctx k := rfl

/-- Issue charges the issuing context alone. -/
theorem issued_ctx_ne (s : State) (j k : CtxId) (h : j ≠ k) : (issued k s).ctx j = s.ctx j := by
  have : k.val ≠ j.val := fun q => h (Fin.ext q.symm)
  simp [issued, State.modCtx, State.setCtx, State.ctx, this]

/-- What an issue changes of its context. -/
@[simp] theorem issued_ctx (s : State) (k : CtxId) : (issued k s).ctx k =
    { s.ctx k with
      issues := (s.ctx k).issues + 1, lastIssue := s.clock + 1,
      issueLeft := if (s.ctx k).cbud = 0xFFFFFFFF then (s.ctx k).issueLeft else (s.ctx k).issueLeft - 1 } := by
  simp [issued, State.modCtx, State.setCtx, State.ctx]

/-! ## Updates of Ctx, field by field -/

@[simp] theorem Ctx.advance_run (c : Ctx) (off : Nat) : (c.advance off).run = c.run := rfl
@[simp] theorem Ctx.advance_s (c : Ctx) (off : Nat) : (c.advance off).s = c.s := rfl
@[simp] theorem Ctx.advance_p (c : Ctx) (off : Nat) : (c.advance off).p = c.p := rfl
@[simp] theorem Ctx.advance_tiles (c : Ctx) (off : Nat) : (c.advance off).tiles = c.tiles := rfl
@[simp] theorem Ctx.advance_masks (c : Ctx) (off : Nat) : (c.advance off).masks = c.masks := rfl
@[simp] theorem Ctx.advance_shapes (c : Ctx) (off : Nat) : (c.advance off).shapes = c.shapes := rfl
@[simp] theorem Ctx.advance_csr (c : Ctx) (off : Nat) : (c.advance off).csr = c.csr := rfl
@[simp] theorem Ctx.advance_queues (c : Ctx) (off : Nat) : (c.advance off).queues = c.queues := rfl
@[simp] theorem Ctx.advance_dispatched (c : Ctx) (off : Nat) : (c.advance off).dispatched = c.dispatched := rfl
@[simp] theorem Ctx.advance_tokens (c : Ctx) (off : Nat) : (c.advance off).tokens = c.tokens := rfl
@[simp] theorem Ctx.advance_nestCi (c : Ctx) (off : Nat) : (c.advance off).nestCi = c.nestCi := rfl
@[simp] theorem Ctx.advance_nestCo (c : Ctx) (off : Nat) : (c.advance off).nestCo = c.nestCo := rfl
@[simp] theorem Ctx.advance_mxcfg (c : Ctx) (off : Nat) : (c.advance off).mxcfg = c.mxcfg := rfl
@[simp] theorem Ctx.advance_sqcfg (c : Ctx) (off : Nat) : (c.advance off).sqcfg = c.sqcfg := rfl
@[simp] theorem Ctx.advance_planes (c : Ctx) (off : Nat) : (c.advance off).planes = c.planes := rfl
@[simp] theorem Ctx.advance_activePlane (c : Ctx) (off : Nat) : (c.advance off).activePlane = c.activePlane := rfl
@[simp] theorem Ctx.advance_scaleq (c : Ctx) (off : Nat) : (c.advance off).scaleq = c.scaleq := rfl
@[simp] theorem Ctx.advance_mview (c : Ctx) (off : Nat) : (c.advance off).mview = c.mview := rfl
@[simp] theorem Ctx.advance_oslots (c : Ctx) (off : Nat) : (c.advance off).oslots = c.oslots := rfl
@[simp] theorem Ctx.advance_oview (c : Ctx) (off : Nat) : (c.advance off).oview = c.oview := rfl
@[simp] theorem Ctx.advance_gops (c : Ctx) (off : Nat) : (c.advance off).gops = c.gops := rfl
@[simp] theorem Ctx.advance_sbuf (c : Ctx) (off : Nat) : (c.advance off).sbuf = c.sbuf := rfl
@[simp] theorem Ctx.advance_posted (c : Ctx) (off : Nat) : (c.advance off).posted = c.posted := rfl
@[simp] theorem Ctx.advance_hostLoads (c : Ctx) (off : Nat) : (c.advance off).hostLoads = c.hostLoads := rfl
@[simp] theorem Ctx.advance_lateLoads (c : Ctx) (off : Nat) : (c.advance off).lateLoads = c.lateLoads := rfl
@[simp] theorem Ctx.advance_defers (c : Ctx) (off : Nat) : (c.advance off).defers = c.defers := rfl
@[simp] theorem Ctx.advance_lags (c : Ctx) (off : Nat) : (c.advance off).lags = c.lags := rfl
@[simp] theorem Ctx.advance_fails (c : Ctx) (off : Nat) : (c.advance off).fails = c.fails := rfl
@[simp] theorem Ctx.advance_lateFails (c : Ctx) (off : Nat) : (c.advance off).lateFails = c.lateFails := rfl
@[simp] theorem Ctx.advance_arr (c : Ctx) (off : Nat) : (c.advance off).arr = c.arr := rfl
@[simp] theorem Ctx.advance_arrStep (c : Ctx) (off : Nat) : (c.advance off).arrStep = c.arrStep := rfl
@[simp] theorem Ctx.advance_arrDone (c : Ctx) (off : Nat) : (c.advance off).arrDone = c.arrDone := rfl
@[simp] theorem Ctx.advance_ended (c : Ctx) (off : Nat) : (c.advance off).ended = c.ended := rfl
@[simp] theorem Ctx.advance_heldReports (c : Ctx) (off : Nat) : (c.advance off).heldReports = c.heldReports := rfl
@[simp] theorem Ctx.advance_heldEscs (c : Ctx) (off : Nat) : (c.advance off).heldEscs = c.heldEscs := rfl
@[simp] theorem Ctx.advance_preHeld (c : Ctx) (off : Nat) : (c.advance off).preHeld = c.preHeld := rfl
@[simp] theorem Ctx.advance_lastArith (c : Ctx) (off : Nat) : (c.advance off).lastArith = c.lastArith := rfl
@[simp] theorem Ctx.advance_watchdog (c : Ctx) (off : Nat) : (c.advance off).watchdog = c.watchdog := rfl
@[simp] theorem Ctx.advance_stallRaised (c : Ctx) (off : Nat) : (c.advance off).stallRaised = c.stallRaised := rfl
@[simp] theorem Ctx.advance_drainIdle (c : Ctx) (off : Nat) : (c.advance off).drainIdle = c.drainIdle := rfl
@[simp] theorem Ctx.advance_doomed (c : Ctx) (off : Nat) : (c.advance off).doomed = c.doomed := rfl
@[simp] theorem Ctx.advance_headSince (c : Ctx) (off : Nat) : (c.advance off).headSince = c.headSince := rfl
@[simp] theorem Ctx.advance_cbud (c : Ctx) (off : Nat) : (c.advance off).cbud = c.cbud := rfl
@[simp] theorem Ctx.advance_issueLeft (c : Ctx) (off : Nat) : (c.advance off).issueLeft = c.issueLeft := rfl
@[simp] theorem Ctx.advance_lastIssue (c : Ctx) (off : Nat) : (c.advance off).lastIssue = c.lastIssue := rfl
@[simp] theorem Ctx.advance_issues (c : Ctx) (off : Nat) : (c.advance off).issues = c.issues := rfl
@[simp] theorem Ctx.advance_spilled (c : Ctx) (off : Nat) : (c.advance off).spilled = c.spilled := rfl
@[simp] theorem Ctx.advance_task (c : Ctx) (off : Nat) : (c.advance off).task = c.task := rfl
@[simp] theorem Ctx.setTok_run (c : Ctx) (f : Fin 10) (n : Nat) : (c.setTok f n).run = c.run := rfl
@[simp] theorem Ctx.setTok_pc (c : Ctx) (f : Fin 10) (n : Nat) : (c.setTok f n).pc = c.pc := rfl
@[simp] theorem Ctx.setTok_s (c : Ctx) (f : Fin 10) (n : Nat) : (c.setTok f n).s = c.s := rfl
@[simp] theorem Ctx.setTok_p (c : Ctx) (f : Fin 10) (n : Nat) : (c.setTok f n).p = c.p := rfl
@[simp] theorem Ctx.setTok_tiles (c : Ctx) (f : Fin 10) (n : Nat) : (c.setTok f n).tiles = c.tiles := rfl
@[simp] theorem Ctx.setTok_masks (c : Ctx) (f : Fin 10) (n : Nat) : (c.setTok f n).masks = c.masks := rfl
@[simp] theorem Ctx.setTok_shapes (c : Ctx) (f : Fin 10) (n : Nat) : (c.setTok f n).shapes = c.shapes := rfl
@[simp] theorem Ctx.setTok_csr (c : Ctx) (f : Fin 10) (n : Nat) : (c.setTok f n).csr = c.csr := rfl
@[simp] theorem Ctx.setTok_queues (c : Ctx) (f : Fin 10) (n : Nat) : (c.setTok f n).queues = c.queues := rfl
@[simp] theorem Ctx.setTok_dispatched (c : Ctx) (f : Fin 10) (n : Nat) : (c.setTok f n).dispatched = c.dispatched := rfl
@[simp] theorem Ctx.setTok_nestCi (c : Ctx) (f : Fin 10) (n : Nat) : (c.setTok f n).nestCi = c.nestCi := rfl
@[simp] theorem Ctx.setTok_nestCo (c : Ctx) (f : Fin 10) (n : Nat) : (c.setTok f n).nestCo = c.nestCo := rfl
@[simp] theorem Ctx.setTok_mxcfg (c : Ctx) (f : Fin 10) (n : Nat) : (c.setTok f n).mxcfg = c.mxcfg := rfl
@[simp] theorem Ctx.setTok_sqcfg (c : Ctx) (f : Fin 10) (n : Nat) : (c.setTok f n).sqcfg = c.sqcfg := rfl
@[simp] theorem Ctx.setTok_planes (c : Ctx) (f : Fin 10) (n : Nat) : (c.setTok f n).planes = c.planes := rfl
@[simp] theorem Ctx.setTok_activePlane (c : Ctx) (f : Fin 10) (n : Nat) : (c.setTok f n).activePlane = c.activePlane := rfl
@[simp] theorem Ctx.setTok_scaleq (c : Ctx) (f : Fin 10) (n : Nat) : (c.setTok f n).scaleq = c.scaleq := rfl
@[simp] theorem Ctx.setTok_mview (c : Ctx) (f : Fin 10) (n : Nat) : (c.setTok f n).mview = c.mview := rfl
@[simp] theorem Ctx.setTok_oslots (c : Ctx) (f : Fin 10) (n : Nat) : (c.setTok f n).oslots = c.oslots := rfl
@[simp] theorem Ctx.setTok_oview (c : Ctx) (f : Fin 10) (n : Nat) : (c.setTok f n).oview = c.oview := rfl
@[simp] theorem Ctx.setTok_gops (c : Ctx) (f : Fin 10) (n : Nat) : (c.setTok f n).gops = c.gops := rfl
@[simp] theorem Ctx.setTok_sbuf (c : Ctx) (f : Fin 10) (n : Nat) : (c.setTok f n).sbuf = c.sbuf := rfl
@[simp] theorem Ctx.setTok_posted (c : Ctx) (f : Fin 10) (n : Nat) : (c.setTok f n).posted = c.posted := rfl
@[simp] theorem Ctx.setTok_hostLoads (c : Ctx) (f : Fin 10) (n : Nat) : (c.setTok f n).hostLoads = c.hostLoads := rfl
@[simp] theorem Ctx.setTok_lateLoads (c : Ctx) (f : Fin 10) (n : Nat) : (c.setTok f n).lateLoads = c.lateLoads := rfl
@[simp] theorem Ctx.setTok_defers (c : Ctx) (f : Fin 10) (n : Nat) : (c.setTok f n).defers = c.defers := rfl
@[simp] theorem Ctx.setTok_lags (c : Ctx) (f : Fin 10) (n : Nat) : (c.setTok f n).lags = c.lags := rfl
@[simp] theorem Ctx.setTok_fails (c : Ctx) (f : Fin 10) (n : Nat) : (c.setTok f n).fails = c.fails := rfl
@[simp] theorem Ctx.setTok_lateFails (c : Ctx) (f : Fin 10) (n : Nat) : (c.setTok f n).lateFails = c.lateFails := rfl
@[simp] theorem Ctx.setTok_arr (c : Ctx) (f : Fin 10) (n : Nat) : (c.setTok f n).arr = c.arr := rfl
@[simp] theorem Ctx.setTok_arrStep (c : Ctx) (f : Fin 10) (n : Nat) : (c.setTok f n).arrStep = c.arrStep := rfl
@[simp] theorem Ctx.setTok_arrDone (c : Ctx) (f : Fin 10) (n : Nat) : (c.setTok f n).arrDone = c.arrDone := rfl
@[simp] theorem Ctx.setTok_ended (c : Ctx) (f : Fin 10) (n : Nat) : (c.setTok f n).ended = c.ended := rfl
@[simp] theorem Ctx.setTok_heldReports (c : Ctx) (f : Fin 10) (n : Nat) : (c.setTok f n).heldReports = c.heldReports := rfl
@[simp] theorem Ctx.setTok_heldEscs (c : Ctx) (f : Fin 10) (n : Nat) : (c.setTok f n).heldEscs = c.heldEscs := rfl
@[simp] theorem Ctx.setTok_preHeld (c : Ctx) (f : Fin 10) (n : Nat) : (c.setTok f n).preHeld = c.preHeld := rfl
@[simp] theorem Ctx.setTok_lastArith (c : Ctx) (f : Fin 10) (n : Nat) : (c.setTok f n).lastArith = c.lastArith := rfl
@[simp] theorem Ctx.setTok_watchdog (c : Ctx) (f : Fin 10) (n : Nat) : (c.setTok f n).watchdog = c.watchdog := rfl
@[simp] theorem Ctx.setTok_stallRaised (c : Ctx) (f : Fin 10) (n : Nat) : (c.setTok f n).stallRaised = c.stallRaised := rfl
@[simp] theorem Ctx.setTok_drainIdle (c : Ctx) (f : Fin 10) (n : Nat) : (c.setTok f n).drainIdle = c.drainIdle := rfl
@[simp] theorem Ctx.setTok_doomed (c : Ctx) (f : Fin 10) (n : Nat) : (c.setTok f n).doomed = c.doomed := rfl
@[simp] theorem Ctx.setTok_headSince (c : Ctx) (f : Fin 10) (n : Nat) : (c.setTok f n).headSince = c.headSince := rfl
@[simp] theorem Ctx.setTok_cbud (c : Ctx) (f : Fin 10) (n : Nat) : (c.setTok f n).cbud = c.cbud := rfl
@[simp] theorem Ctx.setTok_issueLeft (c : Ctx) (f : Fin 10) (n : Nat) : (c.setTok f n).issueLeft = c.issueLeft := rfl
@[simp] theorem Ctx.setTok_lastIssue (c : Ctx) (f : Fin 10) (n : Nat) : (c.setTok f n).lastIssue = c.lastIssue := rfl
@[simp] theorem Ctx.setTok_issues (c : Ctx) (f : Fin 10) (n : Nat) : (c.setTok f n).issues = c.issues := rfl
@[simp] theorem Ctx.setTok_spilled (c : Ctx) (f : Fin 10) (n : Nat) : (c.setTok f n).spilled = c.spilled := rfl
@[simp] theorem Ctx.setTok_task (c : Ctx) (f : Fin 10) (n : Nat) : (c.setTok f n).task = c.task := rfl
@[simp] theorem Ctx.setQueue_run (c : Ctx) (q : EngineQ) (x : EQueue) : (c.setQueue q x).run = c.run := rfl
@[simp] theorem Ctx.setQueue_pc (c : Ctx) (q : EngineQ) (x : EQueue) : (c.setQueue q x).pc = c.pc := rfl
@[simp] theorem Ctx.setQueue_s (c : Ctx) (q : EngineQ) (x : EQueue) : (c.setQueue q x).s = c.s := rfl
@[simp] theorem Ctx.setQueue_p (c : Ctx) (q : EngineQ) (x : EQueue) : (c.setQueue q x).p = c.p := rfl
@[simp] theorem Ctx.setQueue_tiles (c : Ctx) (q : EngineQ) (x : EQueue) : (c.setQueue q x).tiles = c.tiles := rfl
@[simp] theorem Ctx.setQueue_masks (c : Ctx) (q : EngineQ) (x : EQueue) : (c.setQueue q x).masks = c.masks := rfl
@[simp] theorem Ctx.setQueue_shapes (c : Ctx) (q : EngineQ) (x : EQueue) : (c.setQueue q x).shapes = c.shapes := rfl
@[simp] theorem Ctx.setQueue_csr (c : Ctx) (q : EngineQ) (x : EQueue) : (c.setQueue q x).csr = c.csr := rfl
@[simp] theorem Ctx.setQueue_dispatched (c : Ctx) (q : EngineQ) (x : EQueue) : (c.setQueue q x).dispatched = c.dispatched := rfl
@[simp] theorem Ctx.setQueue_tokens (c : Ctx) (q : EngineQ) (x : EQueue) : (c.setQueue q x).tokens = c.tokens := rfl
@[simp] theorem Ctx.setQueue_nestCi (c : Ctx) (q : EngineQ) (x : EQueue) : (c.setQueue q x).nestCi = c.nestCi := rfl
@[simp] theorem Ctx.setQueue_nestCo (c : Ctx) (q : EngineQ) (x : EQueue) : (c.setQueue q x).nestCo = c.nestCo := rfl
@[simp] theorem Ctx.setQueue_mxcfg (c : Ctx) (q : EngineQ) (x : EQueue) : (c.setQueue q x).mxcfg = c.mxcfg := rfl
@[simp] theorem Ctx.setQueue_sqcfg (c : Ctx) (q : EngineQ) (x : EQueue) : (c.setQueue q x).sqcfg = c.sqcfg := rfl
@[simp] theorem Ctx.setQueue_planes (c : Ctx) (q : EngineQ) (x : EQueue) : (c.setQueue q x).planes = c.planes := rfl
@[simp] theorem Ctx.setQueue_activePlane (c : Ctx) (q : EngineQ) (x : EQueue) : (c.setQueue q x).activePlane = c.activePlane := rfl
@[simp] theorem Ctx.setQueue_scaleq (c : Ctx) (q : EngineQ) (x : EQueue) : (c.setQueue q x).scaleq = c.scaleq := rfl
@[simp] theorem Ctx.setQueue_mview (c : Ctx) (q : EngineQ) (x : EQueue) : (c.setQueue q x).mview = c.mview := rfl
@[simp] theorem Ctx.setQueue_oslots (c : Ctx) (q : EngineQ) (x : EQueue) : (c.setQueue q x).oslots = c.oslots := rfl
@[simp] theorem Ctx.setQueue_oview (c : Ctx) (q : EngineQ) (x : EQueue) : (c.setQueue q x).oview = c.oview := rfl
@[simp] theorem Ctx.setQueue_gops (c : Ctx) (q : EngineQ) (x : EQueue) : (c.setQueue q x).gops = c.gops := rfl
@[simp] theorem Ctx.setQueue_sbuf (c : Ctx) (q : EngineQ) (x : EQueue) : (c.setQueue q x).sbuf = c.sbuf := rfl
@[simp] theorem Ctx.setQueue_posted (c : Ctx) (q : EngineQ) (x : EQueue) : (c.setQueue q x).posted = c.posted := rfl
@[simp] theorem Ctx.setQueue_hostLoads (c : Ctx) (q : EngineQ) (x : EQueue) : (c.setQueue q x).hostLoads = c.hostLoads := rfl
@[simp] theorem Ctx.setQueue_lateLoads (c : Ctx) (q : EngineQ) (x : EQueue) : (c.setQueue q x).lateLoads = c.lateLoads := rfl
@[simp] theorem Ctx.setQueue_defers (c : Ctx) (q : EngineQ) (x : EQueue) : (c.setQueue q x).defers = c.defers := rfl
@[simp] theorem Ctx.setQueue_lags (c : Ctx) (q : EngineQ) (x : EQueue) : (c.setQueue q x).lags = c.lags := rfl
@[simp] theorem Ctx.setQueue_fails (c : Ctx) (q : EngineQ) (x : EQueue) : (c.setQueue q x).fails = c.fails := rfl
@[simp] theorem Ctx.setQueue_lateFails (c : Ctx) (q : EngineQ) (x : EQueue) : (c.setQueue q x).lateFails = c.lateFails := rfl
@[simp] theorem Ctx.setQueue_arr (c : Ctx) (q : EngineQ) (x : EQueue) : (c.setQueue q x).arr = c.arr := rfl
@[simp] theorem Ctx.setQueue_arrStep (c : Ctx) (q : EngineQ) (x : EQueue) : (c.setQueue q x).arrStep = c.arrStep := rfl
@[simp] theorem Ctx.setQueue_arrDone (c : Ctx) (q : EngineQ) (x : EQueue) : (c.setQueue q x).arrDone = c.arrDone := rfl
@[simp] theorem Ctx.setQueue_ended (c : Ctx) (q : EngineQ) (x : EQueue) : (c.setQueue q x).ended = c.ended := rfl
@[simp] theorem Ctx.setQueue_heldReports (c : Ctx) (q : EngineQ) (x : EQueue) : (c.setQueue q x).heldReports = c.heldReports := rfl
@[simp] theorem Ctx.setQueue_heldEscs (c : Ctx) (q : EngineQ) (x : EQueue) : (c.setQueue q x).heldEscs = c.heldEscs := rfl
@[simp] theorem Ctx.setQueue_preHeld (c : Ctx) (q : EngineQ) (x : EQueue) : (c.setQueue q x).preHeld = c.preHeld := rfl
@[simp] theorem Ctx.setQueue_lastArith (c : Ctx) (q : EngineQ) (x : EQueue) : (c.setQueue q x).lastArith = c.lastArith := rfl
@[simp] theorem Ctx.setQueue_watchdog (c : Ctx) (q : EngineQ) (x : EQueue) : (c.setQueue q x).watchdog = c.watchdog := rfl
@[simp] theorem Ctx.setQueue_stallRaised (c : Ctx) (q : EngineQ) (x : EQueue) : (c.setQueue q x).stallRaised = c.stallRaised := rfl
@[simp] theorem Ctx.setQueue_drainIdle (c : Ctx) (q : EngineQ) (x : EQueue) : (c.setQueue q x).drainIdle = c.drainIdle := rfl
@[simp] theorem Ctx.setQueue_doomed (c : Ctx) (q : EngineQ) (x : EQueue) : (c.setQueue q x).doomed = c.doomed := rfl
@[simp] theorem Ctx.setQueue_headSince (c : Ctx) (q : EngineQ) (x : EQueue) : (c.setQueue q x).headSince = c.headSince := rfl
@[simp] theorem Ctx.setQueue_cbud (c : Ctx) (q : EngineQ) (x : EQueue) : (c.setQueue q x).cbud = c.cbud := rfl
@[simp] theorem Ctx.setQueue_issueLeft (c : Ctx) (q : EngineQ) (x : EQueue) : (c.setQueue q x).issueLeft = c.issueLeft := rfl
@[simp] theorem Ctx.setQueue_lastIssue (c : Ctx) (q : EngineQ) (x : EQueue) : (c.setQueue q x).lastIssue = c.lastIssue := rfl
@[simp] theorem Ctx.setQueue_issues (c : Ctx) (q : EngineQ) (x : EQueue) : (c.setQueue q x).issues = c.issues := rfl
@[simp] theorem Ctx.setQueue_spilled (c : Ctx) (q : EngineQ) (x : EQueue) : (c.setQueue q x).spilled = c.spilled := rfl
@[simp] theorem Ctx.setQueue_task (c : Ctx) (q : EngineQ) (x : EQueue) : (c.setQueue q x).task = c.task := rfl
@[simp] theorem Ctx.setEntries_run (c : Ctx) (q : EngineQ) (l : List Entry) : (c.setEntries q l).run = c.run := rfl
@[simp] theorem Ctx.setEntries_pc (c : Ctx) (q : EngineQ) (l : List Entry) : (c.setEntries q l).pc = c.pc := rfl
@[simp] theorem Ctx.setEntries_s (c : Ctx) (q : EngineQ) (l : List Entry) : (c.setEntries q l).s = c.s := rfl
@[simp] theorem Ctx.setEntries_p (c : Ctx) (q : EngineQ) (l : List Entry) : (c.setEntries q l).p = c.p := rfl
@[simp] theorem Ctx.setEntries_tiles (c : Ctx) (q : EngineQ) (l : List Entry) : (c.setEntries q l).tiles = c.tiles := rfl
@[simp] theorem Ctx.setEntries_masks (c : Ctx) (q : EngineQ) (l : List Entry) : (c.setEntries q l).masks = c.masks := rfl
@[simp] theorem Ctx.setEntries_shapes (c : Ctx) (q : EngineQ) (l : List Entry) : (c.setEntries q l).shapes = c.shapes := rfl
@[simp] theorem Ctx.setEntries_csr (c : Ctx) (q : EngineQ) (l : List Entry) : (c.setEntries q l).csr = c.csr := rfl
@[simp] theorem Ctx.setEntries_dispatched (c : Ctx) (q : EngineQ) (l : List Entry) : (c.setEntries q l).dispatched = c.dispatched := rfl
@[simp] theorem Ctx.setEntries_tokens (c : Ctx) (q : EngineQ) (l : List Entry) : (c.setEntries q l).tokens = c.tokens := rfl
@[simp] theorem Ctx.setEntries_nestCi (c : Ctx) (q : EngineQ) (l : List Entry) : (c.setEntries q l).nestCi = c.nestCi := rfl
@[simp] theorem Ctx.setEntries_nestCo (c : Ctx) (q : EngineQ) (l : List Entry) : (c.setEntries q l).nestCo = c.nestCo := rfl
@[simp] theorem Ctx.setEntries_mxcfg (c : Ctx) (q : EngineQ) (l : List Entry) : (c.setEntries q l).mxcfg = c.mxcfg := rfl
@[simp] theorem Ctx.setEntries_sqcfg (c : Ctx) (q : EngineQ) (l : List Entry) : (c.setEntries q l).sqcfg = c.sqcfg := rfl
@[simp] theorem Ctx.setEntries_planes (c : Ctx) (q : EngineQ) (l : List Entry) : (c.setEntries q l).planes = c.planes := rfl
@[simp] theorem Ctx.setEntries_activePlane (c : Ctx) (q : EngineQ) (l : List Entry) : (c.setEntries q l).activePlane = c.activePlane := rfl
@[simp] theorem Ctx.setEntries_scaleq (c : Ctx) (q : EngineQ) (l : List Entry) : (c.setEntries q l).scaleq = c.scaleq := rfl
@[simp] theorem Ctx.setEntries_mview (c : Ctx) (q : EngineQ) (l : List Entry) : (c.setEntries q l).mview = c.mview := rfl
@[simp] theorem Ctx.setEntries_oslots (c : Ctx) (q : EngineQ) (l : List Entry) : (c.setEntries q l).oslots = c.oslots := rfl
@[simp] theorem Ctx.setEntries_oview (c : Ctx) (q : EngineQ) (l : List Entry) : (c.setEntries q l).oview = c.oview := rfl
@[simp] theorem Ctx.setEntries_gops (c : Ctx) (q : EngineQ) (l : List Entry) : (c.setEntries q l).gops = c.gops := rfl
@[simp] theorem Ctx.setEntries_sbuf (c : Ctx) (q : EngineQ) (l : List Entry) : (c.setEntries q l).sbuf = c.sbuf := rfl
@[simp] theorem Ctx.setEntries_posted (c : Ctx) (q : EngineQ) (l : List Entry) : (c.setEntries q l).posted = c.posted := rfl
@[simp] theorem Ctx.setEntries_hostLoads (c : Ctx) (q : EngineQ) (l : List Entry) : (c.setEntries q l).hostLoads = c.hostLoads := rfl
@[simp] theorem Ctx.setEntries_lateLoads (c : Ctx) (q : EngineQ) (l : List Entry) : (c.setEntries q l).lateLoads = c.lateLoads := rfl
@[simp] theorem Ctx.setEntries_defers (c : Ctx) (q : EngineQ) (l : List Entry) : (c.setEntries q l).defers = c.defers := rfl
@[simp] theorem Ctx.setEntries_lags (c : Ctx) (q : EngineQ) (l : List Entry) : (c.setEntries q l).lags = c.lags := rfl
@[simp] theorem Ctx.setEntries_fails (c : Ctx) (q : EngineQ) (l : List Entry) : (c.setEntries q l).fails = c.fails := rfl
@[simp] theorem Ctx.setEntries_lateFails (c : Ctx) (q : EngineQ) (l : List Entry) : (c.setEntries q l).lateFails = c.lateFails := rfl
@[simp] theorem Ctx.setEntries_arr (c : Ctx) (q : EngineQ) (l : List Entry) : (c.setEntries q l).arr = c.arr := rfl
@[simp] theorem Ctx.setEntries_arrStep (c : Ctx) (q : EngineQ) (l : List Entry) : (c.setEntries q l).arrStep = c.arrStep := rfl
@[simp] theorem Ctx.setEntries_arrDone (c : Ctx) (q : EngineQ) (l : List Entry) : (c.setEntries q l).arrDone = c.arrDone := rfl
@[simp] theorem Ctx.setEntries_ended (c : Ctx) (q : EngineQ) (l : List Entry) : (c.setEntries q l).ended = c.ended := rfl
@[simp] theorem Ctx.setEntries_heldReports (c : Ctx) (q : EngineQ) (l : List Entry) : (c.setEntries q l).heldReports = c.heldReports := rfl
@[simp] theorem Ctx.setEntries_heldEscs (c : Ctx) (q : EngineQ) (l : List Entry) : (c.setEntries q l).heldEscs = c.heldEscs := rfl
@[simp] theorem Ctx.setEntries_preHeld (c : Ctx) (q : EngineQ) (l : List Entry) : (c.setEntries q l).preHeld = c.preHeld := rfl
@[simp] theorem Ctx.setEntries_lastArith (c : Ctx) (q : EngineQ) (l : List Entry) : (c.setEntries q l).lastArith = c.lastArith := rfl
@[simp] theorem Ctx.setEntries_watchdog (c : Ctx) (q : EngineQ) (l : List Entry) : (c.setEntries q l).watchdog = c.watchdog := rfl
@[simp] theorem Ctx.setEntries_stallRaised (c : Ctx) (q : EngineQ) (l : List Entry) : (c.setEntries q l).stallRaised = c.stallRaised := rfl
@[simp] theorem Ctx.setEntries_drainIdle (c : Ctx) (q : EngineQ) (l : List Entry) : (c.setEntries q l).drainIdle = c.drainIdle := rfl
@[simp] theorem Ctx.setEntries_doomed (c : Ctx) (q : EngineQ) (l : List Entry) : (c.setEntries q l).doomed = c.doomed := rfl
@[simp] theorem Ctx.setEntries_headSince (c : Ctx) (q : EngineQ) (l : List Entry) : (c.setEntries q l).headSince = c.headSince := rfl
@[simp] theorem Ctx.setEntries_cbud (c : Ctx) (q : EngineQ) (l : List Entry) : (c.setEntries q l).cbud = c.cbud := rfl
@[simp] theorem Ctx.setEntries_issueLeft (c : Ctx) (q : EngineQ) (l : List Entry) : (c.setEntries q l).issueLeft = c.issueLeft := rfl
@[simp] theorem Ctx.setEntries_lastIssue (c : Ctx) (q : EngineQ) (l : List Entry) : (c.setEntries q l).lastIssue = c.lastIssue := rfl
@[simp] theorem Ctx.setEntries_issues (c : Ctx) (q : EngineQ) (l : List Entry) : (c.setEntries q l).issues = c.issues := rfl
@[simp] theorem Ctx.setEntries_spilled (c : Ctx) (q : EngineQ) (l : List Entry) : (c.setEntries q l).spilled = c.spilled := rfl
@[simp] theorem Ctx.setEntries_task (c : Ctx) (q : EngineQ) (l : List Entry) : (c.setEntries q l).task = c.task := rfl
@[simp] theorem Ctx.orFlags_run (c : Ctx) (f : Flags) : (c.orFlags f).run = c.run := rfl
@[simp] theorem Ctx.orFlags_pc (c : Ctx) (f : Flags) : (c.orFlags f).pc = c.pc := rfl
@[simp] theorem Ctx.orFlags_s (c : Ctx) (f : Flags) : (c.orFlags f).s = c.s := rfl
@[simp] theorem Ctx.orFlags_p (c : Ctx) (f : Flags) : (c.orFlags f).p = c.p := rfl
@[simp] theorem Ctx.orFlags_tiles (c : Ctx) (f : Flags) : (c.orFlags f).tiles = c.tiles := rfl
@[simp] theorem Ctx.orFlags_masks (c : Ctx) (f : Flags) : (c.orFlags f).masks = c.masks := rfl
@[simp] theorem Ctx.orFlags_shapes (c : Ctx) (f : Flags) : (c.orFlags f).shapes = c.shapes := rfl
@[simp] theorem Ctx.orFlags_queues (c : Ctx) (f : Flags) : (c.orFlags f).queues = c.queues := rfl
@[simp] theorem Ctx.orFlags_dispatched (c : Ctx) (f : Flags) : (c.orFlags f).dispatched = c.dispatched := rfl
@[simp] theorem Ctx.orFlags_tokens (c : Ctx) (f : Flags) : (c.orFlags f).tokens = c.tokens := rfl
@[simp] theorem Ctx.orFlags_nestCi (c : Ctx) (f : Flags) : (c.orFlags f).nestCi = c.nestCi := rfl
@[simp] theorem Ctx.orFlags_nestCo (c : Ctx) (f : Flags) : (c.orFlags f).nestCo = c.nestCo := rfl
@[simp] theorem Ctx.orFlags_mxcfg (c : Ctx) (f : Flags) : (c.orFlags f).mxcfg = c.mxcfg := rfl
@[simp] theorem Ctx.orFlags_sqcfg (c : Ctx) (f : Flags) : (c.orFlags f).sqcfg = c.sqcfg := rfl
@[simp] theorem Ctx.orFlags_planes (c : Ctx) (f : Flags) : (c.orFlags f).planes = c.planes := rfl
@[simp] theorem Ctx.orFlags_activePlane (c : Ctx) (f : Flags) : (c.orFlags f).activePlane = c.activePlane := rfl
@[simp] theorem Ctx.orFlags_scaleq (c : Ctx) (f : Flags) : (c.orFlags f).scaleq = c.scaleq := rfl
@[simp] theorem Ctx.orFlags_mview (c : Ctx) (f : Flags) : (c.orFlags f).mview = c.mview := rfl
@[simp] theorem Ctx.orFlags_oslots (c : Ctx) (f : Flags) : (c.orFlags f).oslots = c.oslots := rfl
@[simp] theorem Ctx.orFlags_oview (c : Ctx) (f : Flags) : (c.orFlags f).oview = c.oview := rfl
@[simp] theorem Ctx.orFlags_gops (c : Ctx) (f : Flags) : (c.orFlags f).gops = c.gops := rfl
@[simp] theorem Ctx.orFlags_sbuf (c : Ctx) (f : Flags) : (c.orFlags f).sbuf = c.sbuf := rfl
@[simp] theorem Ctx.orFlags_posted (c : Ctx) (f : Flags) : (c.orFlags f).posted = c.posted := rfl
@[simp] theorem Ctx.orFlags_hostLoads (c : Ctx) (f : Flags) : (c.orFlags f).hostLoads = c.hostLoads := rfl
@[simp] theorem Ctx.orFlags_lateLoads (c : Ctx) (f : Flags) : (c.orFlags f).lateLoads = c.lateLoads := rfl
@[simp] theorem Ctx.orFlags_defers (c : Ctx) (f : Flags) : (c.orFlags f).defers = c.defers := rfl
@[simp] theorem Ctx.orFlags_lags (c : Ctx) (f : Flags) : (c.orFlags f).lags = c.lags := rfl
@[simp] theorem Ctx.orFlags_fails (c : Ctx) (f : Flags) : (c.orFlags f).fails = c.fails := rfl
@[simp] theorem Ctx.orFlags_lateFails (c : Ctx) (f : Flags) : (c.orFlags f).lateFails = c.lateFails := rfl
@[simp] theorem Ctx.orFlags_arr (c : Ctx) (f : Flags) : (c.orFlags f).arr = c.arr := rfl
@[simp] theorem Ctx.orFlags_arrStep (c : Ctx) (f : Flags) : (c.orFlags f).arrStep = c.arrStep := rfl
@[simp] theorem Ctx.orFlags_arrDone (c : Ctx) (f : Flags) : (c.orFlags f).arrDone = c.arrDone := rfl
@[simp] theorem Ctx.orFlags_ended (c : Ctx) (f : Flags) : (c.orFlags f).ended = c.ended := rfl
@[simp] theorem Ctx.orFlags_heldReports (c : Ctx) (f : Flags) : (c.orFlags f).heldReports = c.heldReports := rfl
@[simp] theorem Ctx.orFlags_heldEscs (c : Ctx) (f : Flags) : (c.orFlags f).heldEscs = c.heldEscs := rfl
@[simp] theorem Ctx.orFlags_preHeld (c : Ctx) (f : Flags) : (c.orFlags f).preHeld = c.preHeld := rfl
@[simp] theorem Ctx.orFlags_lastArith (c : Ctx) (f : Flags) : (c.orFlags f).lastArith = c.lastArith := rfl
@[simp] theorem Ctx.orFlags_watchdog (c : Ctx) (f : Flags) : (c.orFlags f).watchdog = c.watchdog := rfl
@[simp] theorem Ctx.orFlags_stallRaised (c : Ctx) (f : Flags) : (c.orFlags f).stallRaised = c.stallRaised := rfl
@[simp] theorem Ctx.orFlags_drainIdle (c : Ctx) (f : Flags) : (c.orFlags f).drainIdle = c.drainIdle := rfl
@[simp] theorem Ctx.orFlags_doomed (c : Ctx) (f : Flags) : (c.orFlags f).doomed = c.doomed := rfl
@[simp] theorem Ctx.orFlags_headSince (c : Ctx) (f : Flags) : (c.orFlags f).headSince = c.headSince := rfl
@[simp] theorem Ctx.orFlags_cbud (c : Ctx) (f : Flags) : (c.orFlags f).cbud = c.cbud := rfl
@[simp] theorem Ctx.orFlags_issueLeft (c : Ctx) (f : Flags) : (c.orFlags f).issueLeft = c.issueLeft := rfl
@[simp] theorem Ctx.orFlags_lastIssue (c : Ctx) (f : Flags) : (c.orFlags f).lastIssue = c.lastIssue := rfl
@[simp] theorem Ctx.orFlags_issues (c : Ctx) (f : Flags) : (c.orFlags f).issues = c.issues := rfl
@[simp] theorem Ctx.orFlags_spilled (c : Ctx) (f : Flags) : (c.orFlags f).spilled = c.spilled := rfl
@[simp] theorem Ctx.orFlags_task (c : Ctx) (f : Flags) : (c.orFlags f).task = c.task := rfl
@[simp] theorem Ctx.deliverUser_s (c : Ctx) (t : Trap) : (c.deliverUser t).s = c.s := rfl
@[simp] theorem Ctx.deliverUser_p (c : Ctx) (t : Trap) : (c.deliverUser t).p = c.p := rfl
@[simp] theorem Ctx.deliverUser_tiles (c : Ctx) (t : Trap) : (c.deliverUser t).tiles = c.tiles := rfl
@[simp] theorem Ctx.deliverUser_masks (c : Ctx) (t : Trap) : (c.deliverUser t).masks = c.masks := rfl
@[simp] theorem Ctx.deliverUser_shapes (c : Ctx) (t : Trap) : (c.deliverUser t).shapes = c.shapes := rfl
@[simp] theorem Ctx.deliverUser_queues (c : Ctx) (t : Trap) : (c.deliverUser t).queues = c.queues := rfl
@[simp] theorem Ctx.deliverUser_dispatched (c : Ctx) (t : Trap) : (c.deliverUser t).dispatched = c.dispatched := rfl
@[simp] theorem Ctx.deliverUser_tokens (c : Ctx) (t : Trap) : (c.deliverUser t).tokens = c.tokens := rfl
@[simp] theorem Ctx.deliverUser_nestCi (c : Ctx) (t : Trap) : (c.deliverUser t).nestCi = c.nestCi := rfl
@[simp] theorem Ctx.deliverUser_nestCo (c : Ctx) (t : Trap) : (c.deliverUser t).nestCo = c.nestCo := rfl
@[simp] theorem Ctx.deliverUser_mxcfg (c : Ctx) (t : Trap) : (c.deliverUser t).mxcfg = c.mxcfg := rfl
@[simp] theorem Ctx.deliverUser_sqcfg (c : Ctx) (t : Trap) : (c.deliverUser t).sqcfg = c.sqcfg := rfl
@[simp] theorem Ctx.deliverUser_planes (c : Ctx) (t : Trap) : (c.deliverUser t).planes = c.planes := rfl
@[simp] theorem Ctx.deliverUser_activePlane (c : Ctx) (t : Trap) : (c.deliverUser t).activePlane = c.activePlane := rfl
@[simp] theorem Ctx.deliverUser_scaleq (c : Ctx) (t : Trap) : (c.deliverUser t).scaleq = c.scaleq := rfl
@[simp] theorem Ctx.deliverUser_mview (c : Ctx) (t : Trap) : (c.deliverUser t).mview = c.mview := rfl
@[simp] theorem Ctx.deliverUser_oslots (c : Ctx) (t : Trap) : (c.deliverUser t).oslots = c.oslots := rfl
@[simp] theorem Ctx.deliverUser_oview (c : Ctx) (t : Trap) : (c.deliverUser t).oview = c.oview := rfl
@[simp] theorem Ctx.deliverUser_gops (c : Ctx) (t : Trap) : (c.deliverUser t).gops = c.gops := rfl
@[simp] theorem Ctx.deliverUser_sbuf (c : Ctx) (t : Trap) : (c.deliverUser t).sbuf = c.sbuf := rfl
@[simp] theorem Ctx.deliverUser_posted (c : Ctx) (t : Trap) : (c.deliverUser t).posted = c.posted := rfl
@[simp] theorem Ctx.deliverUser_hostLoads (c : Ctx) (t : Trap) : (c.deliverUser t).hostLoads = c.hostLoads := rfl
@[simp] theorem Ctx.deliverUser_lateLoads (c : Ctx) (t : Trap) : (c.deliverUser t).lateLoads = c.lateLoads := rfl
@[simp] theorem Ctx.deliverUser_defers (c : Ctx) (t : Trap) : (c.deliverUser t).defers = c.defers := rfl
@[simp] theorem Ctx.deliverUser_lags (c : Ctx) (t : Trap) : (c.deliverUser t).lags = c.lags := rfl
@[simp] theorem Ctx.deliverUser_fails (c : Ctx) (t : Trap) : (c.deliverUser t).fails = c.fails := rfl
@[simp] theorem Ctx.deliverUser_lateFails (c : Ctx) (t : Trap) : (c.deliverUser t).lateFails = c.lateFails := rfl
@[simp] theorem Ctx.deliverUser_arr (c : Ctx) (t : Trap) : (c.deliverUser t).arr = c.arr := rfl
@[simp] theorem Ctx.deliverUser_arrStep (c : Ctx) (t : Trap) : (c.deliverUser t).arrStep = c.arrStep := rfl
@[simp] theorem Ctx.deliverUser_arrDone (c : Ctx) (t : Trap) : (c.deliverUser t).arrDone = c.arrDone := rfl
@[simp] theorem Ctx.deliverUser_ended (c : Ctx) (t : Trap) : (c.deliverUser t).ended = c.ended := rfl
@[simp] theorem Ctx.deliverUser_heldReports (c : Ctx) (t : Trap) : (c.deliverUser t).heldReports = c.heldReports := rfl
@[simp] theorem Ctx.deliverUser_heldEscs (c : Ctx) (t : Trap) : (c.deliverUser t).heldEscs = c.heldEscs := rfl
@[simp] theorem Ctx.deliverUser_preHeld (c : Ctx) (t : Trap) : (c.deliverUser t).preHeld = c.preHeld := rfl
@[simp] theorem Ctx.deliverUser_lastArith (c : Ctx) (t : Trap) : (c.deliverUser t).lastArith = c.lastArith := rfl
@[simp] theorem Ctx.deliverUser_watchdog (c : Ctx) (t : Trap) : (c.deliverUser t).watchdog = c.watchdog := rfl
@[simp] theorem Ctx.deliverUser_stallRaised (c : Ctx) (t : Trap) : (c.deliverUser t).stallRaised = c.stallRaised := rfl
@[simp] theorem Ctx.deliverUser_drainIdle (c : Ctx) (t : Trap) : (c.deliverUser t).drainIdle = c.drainIdle := rfl
@[simp] theorem Ctx.deliverUser_doomed (c : Ctx) (t : Trap) : (c.deliverUser t).doomed = c.doomed := rfl
@[simp] theorem Ctx.deliverUser_headSince (c : Ctx) (t : Trap) : (c.deliverUser t).headSince = c.headSince := rfl
@[simp] theorem Ctx.deliverUser_cbud (c : Ctx) (t : Trap) : (c.deliverUser t).cbud = c.cbud := rfl
@[simp] theorem Ctx.deliverUser_issueLeft (c : Ctx) (t : Trap) : (c.deliverUser t).issueLeft = c.issueLeft := rfl
@[simp] theorem Ctx.deliverUser_lastIssue (c : Ctx) (t : Trap) : (c.deliverUser t).lastIssue = c.lastIssue := rfl
@[simp] theorem Ctx.deliverUser_issues (c : Ctx) (t : Trap) : (c.deliverUser t).issues = c.issues := rfl
@[simp] theorem Ctx.deliverUser_spilled (c : Ctx) (t : Trap) : (c.deliverUser t).spilled = c.spilled := rfl
@[simp] theorem Ctx.deliverUser_task (c : Ctx) (t : Trap) : (c.deliverUser t).task = c.task := rfl
@[simp] theorem Ctx.deliverSuper_s (c : Ctx) (t : Trap) : (c.deliverSuper t).s = c.s := rfl
@[simp] theorem Ctx.deliverSuper_p (c : Ctx) (t : Trap) : (c.deliverSuper t).p = c.p := rfl
@[simp] theorem Ctx.deliverSuper_tiles (c : Ctx) (t : Trap) : (c.deliverSuper t).tiles = c.tiles := rfl
@[simp] theorem Ctx.deliverSuper_masks (c : Ctx) (t : Trap) : (c.deliverSuper t).masks = c.masks := rfl
@[simp] theorem Ctx.deliverSuper_shapes (c : Ctx) (t : Trap) : (c.deliverSuper t).shapes = c.shapes := rfl
@[simp] theorem Ctx.deliverSuper_queues (c : Ctx) (t : Trap) : (c.deliverSuper t).queues = c.queues := rfl
@[simp] theorem Ctx.deliverSuper_dispatched (c : Ctx) (t : Trap) : (c.deliverSuper t).dispatched = c.dispatched := rfl
@[simp] theorem Ctx.deliverSuper_tokens (c : Ctx) (t : Trap) : (c.deliverSuper t).tokens = c.tokens := rfl
@[simp] theorem Ctx.deliverSuper_nestCi (c : Ctx) (t : Trap) : (c.deliverSuper t).nestCi = c.nestCi := rfl
@[simp] theorem Ctx.deliverSuper_nestCo (c : Ctx) (t : Trap) : (c.deliverSuper t).nestCo = c.nestCo := rfl
@[simp] theorem Ctx.deliverSuper_mxcfg (c : Ctx) (t : Trap) : (c.deliverSuper t).mxcfg = c.mxcfg := rfl
@[simp] theorem Ctx.deliverSuper_sqcfg (c : Ctx) (t : Trap) : (c.deliverSuper t).sqcfg = c.sqcfg := rfl
@[simp] theorem Ctx.deliverSuper_planes (c : Ctx) (t : Trap) : (c.deliverSuper t).planes = c.planes := rfl
@[simp] theorem Ctx.deliverSuper_activePlane (c : Ctx) (t : Trap) : (c.deliverSuper t).activePlane = c.activePlane := rfl
@[simp] theorem Ctx.deliverSuper_scaleq (c : Ctx) (t : Trap) : (c.deliverSuper t).scaleq = c.scaleq := rfl
@[simp] theorem Ctx.deliverSuper_mview (c : Ctx) (t : Trap) : (c.deliverSuper t).mview = c.mview := rfl
@[simp] theorem Ctx.deliverSuper_oslots (c : Ctx) (t : Trap) : (c.deliverSuper t).oslots = c.oslots := rfl
@[simp] theorem Ctx.deliverSuper_oview (c : Ctx) (t : Trap) : (c.deliverSuper t).oview = c.oview := rfl
@[simp] theorem Ctx.deliverSuper_gops (c : Ctx) (t : Trap) : (c.deliverSuper t).gops = c.gops := rfl
@[simp] theorem Ctx.deliverSuper_sbuf (c : Ctx) (t : Trap) : (c.deliverSuper t).sbuf = c.sbuf := rfl
@[simp] theorem Ctx.deliverSuper_posted (c : Ctx) (t : Trap) : (c.deliverSuper t).posted = c.posted := rfl
@[simp] theorem Ctx.deliverSuper_hostLoads (c : Ctx) (t : Trap) : (c.deliverSuper t).hostLoads = c.hostLoads := rfl
@[simp] theorem Ctx.deliverSuper_lateLoads (c : Ctx) (t : Trap) : (c.deliverSuper t).lateLoads = c.lateLoads := rfl
@[simp] theorem Ctx.deliverSuper_defers (c : Ctx) (t : Trap) : (c.deliverSuper t).defers = c.defers := rfl
@[simp] theorem Ctx.deliverSuper_lags (c : Ctx) (t : Trap) : (c.deliverSuper t).lags = c.lags := rfl
@[simp] theorem Ctx.deliverSuper_fails (c : Ctx) (t : Trap) : (c.deliverSuper t).fails = c.fails := rfl
@[simp] theorem Ctx.deliverSuper_lateFails (c : Ctx) (t : Trap) : (c.deliverSuper t).lateFails = c.lateFails := rfl
@[simp] theorem Ctx.deliverSuper_arr (c : Ctx) (t : Trap) : (c.deliverSuper t).arr = c.arr := rfl
@[simp] theorem Ctx.deliverSuper_arrStep (c : Ctx) (t : Trap) : (c.deliverSuper t).arrStep = c.arrStep := rfl
@[simp] theorem Ctx.deliverSuper_arrDone (c : Ctx) (t : Trap) : (c.deliverSuper t).arrDone = c.arrDone := rfl
@[simp] theorem Ctx.deliverSuper_ended (c : Ctx) (t : Trap) : (c.deliverSuper t).ended = c.ended := rfl
@[simp] theorem Ctx.deliverSuper_heldReports (c : Ctx) (t : Trap) : (c.deliverSuper t).heldReports = c.heldReports := rfl
@[simp] theorem Ctx.deliverSuper_heldEscs (c : Ctx) (t : Trap) : (c.deliverSuper t).heldEscs = c.heldEscs := rfl
@[simp] theorem Ctx.deliverSuper_preHeld (c : Ctx) (t : Trap) : (c.deliverSuper t).preHeld = c.preHeld := rfl
@[simp] theorem Ctx.deliverSuper_lastArith (c : Ctx) (t : Trap) : (c.deliverSuper t).lastArith = c.lastArith := rfl
@[simp] theorem Ctx.deliverSuper_watchdog (c : Ctx) (t : Trap) : (c.deliverSuper t).watchdog = c.watchdog := rfl
@[simp] theorem Ctx.deliverSuper_stallRaised (c : Ctx) (t : Trap) : (c.deliverSuper t).stallRaised = c.stallRaised := rfl
@[simp] theorem Ctx.deliverSuper_drainIdle (c : Ctx) (t : Trap) : (c.deliverSuper t).drainIdle = c.drainIdle := rfl
@[simp] theorem Ctx.deliverSuper_doomed (c : Ctx) (t : Trap) : (c.deliverSuper t).doomed = c.doomed := rfl
@[simp] theorem Ctx.deliverSuper_headSince (c : Ctx) (t : Trap) : (c.deliverSuper t).headSince = c.headSince := rfl
@[simp] theorem Ctx.deliverSuper_cbud (c : Ctx) (t : Trap) : (c.deliverSuper t).cbud = c.cbud := rfl
@[simp] theorem Ctx.deliverSuper_issueLeft (c : Ctx) (t : Trap) : (c.deliverSuper t).issueLeft = c.issueLeft := rfl
@[simp] theorem Ctx.deliverSuper_lastIssue (c : Ctx) (t : Trap) : (c.deliverSuper t).lastIssue = c.lastIssue := rfl
@[simp] theorem Ctx.deliverSuper_issues (c : Ctx) (t : Trap) : (c.deliverSuper t).issues = c.issues := rfl
@[simp] theorem Ctx.deliverSuper_spilled (c : Ctx) (t : Trap) : (c.deliverSuper t).spilled = c.spilled := rfl
@[simp] theorem Ctx.deliverSuper_task (c : Ctx) (t : Trap) : (c.deliverSuper t).task = c.task := rfl
@[simp] theorem Ctx.rotate_run (c : Ctx)  : (c.rotate).run = c.run := rfl
@[simp] theorem Ctx.rotate_pc (c : Ctx)  : (c.rotate).pc = c.pc := rfl
@[simp] theorem Ctx.rotate_s (c : Ctx)  : (c.rotate).s = c.s := rfl
@[simp] theorem Ctx.rotate_p (c : Ctx)  : (c.rotate).p = c.p := rfl
@[simp] theorem Ctx.rotate_tiles (c : Ctx)  : (c.rotate).tiles = c.tiles := rfl
@[simp] theorem Ctx.rotate_masks (c : Ctx)  : (c.rotate).masks = c.masks := rfl
@[simp] theorem Ctx.rotate_shapes (c : Ctx)  : (c.rotate).shapes = c.shapes := rfl
@[simp] theorem Ctx.rotate_queues (c : Ctx)  : (c.rotate).queues = c.queues := rfl
@[simp] theorem Ctx.rotate_dispatched (c : Ctx)  : (c.rotate).dispatched = c.dispatched := rfl
@[simp] theorem Ctx.rotate_tokens (c : Ctx)  : (c.rotate).tokens = c.tokens := rfl
@[simp] theorem Ctx.rotate_nestCi (c : Ctx)  : (c.rotate).nestCi = c.nestCi := rfl
@[simp] theorem Ctx.rotate_nestCo (c : Ctx)  : (c.rotate).nestCo = c.nestCo := rfl
@[simp] theorem Ctx.rotate_mxcfg (c : Ctx)  : (c.rotate).mxcfg = c.mxcfg := rfl
@[simp] theorem Ctx.rotate_sqcfg (c : Ctx)  : (c.rotate).sqcfg = c.sqcfg := rfl
@[simp] theorem Ctx.rotate_planes (c : Ctx)  : (c.rotate).planes = c.planes := rfl
@[simp] theorem Ctx.rotate_activePlane (c : Ctx)  : (c.rotate).activePlane = c.activePlane := rfl
@[simp] theorem Ctx.rotate_scaleq (c : Ctx)  : (c.rotate).scaleq = c.scaleq := rfl
@[simp] theorem Ctx.rotate_mview (c : Ctx)  : (c.rotate).mview = c.mview := rfl
@[simp] theorem Ctx.rotate_oslots (c : Ctx)  : (c.rotate).oslots = c.oslots := rfl
@[simp] theorem Ctx.rotate_oview (c : Ctx)  : (c.rotate).oview = c.oview := rfl
@[simp] theorem Ctx.rotate_gops (c : Ctx)  : (c.rotate).gops = c.gops := rfl
@[simp] theorem Ctx.rotate_sbuf (c : Ctx)  : (c.rotate).sbuf = c.sbuf := rfl
@[simp] theorem Ctx.rotate_posted (c : Ctx)  : (c.rotate).posted = c.posted := rfl
@[simp] theorem Ctx.rotate_hostLoads (c : Ctx)  : (c.rotate).hostLoads = c.hostLoads := rfl
@[simp] theorem Ctx.rotate_lateLoads (c : Ctx)  : (c.rotate).lateLoads = c.lateLoads := rfl
@[simp] theorem Ctx.rotate_defers (c : Ctx)  : (c.rotate).defers = c.defers := rfl
@[simp] theorem Ctx.rotate_lags (c : Ctx)  : (c.rotate).lags = c.lags := rfl
@[simp] theorem Ctx.rotate_fails (c : Ctx)  : (c.rotate).fails = c.fails := rfl
@[simp] theorem Ctx.rotate_lateFails (c : Ctx)  : (c.rotate).lateFails = c.lateFails := rfl
@[simp] theorem Ctx.rotate_arr (c : Ctx)  : (c.rotate).arr = c.arr := rfl
@[simp] theorem Ctx.rotate_arrStep (c : Ctx)  : (c.rotate).arrStep = c.arrStep := rfl
@[simp] theorem Ctx.rotate_arrDone (c : Ctx)  : (c.rotate).arrDone = c.arrDone := rfl
@[simp] theorem Ctx.rotate_ended (c : Ctx)  : (c.rotate).ended = c.ended := rfl
@[simp] theorem Ctx.rotate_heldReports (c : Ctx)  : (c.rotate).heldReports = c.heldReports := rfl
@[simp] theorem Ctx.rotate_heldEscs (c : Ctx)  : (c.rotate).heldEscs = c.heldEscs := rfl
@[simp] theorem Ctx.rotate_preHeld (c : Ctx)  : (c.rotate).preHeld = c.preHeld := rfl
@[simp] theorem Ctx.rotate_lastArith (c : Ctx)  : (c.rotate).lastArith = c.lastArith := rfl
@[simp] theorem Ctx.rotate_watchdog (c : Ctx)  : (c.rotate).watchdog = c.watchdog := rfl
@[simp] theorem Ctx.rotate_stallRaised (c : Ctx)  : (c.rotate).stallRaised = c.stallRaised := rfl
@[simp] theorem Ctx.rotate_drainIdle (c : Ctx)  : (c.rotate).drainIdle = c.drainIdle := rfl
@[simp] theorem Ctx.rotate_doomed (c : Ctx)  : (c.rotate).doomed = c.doomed := rfl
@[simp] theorem Ctx.rotate_headSince (c : Ctx)  : (c.rotate).headSince = c.headSince := rfl
@[simp] theorem Ctx.rotate_cbud (c : Ctx)  : (c.rotate).cbud = c.cbud := rfl
@[simp] theorem Ctx.rotate_issueLeft (c : Ctx)  : (c.rotate).issueLeft = c.issueLeft := rfl
@[simp] theorem Ctx.rotate_lastIssue (c : Ctx)  : (c.rotate).lastIssue = c.lastIssue := rfl
@[simp] theorem Ctx.rotate_issues (c : Ctx)  : (c.rotate).issues = c.issues := rfl
@[simp] theorem Ctx.rotate_spilled (c : Ctx)  : (c.rotate).spilled = c.spilled := rfl
@[simp] theorem Ctx.rotate_task (c : Ctx)  : (c.rotate).task = c.task := rfl
@[simp] theorem Ctx.setRegP_run (c : Ctx) (r : Reg5) (v : Word) (p : Bool) : (c.setRegP r v p).run = c.run := by unfold Ctx.setRegP; split <;> rfl
@[simp] theorem Ctx.setRegP_pc (c : Ctx) (r : Reg5) (v : Word) (p : Bool) : (c.setRegP r v p).pc = c.pc := by unfold Ctx.setRegP; split <;> rfl
@[simp] theorem Ctx.setRegP_p (c : Ctx) (r : Reg5) (v : Word) (p : Bool) : (c.setRegP r v p).p = c.p := by unfold Ctx.setRegP; split <;> rfl
@[simp] theorem Ctx.setRegP_tiles (c : Ctx) (r : Reg5) (v : Word) (p : Bool) : (c.setRegP r v p).tiles = c.tiles := by unfold Ctx.setRegP; split <;> rfl
@[simp] theorem Ctx.setRegP_masks (c : Ctx) (r : Reg5) (v : Word) (p : Bool) : (c.setRegP r v p).masks = c.masks := by unfold Ctx.setRegP; split <;> rfl
@[simp] theorem Ctx.setRegP_shapes (c : Ctx) (r : Reg5) (v : Word) (p : Bool) : (c.setRegP r v p).shapes = c.shapes := by unfold Ctx.setRegP; split <;> rfl
@[simp] theorem Ctx.setRegP_csr (c : Ctx) (r : Reg5) (v : Word) (p : Bool) : (c.setRegP r v p).csr = c.csr := by unfold Ctx.setRegP; split <;> rfl
@[simp] theorem Ctx.setRegP_queues (c : Ctx) (r : Reg5) (v : Word) (p : Bool) : (c.setRegP r v p).queues = c.queues := by unfold Ctx.setRegP; split <;> rfl
@[simp] theorem Ctx.setRegP_dispatched (c : Ctx) (r : Reg5) (v : Word) (p : Bool) : (c.setRegP r v p).dispatched = c.dispatched := by unfold Ctx.setRegP; split <;> rfl
@[simp] theorem Ctx.setRegP_tokens (c : Ctx) (r : Reg5) (v : Word) (p : Bool) : (c.setRegP r v p).tokens = c.tokens := by unfold Ctx.setRegP; split <;> rfl
@[simp] theorem Ctx.setRegP_nestCi (c : Ctx) (r : Reg5) (v : Word) (p : Bool) : (c.setRegP r v p).nestCi = c.nestCi := by unfold Ctx.setRegP; split <;> rfl
@[simp] theorem Ctx.setRegP_nestCo (c : Ctx) (r : Reg5) (v : Word) (p : Bool) : (c.setRegP r v p).nestCo = c.nestCo := by unfold Ctx.setRegP; split <;> rfl
@[simp] theorem Ctx.setRegP_mxcfg (c : Ctx) (r : Reg5) (v : Word) (p : Bool) : (c.setRegP r v p).mxcfg = c.mxcfg := by unfold Ctx.setRegP; split <;> rfl
@[simp] theorem Ctx.setRegP_sqcfg (c : Ctx) (r : Reg5) (v : Word) (p : Bool) : (c.setRegP r v p).sqcfg = c.sqcfg := by unfold Ctx.setRegP; split <;> rfl
@[simp] theorem Ctx.setRegP_planes (c : Ctx) (r : Reg5) (v : Word) (p : Bool) : (c.setRegP r v p).planes = c.planes := by unfold Ctx.setRegP; split <;> rfl
@[simp] theorem Ctx.setRegP_activePlane (c : Ctx) (r : Reg5) (v : Word) (p : Bool) : (c.setRegP r v p).activePlane = c.activePlane := by unfold Ctx.setRegP; split <;> rfl
@[simp] theorem Ctx.setRegP_scaleq (c : Ctx) (r : Reg5) (v : Word) (p : Bool) : (c.setRegP r v p).scaleq = c.scaleq := by unfold Ctx.setRegP; split <;> rfl
@[simp] theorem Ctx.setRegP_mview (c : Ctx) (r : Reg5) (v : Word) (p : Bool) : (c.setRegP r v p).mview = c.mview := by unfold Ctx.setRegP; split <;> rfl
@[simp] theorem Ctx.setRegP_oslots (c : Ctx) (r : Reg5) (v : Word) (p : Bool) : (c.setRegP r v p).oslots = c.oslots := by unfold Ctx.setRegP; split <;> rfl
@[simp] theorem Ctx.setRegP_oview (c : Ctx) (r : Reg5) (v : Word) (p : Bool) : (c.setRegP r v p).oview = c.oview := by unfold Ctx.setRegP; split <;> rfl
@[simp] theorem Ctx.setRegP_gops (c : Ctx) (r : Reg5) (v : Word) (p : Bool) : (c.setRegP r v p).gops = c.gops := by unfold Ctx.setRegP; split <;> rfl
@[simp] theorem Ctx.setRegP_sbuf (c : Ctx) (r : Reg5) (v : Word) (p : Bool) : (c.setRegP r v p).sbuf = c.sbuf := by unfold Ctx.setRegP; split <;> rfl
@[simp] theorem Ctx.setRegP_posted (c : Ctx) (r : Reg5) (v : Word) (p : Bool) : (c.setRegP r v p).posted = c.posted := by unfold Ctx.setRegP; split <;> rfl
@[simp] theorem Ctx.setRegP_hostLoads (c : Ctx) (r : Reg5) (v : Word) (p : Bool) : (c.setRegP r v p).hostLoads = c.hostLoads := by unfold Ctx.setRegP; split <;> rfl
@[simp] theorem Ctx.setRegP_lateLoads (c : Ctx) (r : Reg5) (v : Word) (p : Bool) : (c.setRegP r v p).lateLoads = c.lateLoads := by unfold Ctx.setRegP; split <;> rfl
@[simp] theorem Ctx.setRegP_defers (c : Ctx) (r : Reg5) (v : Word) (p : Bool) : (c.setRegP r v p).defers = c.defers := by unfold Ctx.setRegP; split <;> rfl
@[simp] theorem Ctx.setRegP_lags (c : Ctx) (r : Reg5) (v : Word) (p : Bool) : (c.setRegP r v p).lags = c.lags := by unfold Ctx.setRegP; split <;> rfl
@[simp] theorem Ctx.setRegP_fails (c : Ctx) (r : Reg5) (v : Word) (p : Bool) : (c.setRegP r v p).fails = c.fails := by unfold Ctx.setRegP; split <;> rfl
@[simp] theorem Ctx.setRegP_lateFails (c : Ctx) (r : Reg5) (v : Word) (p : Bool) : (c.setRegP r v p).lateFails = c.lateFails := by unfold Ctx.setRegP; split <;> rfl
@[simp] theorem Ctx.setRegP_arr (c : Ctx) (r : Reg5) (v : Word) (p : Bool) : (c.setRegP r v p).arr = c.arr := by unfold Ctx.setRegP; split <;> rfl
@[simp] theorem Ctx.setRegP_arrStep (c : Ctx) (r : Reg5) (v : Word) (p : Bool) : (c.setRegP r v p).arrStep = c.arrStep := by unfold Ctx.setRegP; split <;> rfl
@[simp] theorem Ctx.setRegP_arrDone (c : Ctx) (r : Reg5) (v : Word) (p : Bool) : (c.setRegP r v p).arrDone = c.arrDone := by unfold Ctx.setRegP; split <;> rfl
@[simp] theorem Ctx.setRegP_ended (c : Ctx) (r : Reg5) (v : Word) (p : Bool) : (c.setRegP r v p).ended = c.ended := by unfold Ctx.setRegP; split <;> rfl
@[simp] theorem Ctx.setRegP_heldReports (c : Ctx) (r : Reg5) (v : Word) (p : Bool) : (c.setRegP r v p).heldReports = c.heldReports := by unfold Ctx.setRegP; split <;> rfl
@[simp] theorem Ctx.setRegP_heldEscs (c : Ctx) (r : Reg5) (v : Word) (p : Bool) : (c.setRegP r v p).heldEscs = c.heldEscs := by unfold Ctx.setRegP; split <;> rfl
@[simp] theorem Ctx.setRegP_preHeld (c : Ctx) (r : Reg5) (v : Word) (p : Bool) : (c.setRegP r v p).preHeld = c.preHeld := by unfold Ctx.setRegP; split <;> rfl
@[simp] theorem Ctx.setRegP_lastArith (c : Ctx) (r : Reg5) (v : Word) (p : Bool) : (c.setRegP r v p).lastArith = c.lastArith := by unfold Ctx.setRegP; split <;> rfl
@[simp] theorem Ctx.setRegP_watchdog (c : Ctx) (r : Reg5) (v : Word) (p : Bool) : (c.setRegP r v p).watchdog = c.watchdog := by unfold Ctx.setRegP; split <;> rfl
@[simp] theorem Ctx.setRegP_stallRaised (c : Ctx) (r : Reg5) (v : Word) (p : Bool) : (c.setRegP r v p).stallRaised = c.stallRaised := by unfold Ctx.setRegP; split <;> rfl
@[simp] theorem Ctx.setRegP_drainIdle (c : Ctx) (r : Reg5) (v : Word) (p : Bool) : (c.setRegP r v p).drainIdle = c.drainIdle := by unfold Ctx.setRegP; split <;> rfl
@[simp] theorem Ctx.setRegP_doomed (c : Ctx) (r : Reg5) (v : Word) (p : Bool) : (c.setRegP r v p).doomed = c.doomed := by unfold Ctx.setRegP; split <;> rfl
@[simp] theorem Ctx.setRegP_headSince (c : Ctx) (r : Reg5) (v : Word) (p : Bool) : (c.setRegP r v p).headSince = c.headSince := by unfold Ctx.setRegP; split <;> rfl
@[simp] theorem Ctx.setRegP_cbud (c : Ctx) (r : Reg5) (v : Word) (p : Bool) : (c.setRegP r v p).cbud = c.cbud := by unfold Ctx.setRegP; split <;> rfl
@[simp] theorem Ctx.setRegP_issueLeft (c : Ctx) (r : Reg5) (v : Word) (p : Bool) : (c.setRegP r v p).issueLeft = c.issueLeft := by unfold Ctx.setRegP; split <;> rfl
@[simp] theorem Ctx.setRegP_lastIssue (c : Ctx) (r : Reg5) (v : Word) (p : Bool) : (c.setRegP r v p).lastIssue = c.lastIssue := by unfold Ctx.setRegP; split <;> rfl
@[simp] theorem Ctx.setRegP_issues (c : Ctx) (r : Reg5) (v : Word) (p : Bool) : (c.setRegP r v p).issues = c.issues := by unfold Ctx.setRegP; split <;> rfl
@[simp] theorem Ctx.setRegP_spilled (c : Ctx) (r : Reg5) (v : Word) (p : Bool) : (c.setRegP r v p).spilled = c.spilled := by unfold Ctx.setRegP; split <;> rfl
@[simp] theorem Ctx.setRegP_task (c : Ctx) (r : Reg5) (v : Word) (p : Bool) : (c.setRegP r v p).task = c.task := by unfold Ctx.setRegP; split <;> rfl
@[simp] theorem Ctx.setReg_run (c : Ctx) (r : Reg5) (v : Word) : (c.setReg r v).run = c.run := c.setRegP_run r v false
@[simp] theorem Ctx.setReg_pc (c : Ctx) (r : Reg5) (v : Word) : (c.setReg r v).pc = c.pc := c.setRegP_pc r v false
@[simp] theorem Ctx.setReg_p (c : Ctx) (r : Reg5) (v : Word) : (c.setReg r v).p = c.p := c.setRegP_p r v false
@[simp] theorem Ctx.setReg_tiles (c : Ctx) (r : Reg5) (v : Word) : (c.setReg r v).tiles = c.tiles := c.setRegP_tiles r v false
@[simp] theorem Ctx.setReg_masks (c : Ctx) (r : Reg5) (v : Word) : (c.setReg r v).masks = c.masks := c.setRegP_masks r v false
@[simp] theorem Ctx.setReg_shapes (c : Ctx) (r : Reg5) (v : Word) : (c.setReg r v).shapes = c.shapes := c.setRegP_shapes r v false
@[simp] theorem Ctx.setReg_csr (c : Ctx) (r : Reg5) (v : Word) : (c.setReg r v).csr = c.csr := c.setRegP_csr r v false
@[simp] theorem Ctx.setReg_queues (c : Ctx) (r : Reg5) (v : Word) : (c.setReg r v).queues = c.queues := c.setRegP_queues r v false
@[simp] theorem Ctx.setReg_dispatched (c : Ctx) (r : Reg5) (v : Word) : (c.setReg r v).dispatched = c.dispatched := c.setRegP_dispatched r v false
@[simp] theorem Ctx.setReg_tokens (c : Ctx) (r : Reg5) (v : Word) : (c.setReg r v).tokens = c.tokens := c.setRegP_tokens r v false
@[simp] theorem Ctx.setReg_nestCi (c : Ctx) (r : Reg5) (v : Word) : (c.setReg r v).nestCi = c.nestCi := c.setRegP_nestCi r v false
@[simp] theorem Ctx.setReg_nestCo (c : Ctx) (r : Reg5) (v : Word) : (c.setReg r v).nestCo = c.nestCo := c.setRegP_nestCo r v false
@[simp] theorem Ctx.setReg_mxcfg (c : Ctx) (r : Reg5) (v : Word) : (c.setReg r v).mxcfg = c.mxcfg := c.setRegP_mxcfg r v false
@[simp] theorem Ctx.setReg_sqcfg (c : Ctx) (r : Reg5) (v : Word) : (c.setReg r v).sqcfg = c.sqcfg := c.setRegP_sqcfg r v false
@[simp] theorem Ctx.setReg_planes (c : Ctx) (r : Reg5) (v : Word) : (c.setReg r v).planes = c.planes := c.setRegP_planes r v false
@[simp] theorem Ctx.setReg_activePlane (c : Ctx) (r : Reg5) (v : Word) : (c.setReg r v).activePlane = c.activePlane := c.setRegP_activePlane r v false
@[simp] theorem Ctx.setReg_scaleq (c : Ctx) (r : Reg5) (v : Word) : (c.setReg r v).scaleq = c.scaleq := c.setRegP_scaleq r v false
@[simp] theorem Ctx.setReg_mview (c : Ctx) (r : Reg5) (v : Word) : (c.setReg r v).mview = c.mview := c.setRegP_mview r v false
@[simp] theorem Ctx.setReg_oslots (c : Ctx) (r : Reg5) (v : Word) : (c.setReg r v).oslots = c.oslots := c.setRegP_oslots r v false
@[simp] theorem Ctx.setReg_oview (c : Ctx) (r : Reg5) (v : Word) : (c.setReg r v).oview = c.oview := c.setRegP_oview r v false
@[simp] theorem Ctx.setReg_gops (c : Ctx) (r : Reg5) (v : Word) : (c.setReg r v).gops = c.gops := c.setRegP_gops r v false
@[simp] theorem Ctx.setReg_sbuf (c : Ctx) (r : Reg5) (v : Word) : (c.setReg r v).sbuf = c.sbuf := c.setRegP_sbuf r v false
@[simp] theorem Ctx.setReg_posted (c : Ctx) (r : Reg5) (v : Word) : (c.setReg r v).posted = c.posted := c.setRegP_posted r v false
@[simp] theorem Ctx.setReg_hostLoads (c : Ctx) (r : Reg5) (v : Word) : (c.setReg r v).hostLoads = c.hostLoads := c.setRegP_hostLoads r v false
@[simp] theorem Ctx.setReg_lateLoads (c : Ctx) (r : Reg5) (v : Word) : (c.setReg r v).lateLoads = c.lateLoads := c.setRegP_lateLoads r v false
@[simp] theorem Ctx.setReg_defers (c : Ctx) (r : Reg5) (v : Word) : (c.setReg r v).defers = c.defers := c.setRegP_defers r v false
@[simp] theorem Ctx.setReg_lags (c : Ctx) (r : Reg5) (v : Word) : (c.setReg r v).lags = c.lags := c.setRegP_lags r v false
@[simp] theorem Ctx.setReg_fails (c : Ctx) (r : Reg5) (v : Word) : (c.setReg r v).fails = c.fails := c.setRegP_fails r v false
@[simp] theorem Ctx.setReg_lateFails (c : Ctx) (r : Reg5) (v : Word) : (c.setReg r v).lateFails = c.lateFails := c.setRegP_lateFails r v false
@[simp] theorem Ctx.setReg_arr (c : Ctx) (r : Reg5) (v : Word) : (c.setReg r v).arr = c.arr := c.setRegP_arr r v false
@[simp] theorem Ctx.setReg_arrStep (c : Ctx) (r : Reg5) (v : Word) : (c.setReg r v).arrStep = c.arrStep := c.setRegP_arrStep r v false
@[simp] theorem Ctx.setReg_arrDone (c : Ctx) (r : Reg5) (v : Word) : (c.setReg r v).arrDone = c.arrDone := c.setRegP_arrDone r v false
@[simp] theorem Ctx.setReg_ended (c : Ctx) (r : Reg5) (v : Word) : (c.setReg r v).ended = c.ended := c.setRegP_ended r v false
@[simp] theorem Ctx.setReg_heldReports (c : Ctx) (r : Reg5) (v : Word) : (c.setReg r v).heldReports = c.heldReports := c.setRegP_heldReports r v false
@[simp] theorem Ctx.setReg_heldEscs (c : Ctx) (r : Reg5) (v : Word) : (c.setReg r v).heldEscs = c.heldEscs := c.setRegP_heldEscs r v false
@[simp] theorem Ctx.setReg_preHeld (c : Ctx) (r : Reg5) (v : Word) : (c.setReg r v).preHeld = c.preHeld := c.setRegP_preHeld r v false
@[simp] theorem Ctx.setReg_lastArith (c : Ctx) (r : Reg5) (v : Word) : (c.setReg r v).lastArith = c.lastArith := c.setRegP_lastArith r v false
@[simp] theorem Ctx.setReg_watchdog (c : Ctx) (r : Reg5) (v : Word) : (c.setReg r v).watchdog = c.watchdog := c.setRegP_watchdog r v false
@[simp] theorem Ctx.setReg_stallRaised (c : Ctx) (r : Reg5) (v : Word) : (c.setReg r v).stallRaised = c.stallRaised := c.setRegP_stallRaised r v false
@[simp] theorem Ctx.setReg_drainIdle (c : Ctx) (r : Reg5) (v : Word) : (c.setReg r v).drainIdle = c.drainIdle := c.setRegP_drainIdle r v false
@[simp] theorem Ctx.setReg_doomed (c : Ctx) (r : Reg5) (v : Word) : (c.setReg r v).doomed = c.doomed := c.setRegP_doomed r v false
@[simp] theorem Ctx.setReg_headSince (c : Ctx) (r : Reg5) (v : Word) : (c.setReg r v).headSince = c.headSince := c.setRegP_headSince r v false
@[simp] theorem Ctx.setReg_cbud (c : Ctx) (r : Reg5) (v : Word) : (c.setReg r v).cbud = c.cbud := c.setRegP_cbud r v false
@[simp] theorem Ctx.setReg_issueLeft (c : Ctx) (r : Reg5) (v : Word) : (c.setReg r v).issueLeft = c.issueLeft := c.setRegP_issueLeft r v false
@[simp] theorem Ctx.setReg_lastIssue (c : Ctx) (r : Reg5) (v : Word) : (c.setReg r v).lastIssue = c.lastIssue := c.setRegP_lastIssue r v false
@[simp] theorem Ctx.setReg_issues (c : Ctx) (r : Reg5) (v : Word) : (c.setReg r v).issues = c.issues := c.setRegP_issues r v false
@[simp] theorem Ctx.setReg_spilled (c : Ctx) (r : Reg5) (v : Word) : (c.setReg r v).spilled = c.spilled := c.setRegP_spilled r v false
@[simp] theorem Ctx.setReg_task (c : Ctx) (r : Reg5) (v : Word) : (c.setReg r v).task = c.task := c.setRegP_task r v false
@[simp] theorem Ctx.setPred_run (c : Ctx) (r : Reg3) (v : Bool) : (c.setPred r v).run = c.run := by unfold Ctx.setPred; split <;> rfl
@[simp] theorem Ctx.setPred_pc (c : Ctx) (r : Reg3) (v : Bool) : (c.setPred r v).pc = c.pc := by unfold Ctx.setPred; split <;> rfl
@[simp] theorem Ctx.setPred_s (c : Ctx) (r : Reg3) (v : Bool) : (c.setPred r v).s = c.s := by unfold Ctx.setPred; split <;> rfl
@[simp] theorem Ctx.setPred_tiles (c : Ctx) (r : Reg3) (v : Bool) : (c.setPred r v).tiles = c.tiles := by unfold Ctx.setPred; split <;> rfl
@[simp] theorem Ctx.setPred_masks (c : Ctx) (r : Reg3) (v : Bool) : (c.setPred r v).masks = c.masks := by unfold Ctx.setPred; split <;> rfl
@[simp] theorem Ctx.setPred_shapes (c : Ctx) (r : Reg3) (v : Bool) : (c.setPred r v).shapes = c.shapes := by unfold Ctx.setPred; split <;> rfl
@[simp] theorem Ctx.setPred_csr (c : Ctx) (r : Reg3) (v : Bool) : (c.setPred r v).csr = c.csr := by unfold Ctx.setPred; split <;> rfl
@[simp] theorem Ctx.setPred_queues (c : Ctx) (r : Reg3) (v : Bool) : (c.setPred r v).queues = c.queues := by unfold Ctx.setPred; split <;> rfl
@[simp] theorem Ctx.setPred_dispatched (c : Ctx) (r : Reg3) (v : Bool) : (c.setPred r v).dispatched = c.dispatched := by unfold Ctx.setPred; split <;> rfl
@[simp] theorem Ctx.setPred_tokens (c : Ctx) (r : Reg3) (v : Bool) : (c.setPred r v).tokens = c.tokens := by unfold Ctx.setPred; split <;> rfl
@[simp] theorem Ctx.setPred_nestCi (c : Ctx) (r : Reg3) (v : Bool) : (c.setPred r v).nestCi = c.nestCi := by unfold Ctx.setPred; split <;> rfl
@[simp] theorem Ctx.setPred_nestCo (c : Ctx) (r : Reg3) (v : Bool) : (c.setPred r v).nestCo = c.nestCo := by unfold Ctx.setPred; split <;> rfl
@[simp] theorem Ctx.setPred_mxcfg (c : Ctx) (r : Reg3) (v : Bool) : (c.setPred r v).mxcfg = c.mxcfg := by unfold Ctx.setPred; split <;> rfl
@[simp] theorem Ctx.setPred_sqcfg (c : Ctx) (r : Reg3) (v : Bool) : (c.setPred r v).sqcfg = c.sqcfg := by unfold Ctx.setPred; split <;> rfl
@[simp] theorem Ctx.setPred_planes (c : Ctx) (r : Reg3) (v : Bool) : (c.setPred r v).planes = c.planes := by unfold Ctx.setPred; split <;> rfl
@[simp] theorem Ctx.setPred_activePlane (c : Ctx) (r : Reg3) (v : Bool) : (c.setPred r v).activePlane = c.activePlane := by unfold Ctx.setPred; split <;> rfl
@[simp] theorem Ctx.setPred_scaleq (c : Ctx) (r : Reg3) (v : Bool) : (c.setPred r v).scaleq = c.scaleq := by unfold Ctx.setPred; split <;> rfl
@[simp] theorem Ctx.setPred_mview (c : Ctx) (r : Reg3) (v : Bool) : (c.setPred r v).mview = c.mview := by unfold Ctx.setPred; split <;> rfl
@[simp] theorem Ctx.setPred_oslots (c : Ctx) (r : Reg3) (v : Bool) : (c.setPred r v).oslots = c.oslots := by unfold Ctx.setPred; split <;> rfl
@[simp] theorem Ctx.setPred_oview (c : Ctx) (r : Reg3) (v : Bool) : (c.setPred r v).oview = c.oview := by unfold Ctx.setPred; split <;> rfl
@[simp] theorem Ctx.setPred_gops (c : Ctx) (r : Reg3) (v : Bool) : (c.setPred r v).gops = c.gops := by unfold Ctx.setPred; split <;> rfl
@[simp] theorem Ctx.setPred_sbuf (c : Ctx) (r : Reg3) (v : Bool) : (c.setPred r v).sbuf = c.sbuf := by unfold Ctx.setPred; split <;> rfl
@[simp] theorem Ctx.setPred_posted (c : Ctx) (r : Reg3) (v : Bool) : (c.setPred r v).posted = c.posted := by unfold Ctx.setPred; split <;> rfl
@[simp] theorem Ctx.setPred_hostLoads (c : Ctx) (r : Reg3) (v : Bool) : (c.setPred r v).hostLoads = c.hostLoads := by unfold Ctx.setPred; split <;> rfl
@[simp] theorem Ctx.setPred_lateLoads (c : Ctx) (r : Reg3) (v : Bool) : (c.setPred r v).lateLoads = c.lateLoads := by unfold Ctx.setPred; split <;> rfl
@[simp] theorem Ctx.setPred_defers (c : Ctx) (r : Reg3) (v : Bool) : (c.setPred r v).defers = c.defers := by unfold Ctx.setPred; split <;> rfl
@[simp] theorem Ctx.setPred_lags (c : Ctx) (r : Reg3) (v : Bool) : (c.setPred r v).lags = c.lags := by unfold Ctx.setPred; split <;> rfl
@[simp] theorem Ctx.setPred_fails (c : Ctx) (r : Reg3) (v : Bool) : (c.setPred r v).fails = c.fails := by unfold Ctx.setPred; split <;> rfl
@[simp] theorem Ctx.setPred_lateFails (c : Ctx) (r : Reg3) (v : Bool) : (c.setPred r v).lateFails = c.lateFails := by unfold Ctx.setPred; split <;> rfl
@[simp] theorem Ctx.setPred_arr (c : Ctx) (r : Reg3) (v : Bool) : (c.setPred r v).arr = c.arr := by unfold Ctx.setPred; split <;> rfl
@[simp] theorem Ctx.setPred_arrStep (c : Ctx) (r : Reg3) (v : Bool) : (c.setPred r v).arrStep = c.arrStep := by unfold Ctx.setPred; split <;> rfl
@[simp] theorem Ctx.setPred_arrDone (c : Ctx) (r : Reg3) (v : Bool) : (c.setPred r v).arrDone = c.arrDone := by unfold Ctx.setPred; split <;> rfl
@[simp] theorem Ctx.setPred_ended (c : Ctx) (r : Reg3) (v : Bool) : (c.setPred r v).ended = c.ended := by unfold Ctx.setPred; split <;> rfl
@[simp] theorem Ctx.setPred_heldReports (c : Ctx) (r : Reg3) (v : Bool) : (c.setPred r v).heldReports = c.heldReports := by unfold Ctx.setPred; split <;> rfl
@[simp] theorem Ctx.setPred_heldEscs (c : Ctx) (r : Reg3) (v : Bool) : (c.setPred r v).heldEscs = c.heldEscs := by unfold Ctx.setPred; split <;> rfl
@[simp] theorem Ctx.setPred_preHeld (c : Ctx) (r : Reg3) (v : Bool) : (c.setPred r v).preHeld = c.preHeld := by unfold Ctx.setPred; split <;> rfl
@[simp] theorem Ctx.setPred_lastArith (c : Ctx) (r : Reg3) (v : Bool) : (c.setPred r v).lastArith = c.lastArith := by unfold Ctx.setPred; split <;> rfl
@[simp] theorem Ctx.setPred_watchdog (c : Ctx) (r : Reg3) (v : Bool) : (c.setPred r v).watchdog = c.watchdog := by unfold Ctx.setPred; split <;> rfl
@[simp] theorem Ctx.setPred_stallRaised (c : Ctx) (r : Reg3) (v : Bool) : (c.setPred r v).stallRaised = c.stallRaised := by unfold Ctx.setPred; split <;> rfl
@[simp] theorem Ctx.setPred_drainIdle (c : Ctx) (r : Reg3) (v : Bool) : (c.setPred r v).drainIdle = c.drainIdle := by unfold Ctx.setPred; split <;> rfl
@[simp] theorem Ctx.setPred_doomed (c : Ctx) (r : Reg3) (v : Bool) : (c.setPred r v).doomed = c.doomed := by unfold Ctx.setPred; split <;> rfl
@[simp] theorem Ctx.setPred_headSince (c : Ctx) (r : Reg3) (v : Bool) : (c.setPred r v).headSince = c.headSince := by unfold Ctx.setPred; split <;> rfl
@[simp] theorem Ctx.setPred_cbud (c : Ctx) (r : Reg3) (v : Bool) : (c.setPred r v).cbud = c.cbud := by unfold Ctx.setPred; split <;> rfl
@[simp] theorem Ctx.setPred_issueLeft (c : Ctx) (r : Reg3) (v : Bool) : (c.setPred r v).issueLeft = c.issueLeft := by unfold Ctx.setPred; split <;> rfl
@[simp] theorem Ctx.setPred_lastIssue (c : Ctx) (r : Reg3) (v : Bool) : (c.setPred r v).lastIssue = c.lastIssue := by unfold Ctx.setPred; split <;> rfl
@[simp] theorem Ctx.setPred_issues (c : Ctx) (r : Reg3) (v : Bool) : (c.setPred r v).issues = c.issues := by unfold Ctx.setPred; split <;> rfl
@[simp] theorem Ctx.setPred_spilled (c : Ctx) (r : Reg3) (v : Bool) : (c.setPred r v).spilled = c.spilled := by unfold Ctx.setPred; split <;> rfl
@[simp] theorem Ctx.setPred_task (c : Ctx) (r : Reg3) (v : Bool) : (c.setPred r v).task = c.task := by unfold Ctx.setPred; split <;> rfl
@[simp] theorem Ctx.fail_run (c : Ctx) (b : BitVec 4) : (c.fail b).run = c.run := by unfold Ctx.fail; split <;> rfl
@[simp] theorem Ctx.fail_pc (c : Ctx) (b : BitVec 4) : (c.fail b).pc = c.pc := by unfold Ctx.fail; split <;> rfl
@[simp] theorem Ctx.fail_s (c : Ctx) (b : BitVec 4) : (c.fail b).s = c.s := by unfold Ctx.fail; split <;> rfl
@[simp] theorem Ctx.fail_p (c : Ctx) (b : BitVec 4) : (c.fail b).p = c.p := by unfold Ctx.fail; split <;> rfl
@[simp] theorem Ctx.fail_tiles (c : Ctx) (b : BitVec 4) : (c.fail b).tiles = c.tiles := by unfold Ctx.fail; split <;> rfl
@[simp] theorem Ctx.fail_masks (c : Ctx) (b : BitVec 4) : (c.fail b).masks = c.masks := by unfold Ctx.fail; split <;> rfl
@[simp] theorem Ctx.fail_shapes (c : Ctx) (b : BitVec 4) : (c.fail b).shapes = c.shapes := by unfold Ctx.fail; split <;> rfl
@[simp] theorem Ctx.fail_csr (c : Ctx) (b : BitVec 4) : (c.fail b).csr = c.csr := by unfold Ctx.fail; split <;> rfl
@[simp] theorem Ctx.fail_queues (c : Ctx) (b : BitVec 4) : (c.fail b).queues = c.queues := by unfold Ctx.fail; split <;> rfl
@[simp] theorem Ctx.fail_dispatched (c : Ctx) (b : BitVec 4) : (c.fail b).dispatched = c.dispatched := by unfold Ctx.fail; split <;> rfl
@[simp] theorem Ctx.fail_tokens (c : Ctx) (b : BitVec 4) : (c.fail b).tokens = c.tokens := by unfold Ctx.fail; split <;> rfl
@[simp] theorem Ctx.fail_nestCi (c : Ctx) (b : BitVec 4) : (c.fail b).nestCi = c.nestCi := by unfold Ctx.fail; split <;> rfl
@[simp] theorem Ctx.fail_nestCo (c : Ctx) (b : BitVec 4) : (c.fail b).nestCo = c.nestCo := by unfold Ctx.fail; split <;> rfl
@[simp] theorem Ctx.fail_mxcfg (c : Ctx) (b : BitVec 4) : (c.fail b).mxcfg = c.mxcfg := by unfold Ctx.fail; split <;> rfl
@[simp] theorem Ctx.fail_sqcfg (c : Ctx) (b : BitVec 4) : (c.fail b).sqcfg = c.sqcfg := by unfold Ctx.fail; split <;> rfl
@[simp] theorem Ctx.fail_planes (c : Ctx) (b : BitVec 4) : (c.fail b).planes = c.planes := by unfold Ctx.fail; split <;> rfl
@[simp] theorem Ctx.fail_activePlane (c : Ctx) (b : BitVec 4) : (c.fail b).activePlane = c.activePlane := by unfold Ctx.fail; split <;> rfl
@[simp] theorem Ctx.fail_scaleq (c : Ctx) (b : BitVec 4) : (c.fail b).scaleq = c.scaleq := by unfold Ctx.fail; split <;> rfl
@[simp] theorem Ctx.fail_mview (c : Ctx) (b : BitVec 4) : (c.fail b).mview = c.mview := by unfold Ctx.fail; split <;> rfl
@[simp] theorem Ctx.fail_oslots (c : Ctx) (b : BitVec 4) : (c.fail b).oslots = c.oslots := by unfold Ctx.fail; split <;> rfl
@[simp] theorem Ctx.fail_oview (c : Ctx) (b : BitVec 4) : (c.fail b).oview = c.oview := by unfold Ctx.fail; split <;> rfl
@[simp] theorem Ctx.fail_gops (c : Ctx) (b : BitVec 4) : (c.fail b).gops = c.gops := by unfold Ctx.fail; split <;> rfl
@[simp] theorem Ctx.fail_sbuf (c : Ctx) (b : BitVec 4) : (c.fail b).sbuf = c.sbuf := by unfold Ctx.fail; split <;> rfl
@[simp] theorem Ctx.fail_posted (c : Ctx) (b : BitVec 4) : (c.fail b).posted = c.posted := by unfold Ctx.fail; split <;> rfl
@[simp] theorem Ctx.fail_hostLoads (c : Ctx) (b : BitVec 4) : (c.fail b).hostLoads = c.hostLoads := by unfold Ctx.fail; split <;> rfl
@[simp] theorem Ctx.fail_lateLoads (c : Ctx) (b : BitVec 4) : (c.fail b).lateLoads = c.lateLoads := by unfold Ctx.fail; split <;> rfl
@[simp] theorem Ctx.fail_defers (c : Ctx) (b : BitVec 4) : (c.fail b).defers = c.defers := by unfold Ctx.fail; split <;> rfl
@[simp] theorem Ctx.fail_lags (c : Ctx) (b : BitVec 4) : (c.fail b).lags = c.lags := by unfold Ctx.fail; split <;> rfl
@[simp] theorem Ctx.fail_lateFails (c : Ctx) (b : BitVec 4) : (c.fail b).lateFails = c.lateFails := by unfold Ctx.fail; split <;> rfl
@[simp] theorem Ctx.fail_arr (c : Ctx) (b : BitVec 4) : (c.fail b).arr = c.arr := by unfold Ctx.fail; split <;> rfl
@[simp] theorem Ctx.fail_arrStep (c : Ctx) (b : BitVec 4) : (c.fail b).arrStep = c.arrStep := by unfold Ctx.fail; split <;> rfl
@[simp] theorem Ctx.fail_arrDone (c : Ctx) (b : BitVec 4) : (c.fail b).arrDone = c.arrDone := by unfold Ctx.fail; split <;> rfl
@[simp] theorem Ctx.fail_ended (c : Ctx) (b : BitVec 4) : (c.fail b).ended = c.ended := by unfold Ctx.fail; split <;> rfl
@[simp] theorem Ctx.fail_heldReports (c : Ctx) (b : BitVec 4) : (c.fail b).heldReports = c.heldReports := by unfold Ctx.fail; split <;> rfl
@[simp] theorem Ctx.fail_heldEscs (c : Ctx) (b : BitVec 4) : (c.fail b).heldEscs = c.heldEscs := by unfold Ctx.fail; split <;> rfl
@[simp] theorem Ctx.fail_preHeld (c : Ctx) (b : BitVec 4) : (c.fail b).preHeld = c.preHeld := by unfold Ctx.fail; split <;> rfl
@[simp] theorem Ctx.fail_lastArith (c : Ctx) (b : BitVec 4) : (c.fail b).lastArith = c.lastArith := by unfold Ctx.fail; split <;> rfl
@[simp] theorem Ctx.fail_watchdog (c : Ctx) (b : BitVec 4) : (c.fail b).watchdog = c.watchdog := by unfold Ctx.fail; split <;> rfl
@[simp] theorem Ctx.fail_stallRaised (c : Ctx) (b : BitVec 4) : (c.fail b).stallRaised = c.stallRaised := by unfold Ctx.fail; split <;> rfl
@[simp] theorem Ctx.fail_drainIdle (c : Ctx) (b : BitVec 4) : (c.fail b).drainIdle = c.drainIdle := by unfold Ctx.fail; split <;> rfl
@[simp] theorem Ctx.fail_doomed (c : Ctx) (b : BitVec 4) : (c.fail b).doomed = c.doomed := by unfold Ctx.fail; split <;> rfl
@[simp] theorem Ctx.fail_headSince (c : Ctx) (b : BitVec 4) : (c.fail b).headSince = c.headSince := by unfold Ctx.fail; split <;> rfl
@[simp] theorem Ctx.fail_cbud (c : Ctx) (b : BitVec 4) : (c.fail b).cbud = c.cbud := by unfold Ctx.fail; split <;> rfl
@[simp] theorem Ctx.fail_issueLeft (c : Ctx) (b : BitVec 4) : (c.fail b).issueLeft = c.issueLeft := by unfold Ctx.fail; split <;> rfl
@[simp] theorem Ctx.fail_lastIssue (c : Ctx) (b : BitVec 4) : (c.fail b).lastIssue = c.lastIssue := by unfold Ctx.fail; split <;> rfl
@[simp] theorem Ctx.fail_issues (c : Ctx) (b : BitVec 4) : (c.fail b).issues = c.issues := by unfold Ctx.fail; split <;> rfl
@[simp] theorem Ctx.fail_spilled (c : Ctx) (b : BitVec 4) : (c.fail b).spilled = c.spilled := by unfold Ctx.fail; split <;> rfl
@[simp] theorem Ctx.fail_task (c : Ctx) (b : BitVec 4) : (c.fail b).task = c.task := by unfold Ctx.fail; split <;> rfl
@[simp] theorem Ctx.advance_pc (c : Ctx) (off : Nat) : (c.advance off).pc = c.pc + BitVec.ofNat 64 (off + 4) := rfl
@[simp] theorem Ctx.advance_reg (c : Ctx) (off : Nat) (r : Reg5) : (c.advance off).reg r = c.reg r := rfl
@[simp] theorem Ctx.advance_regPoison (c : Ctx) (off : Nat) (r : Reg5) : (c.advance off).regPoison r = c.regPoison r := rfl
@[simp] theorem Ctx.advance_pred (c : Ctx) (off : Nat) (p : Reg3) : (c.advance off).pred p = c.pred p := rfl

/-! ## Registers, predicates, tokens and queues (R86, R28, R26) -/

@[simp] theorem Ctx.reg_zero (c : Ctx) : c.reg 0 = 0 := rfl
@[simp] theorem Ctx.regPoison_zero (c : Ctx) : c.regPoison 0 = false := rfl
@[simp] theorem Ctx.pred_zero (c : Ctx) : c.pred 0 = true := rfl
@[simp] theorem Ctx.setRegP_zero (c : Ctx) (v : Word) (p : Bool) : c.setRegP 0 v p = c := rfl
@[simp] theorem Ctx.setReg_zero (c : Ctx) (v : Word) : c.setReg 0 v = c := rfl
@[simp] theorem Ctx.setPred_zero (c : Ctx) (v : Bool) : c.setPred 0 v = c := rfl

theorem Ctx.setRegP_reg (c : Ctx) (r : Reg5) (v : Word) (p : Bool) (h : r ≠ 0) : (c.setRegP r v p).reg r = v := by
  simp only [Ctx.setRegP, Ctx.reg, if_neg h, Vector.getElem_set_self]
theorem Ctx.setRegP_reg_ne (c : Ctx) (r q : Reg5) (v : Word) (p : Bool) (h : q ≠ r) : (c.setRegP r v p).reg q = c.reg q := by
  unfold Ctx.setRegP Ctx.reg
  by_cases hr : r = 0
  · simp [hr]
  · have : r.toNat ≠ q.toNat := fun e => h (BitVec.eq_of_toNat_eq e.symm)
    simp only [if_neg hr, Vector.getElem_set_ne _ _ this]
theorem Ctx.setRegP_regPoison (c : Ctx) (r : Reg5) (v : Word) (p : Bool) (h : r ≠ 0) : (c.setRegP r v p).regPoison r = p := by
  simp only [Ctx.setRegP, Ctx.regPoison, if_neg h, Vector.getElem_set_self]
theorem Ctx.setRegP_regPoison_ne (c : Ctx) (r q : Reg5) (v : Word) (p : Bool) (h : q ≠ r) :
    (c.setRegP r v p).regPoison q = c.regPoison q := by
  unfold Ctx.setRegP Ctx.regPoison
  by_cases hr : r = 0
  · simp [hr]
  · have : r.toNat ≠ q.toNat := fun e => h (BitVec.eq_of_toNat_eq e.symm)
    simp only [if_neg hr, Vector.getElem_set_ne _ _ this]
theorem Ctx.setReg_reg (c : Ctx) (r : Reg5) (v : Word) (h : r ≠ 0) : (c.setReg r v).reg r = v := c.setRegP_reg r v false h
theorem Ctx.setReg_reg_ne (c : Ctx) (r q : Reg5) (v : Word) (h : q ≠ r) : (c.setReg r v).reg q = c.reg q :=
  c.setRegP_reg_ne r q v false h
/-- A written predicate reads as written. -/
theorem Ctx.setPred_pred (c : Ctx) (p : Reg3) (v : Bool) (h : p ≠ 0) : (c.setPred p v).pred p = v := by
  have hp : p.toNat < 8 := p.isLt
  unfold Ctx.setPred Ctx.pred
  cases v <;> simp only [if_neg h] <;> simp [hp]
/-- Another predicate reads as before. -/
theorem Ctx.setPred_pred_ne (c : Ctx) (p q : Reg3) (v : Bool) (h : q ≠ p) : (c.setPred p v).pred q = c.pred q := by
  have hq : q.toNat < 8 := q.isLt
  have hne : q.toNat ≠ p.toNat := fun e => h (BitVec.eq_of_toNat_eq e)
  unfold Ctx.setPred Ctx.pred
  by_cases hp0 : p = 0
  · simp [hp0]
  · by_cases hq0 : q = 0
    · simp [hq0]
    · cases v <;> simp only [if_neg hp0, if_neg hq0] <;> simp [hq] <;> omega
@[simp] theorem Ctx.setTok_tok (c : Ctx) (f : Fin 10) (n : Nat) : (c.setTok f n).tok f = n := by
  simp [Ctx.setTok, Ctx.tok]
theorem Ctx.setTok_tok_ne (c : Ctx) (f g : Fin 10) (n : Nat) (h : g ≠ f) : (c.setTok f n).tok g = c.tok g := by
  have : f.val ≠ g.val := fun e => h (Fin.ext e.symm)
  simp [Ctx.setTok, Ctx.tok, this]
@[simp] theorem Ctx.setQueue_queue (c : Ctx) (q : EngineQ) (x : EQueue) : (c.setQueue q x).queue q = x := by
  simp [Ctx.setQueue, Ctx.queue]
theorem EngineQ.idx_ne (q r : EngineQ) (h : q ≠ r) : q.idx ≠ r.idx := by
  cases q <;> cases r <;> first | exact absurd rfl h | decide
theorem Ctx.setQueue_queue_ne (c : Ctx) (q r : EngineQ) (x : EQueue) (h : r ≠ q) : (c.setQueue q x).queue r = c.queue r := by
  have : q.idx.val ≠ r.idx.val := fun e => EngineQ.idx_ne r q h (Fin.ext e.symm)
  simp [Ctx.setQueue, Ctx.queue, this]
@[simp] theorem Ctx.setEntries_queue (c : Ctx) (q : EngineQ) (l : List Entry) :
    (c.setEntries q l).queue q = { c.queue q with entries := l } := by
  simp [Ctx.setEntries]
theorem Ctx.setEntries_queue_ne (c : Ctx) (q r : EngineQ) (l : List Entry) (h : r ≠ q) :
    (c.setEntries q l).queue r = c.queue r := by
  simp [Ctx.setEntries, Ctx.setQueue_queue_ne _ _ _ _ h]

end Sys2Proof.Machine
end

