-- ==== Sys2Proof/Laws/Ops.lean ====
section
/-!
SUPPORT. What the shared operations of the meanings answer, once each: results and traps (`finish`), sources, checks, register and
predicate results, jumps, dispatch, and taking a trap.
-/
namespace Sys2Proof.Machine

/-! ## Results, sources and checks -/

@[simp] theorem finish_ok (s t : State) : finish s (.ok t) = .next (issued s.cur t) := rfl
@[simp] theorem finish_error (s u : State) (t : Trap) : finish s (.error (t, u)) = .next (raise (issued s.cur u) s.cur t) := rfl
@[simp] theorem finish_trapAt (s : State) (c : TrapCode) (v : Word) : finish s (trapAt s c v) = .next (s.trapped c v) := rfl
theorem finish_illegal (s : State) (i : Instr) : finish s (illegal s i) = .next (s.trapped .illegalInstruction (wordOf i)) := rfl

@[simp] theorem res_ok_bind {α β : Type} (x : α) (f : α → Res β) : (Except.ok x >>= f : Res β) = f x := rfl
@[simp] theorem res_error_bind {α β : Type} (e : Trap × State) (f : α → Res β) :
    ((Except.error e : Res α) >>= f) = .error e := rfl
@[simp] theorem trapAt_bind {α β : Type} (s : State) (c : TrapCode) (v : Word) (f : α → Res β) :
    ((trapAt s c v : Res α) >>= f) = trapAt s c v := rfl
@[simp] theorem illegal_bind {α β : Type} (s : State) (i : Instr) (f : α → Res β) :
    ((illegal s i : Res α) >>= f) = illegal s i := rfl

theorem src_clean {s : State} {r : Reg5} (h : s.clean r) : src s r = .ok (s.val r) := by
  unfold State.clean State.me at h; simp [src, h, State.val, State.me]
theorem src_poisoned {s : State} {r : Reg5} (h : ¬ s.clean r) : src s r = trapAt s .poisonConsumed 0 := by
  unfold State.clean State.me at h; simp [src, h]

@[simp] theorem need_true (s : State) (c : TrapCode) (v : Word) : need s true c v = .ok () := rfl
@[simp] theorem need_false (s : State) (c : TrapCode) (v : Word) : need s false c v = trapAt s c v := rfl

/-! ## Register and predicate results -/

theorem putReg_issued (s : State) (off : Nat) (d : Reg5) (v : Word) :
    issued s.cur (putReg s off d v) = s.did (fun c => (c.setReg d v).advance off) := rfl
theorem putPred_issued (s : State) (off : Nat) (p : Reg3) (v : Bool) :
    issued s.cur (putPred s off p v) = s.did (fun c => (c.setPred p v).advance off) := rfl

theorem aluRR_ok {s : State} {d a b : Reg5} (op : Word → Word → Word) (ha : s.clean a) (hb : s.clean b) :
    aluRR op d a b s = .next (s.did (fun c => (c.setReg d (op (s.val a) (s.val b))).advance 0)) := by
  simp [aluRR, src_clean ha, src_clean hb, putReg_issued]
theorem aluR_ok {s : State} {d a : Reg5} (op : Word → Word) (ha : s.clean a) :
    aluR op d a s = .next (s.did (fun c => (c.setReg d (op (s.val a))).advance 0)) := by
  simp [aluR, src_clean ha, putReg_issued]
theorem aluRI_ok {s : State} {d a : Reg5} (op : Word → Word → Word) (off : Nat) (imm : Word) (ha : s.clean a) :
    aluRI op off d a imm s = .next (s.did (fun c => (c.setReg d (op (s.val a) imm)).advance off)) := by
  simp [aluRI, src_clean ha, putReg_issued]
theorem shiftRI_ok {s : State} {d a : Reg5} (i : Instr) (op : Word → Word → Word) (off : Nat) (imm : Word) (ha : s.clean a)
    (h : imm.toNat ≤ 63) :
    shiftRI i op off d a imm s = .next (s.did (fun c => (c.setReg d (op (s.val a) imm)).advance off)) := by
  simp [shiftRI, h, aluRI_ok op off imm ha]
theorem shiftRI_bad (s : State) (d a : Reg5) (i : Instr) (op : Word → Word → Word) (off : Nat) (imm : Word) (h : 63 < imm.toNat) :
    shiftRI i op off d a imm s = .next (s.trapped .illegalInstruction (wordOf i)) := by
  simp [shiftRI, Nat.not_le.mpr h, finish_illegal]
theorem predOp_ok (s : State) (p : Reg3) (v : Ctx → Bool) :
    predOp p v s = .next (s.did (fun c => (c.setPred p (v s.me)).advance 0)) := rfl
theorem compare_ok {s : State} {p : Reg3} {a : Reg5} {c : BitVec 4} (i : Instr) (off : Nat) (y : Word) (ha : s.clean a)
    (hc : c.toNat ≤ 9) :
    compare i off p c a (.ok y) s =
      .next (s.did (fun x => (x.setPred p ((condHolds c (s.val a) y).getD false)).advance off)) := by
  simp [compare, hc, src_clean ha, putPred_issued]
theorem compare_bad (s : State) (p : Reg3) (a : Reg5) (c : BitVec 4) (i : Instr) (off : Nat) (y : Res Word) (hc : 9 < c.toNat) :
    compare i off p c a y s = .next (s.trapped .illegalInstruction (wordOf i)) := by
  simp [compare, Nat.not_le.mpr hc, finish_illegal]

/-! ## Transfers -/

theorem transfer_ok {s : State} {reg : Bool} {t : Word} (f : Ctx → Ctx) (h : targetTrap reg t = none) :
    transfer s reg t f = .ok (s.modCtx s.cur (fun c => { f c with pc := t })) := by simp [transfer, h]
theorem transfer_bad {s : State} {reg : Bool} {t : Word} {c : TrapCode} (f : Ctx → Ctx) (h : targetTrap reg t = some c) :
    transfer s reg t f = trapAt s c t := by simp [transfer, h]

/-! ## Dispatch -/

theorem dispatch_full {s : State} {q : EngineQ} (dep : Dep) (chk : Res Dispatched) (h : s.me.qFull q = true) :
    dispatch q dep chk s = .next s := by unfold State.me at h; simp [dispatch, h]
theorem dispatch_ok {s : State} {q : EngineQ} (dep : Dep) (x : Dispatched) (h : s.me.qFull q = false) :
    dispatch q dep (.ok x) s = .next (s.did (fun c => (c.enqueue q dep x s.clock).advance 0)) := by
  unfold State.me at h; simp [dispatch, h]; rfl
theorem dispatch_trap {s : State} {q : EngineQ} (dep : Dep) (e : Trap × State) (h : s.me.qFull q = false) :
    dispatch q dep (.error e) s = .next (raise (issued s.cur e.2) s.cur e.1) := by
  obtain ⟨t, u⟩ := e; unfold State.me at h; simp [dispatch, h]

/-! ## Taking a trap -/

/-- A trap in a context with nothing left to drain is delivered at once (R44, R46, R361, R363). -/
theorem raise_quiet {s : State} {k : CtxId} (t : Trap) (h : (s.ctx k).drainedOut = true) :
    raise s k t = afterDrain (endDrain s k (.trap t)) k (.trap t) := by simp [raise, beginDrain, h]
/-- Else the context drains first (R374). -/
theorem raise_drains {s : State} {k : CtxId} (t : Trap) (h : (s.ctx k).drainedOut = false) :
    raise s k t = s.modCtx k (·.drainFor (.trap t)) := by simp [raise, beginDrain, h]

end Sys2Proof.Machine
end

