-- ==== Sys2Proof/Laws/Engine.lean ====
section
/-!
SUPPORT. What an engine entry that runs leaves alone: the queues and the token FIFOs of its context.
-/
namespace Sys2Proof.Machine

/-- A mask operation keeps them: m0 discards the write (R87). -/
theorem setMask_queues_tokens (c : Ctx) (d : Nat) (v : LMask) :
    (c.setMask d v).queues = c.queues ∧ (c.setMask d v).tokens = c.tokens := by
  unfold Ctx.setMask; split <;> exact ⟨rfl, rfl⟩

/-- An entry's effect, whole at its start, reaches neither the queues nor the tokens (R26, R28). -/
theorem runOp_queues_tokens (k : CtxId) (draw : Nat) (m : EMem) (c : Ctx) (e : Entry) :
    (runOp k draw m c e).ctx.queues = c.queues ∧ (runOp k draw m c e).ctx.tokens = c.tokens := by
  unfold runOp
  split <;> (first | exact ⟨rfl, rfl⟩ | exact setMask_queues_tokens _ _ _ | skip)
  · constructor <;> (unfold runMdrain; extract_lets; split <;> rfl)
  · constructor <;> (unfold runSchunk; extract_lets; split <;> rfl)
  · constructor <;> (unfold runSfork; extract_lets; split <;> rfl)
  · constructor <;> (unfold runSroll; extract_lets; split <;> rfl)
  · constructor <;> (unfold runLane; split <;> rfl)
  · rename_i nout _ _ _ _ _ _ _ _; constructor <;> (unfold runOx; extract_lets; split <;> first | rfl | (by_cases h : nout = 2 <;> simp only [h] <;> rfl))
  · constructor <;> (unfold runOload; extract_lets; split <;> rfl)

end Sys2Proof.Machine
end

