-- ==== Sys2Proof/Laws/Memory.lean ====
section
/-!
SUPPORT. The laws of byte memory: the canonical form is kept by every operation, a byte read after a write, equality of canonical
memories, and the same over the memories of the machine.
-/
namespace Sys2Proof.Machine

/-! ## Cell lists -/

theorem cellsWf_mono {lo hi : Nat} (h : lo ≤ hi) : ∀ l, cellsWf hi l = true → cellsWf lo l = true
  | [], _ => rfl
  | (x, b) :: r, w => by
    simp only [cellsWf, Bool.and_eq_true, decide_eq_true_eq] at w ⊢
    exact ⟨⟨Nat.le_trans h w.1.1, w.1.2⟩, w.2⟩

/-- Below its first address a canonical list reads 0. -/
theorem cellGet_below {lo a : Nat} (h : a < lo) : ∀ l, cellsWf lo l = true → cellGet l a = 0
  | [], _ => rfl
  | (x, b) :: r, w => by
    simp only [cellsWf, Bool.and_eq_true, decide_eq_true_eq] at w
    have h1 : x ≠ a := by omega
    have h2 : a < x := by omega
    simp [cellGet, h1, h2]

/-- A write keeps the canonical form. -/
theorem cellSet_wf {lo a : Nat} (v : Byte) (h : lo ≤ a) : ∀ l, cellsWf lo l = true → cellsWf lo (cellSet l a v) = true
  | [], _ => by
    simp only [cellSet]
    split
    · rfl
    · next hv => simpa [cellsWf, h] using hv
  | (x, b) :: r, w => by
    have w' := w
    simp only [cellsWf, Bool.and_eq_true, decide_eq_true_eq] at w
    unfold cellSet
    split
    · next e =>
      split
      · exact cellsWf_mono (by omega) r w.2
      · next hv =>
        subst e
        simp only [cellsWf, Bool.and_eq_true, decide_eq_true_eq, bne_iff_ne]
        exact ⟨⟨h, hv⟩, w.2⟩
    · next e =>
      split
      · next lt =>
        split
        · exact w'
        · next hv =>
          have : a + 1 ≤ x := by omega
          simp only [cellsWf, Bool.and_eq_true, decide_eq_true_eq, bne_iff_ne, ne_eq]
          exact ⟨⟨h, hv⟩, ⟨this, by simpa using w.1.2⟩, w.2⟩
      · next ge =>
        simp only [cellsWf, Bool.and_eq_true, decide_eq_true_eq]
        exact ⟨w.1, cellSet_wf v (by omega) r w.2⟩

/-- The byte written is read back. -/
theorem cellGet_cellSet {lo a : Nat} (v : Byte) : ∀ l, cellsWf lo l = true → cellGet (cellSet l a v) a = v
  | [], _ => by
    simp only [cellSet]
    split
    · next hv => exact hv.symm
    · simp [cellGet]
  | (x, b) :: r, w => by
    simp only [cellsWf, Bool.and_eq_true, decide_eq_true_eq] at w
    unfold cellSet
    split
    · next e =>
      split
      · next hv => subst hv; exact cellGet_below (by omega) r w.2
      · simp [cellGet]
    · next e =>
      split
      · next lt =>
        split
        · next hv => subst hv; simp [cellGet, e, lt]
        · simp [cellGet]
      · next ge =>
        simp only [cellGet, if_neg e, if_neg ge]
        exact cellGet_cellSet v r w.2

/-- Every other byte reads as before. -/
theorem cellGet_cellSet_ne {lo a c : Nat} (v : Byte) (h : c ≠ a) :
    ∀ l, cellsWf lo l = true → cellGet (cellSet l a v) c = cellGet l c
  | [], _ => by
    by_cases hv : v = 0
    · simp [cellSet, hv]
    · simp only [cellSet, if_neg hv, cellGet, if_neg (Ne.symm h)]
      split <;> rfl
  | (x, b) :: r, w => by
    simp only [cellsWf, Bool.and_eq_true, decide_eq_true_eq] at w
    unfold cellSet
    split
    · next e =>
      subst e
      split
      · simp only [cellGet, if_neg (Ne.symm h)]
        split
        · next lt => exact cellGet_below (by omega) r w.2
        · rfl
      · simp only [cellGet, if_neg (Ne.symm h)]
    · next e =>
      split
      · next lt =>
        split
        · rfl
        · simp only [cellGet, if_neg (Ne.symm h)]
          split
          · next h1 =>
            have h2 : ¬ x = c := by omega
            have h3 : c < x := by omega
            simp [h2, h3]
          · rfl
      · simp only [cellGet]
        split
        · rfl
        · split
          · rfl
          · exact cellGet_cellSet_ne v h r w.2

theorem addrsWf_mono {lo hi : Nat} (h : lo ≤ hi) : ∀ l, addrsWf hi l = true → addrsWf lo l = true
  | [], _ => rfl
  | x :: r, w => by
    simp only [addrsWf, Bool.and_eq_true, decide_eq_true_eq] at w ⊢
    exact ⟨Nat.le_trans h w.1, w.2⟩

theorem addrMem_below {lo a : Nat} (h : a < lo) : ∀ l, addrsWf lo l = true → addrMem l a = false
  | [], _ => rfl
  | x :: r, w => by
    simp only [addrsWf, Bool.and_eq_true, decide_eq_true_eq] at w
    have h1 : x ≠ a := by omega
    have h2 : a < x := by omega
    simp [addrMem, h1, h2]

theorem addrSet_wf {lo a : Nat} (v : Bool) (h : lo ≤ a) : ∀ l, addrsWf lo l = true → addrsWf lo (addrSet l a v) = true
  | [], _ => by cases v <;> simp [addrSet, addrsWf, h]
  | x :: r, w => by
    have w' := w
    simp only [addrsWf, Bool.and_eq_true, decide_eq_true_eq] at w
    unfold addrSet
    split
    · next e =>
      cases v
      · exact addrsWf_mono (by omega) r w.2
      · exact w'
    · next e =>
      split
      · next lt =>
        cases v
        · exact w'
        · have : a + 1 ≤ x := by omega
          simp [addrsWf, h, this, w.2]
      · next ge =>
        simp only [addrsWf, Bool.and_eq_true, decide_eq_true_eq]
        exact ⟨w.1, addrSet_wf v (by omega) r w.2⟩

theorem addrMem_addrSet {lo a : Nat} (v : Bool) : ∀ l, addrsWf lo l = true → addrMem (addrSet l a v) a = v
  | [], _ => by cases v <;> simp [addrSet, addrMem]
  | x :: r, w => by
    simp only [addrsWf, Bool.and_eq_true, decide_eq_true_eq] at w
    unfold addrSet
    split
    · next e =>
      cases v
      · exact addrMem_below (by omega) r w.2
      · simp [addrMem, e]
    · next e =>
      split
      · next lt => cases v <;> simp [addrMem, e, lt]
      · next ge =>
        simp only [addrMem, if_neg e, if_neg ge]
        exact addrMem_addrSet v r w.2

theorem addrMem_addrSet_ne {lo a c : Nat} (v : Bool) (h : c ≠ a) :
    ∀ l, addrsWf lo l = true → addrMem (addrSet l a v) c = addrMem l c
  | [], _ => by
    cases v
    · rfl
    · simp only [addrSet, addrMem, if_true, if_neg (Ne.symm h)]
      split <;> rfl
  | x :: r, w => by
    simp only [addrsWf, Bool.and_eq_true, decide_eq_true_eq] at w
    unfold addrSet
    split
    · next e =>
      subst e
      cases v
      · simp only [addrMem, if_neg (Ne.symm h), Bool.false_eq_true, if_false]
        split
        · next lt => exact addrMem_below (by omega) r w.2
        · rfl
      · simp only [if_true]
    · next e =>
      split
      · next lt =>
        cases v
        · rfl
        · simp only [addrMem, if_true, if_neg (Ne.symm h)]
          split
          · next h1 =>
            have h2 : ¬ x = c := by omega
            have h3 : c < x := by omega
            simp [h2, h3]
          · rfl
      · simp only [addrMem]
        split
        · rfl
        · split
          · rfl
          · exact addrMem_addrSet_ne v h r w.2

/-! ## Memories -/

theorem Mem.wf_iff (m : Mem) : m.wf = true ↔ cellsWf 0 m.cells = true ∧ addrsWf 0 m.poison = true := by
  simp [Mem.wf]

@[simp] theorem Mem.empty_wf : Mem.empty.wf = true := rfl
@[simp] theorem Mem.empty_get (a : Nat) : Mem.empty.get a = { val := 0, poison := false } := rfl

/-- Writing a byte keeps the canonical form. -/
theorem Mem.set_wf (m : Mem) (a : Nat) (b : PByte) (h : m.wf = true) : (m.set a b).wf = true := by
  rw [Mem.wf_iff] at h ⊢
  exact ⟨cellSet_wf _ (Nat.zero_le _) _ h.1, addrSet_wf _ (Nat.zero_le _) _ h.2⟩

/-- Writing bytes keeps the canonical form. -/
theorem Mem.write_wf : ∀ (l : List PByte) (m : Mem) (a : Nat), m.wf = true → (m.write a l).wf = true
  | [], _, _, h => h
  | b :: r, m, a, h => Mem.write_wf r _ (a + 1) (m.set_wf a b h)

/-- The byte written is read back. -/
theorem Mem.set_get (m : Mem) (a : Nat) (b : PByte) (h : m.wf = true) : (m.set a b).get a = b := by
  rw [Mem.wf_iff] at h
  simp [Mem.get, Mem.set, cellGet_cellSet _ _ h.1, addrMem_addrSet _ _ h.2]

/-- Every other byte reads as before. -/
theorem Mem.set_get_ne (m : Mem) (a c : Nat) (b : PByte) (h : m.wf = true) (n : c ≠ a) : (m.set a b).get c = m.get c := by
  rw [Mem.wf_iff] at h
  simp [Mem.get, Mem.set, cellGet_cellSet_ne _ n _ h.1, addrMem_addrSet_ne _ n _ h.2]

/-- Bytes outside a write read as before. -/
theorem Mem.write_get_out : ∀ (l : List PByte) (m : Mem) (a c : Nat), m.wf = true → (c < a ∨ a + l.length ≤ c) →
    (m.write a l).get c = m.get c
  | [], _, _, _, _, _ => rfl
  | b :: r, m, a, c, h, o => by
    simp only [List.length_cons] at o
    rw [Mem.write, Mem.write_get_out r _ _ _ (m.set_wf a b h) (by omega), m.set_get_ne a c b h (by omega)]

/-- A byte inside a write reads as written. -/
theorem Mem.write_get_in : ∀ (l : List PByte) (m : Mem) (a i : Nat), m.wf = true → (hi : i < l.length) →
    (m.write a l).get (a + i) = l[i]
  | b :: r, m, a, 0, h, _ => by
    rw [Nat.add_zero, Mem.write, Mem.write_get_out r _ _ _ (m.set_wf a b h) (by omega), m.set_get a b h]
    rfl
  | b :: r, m, a, i + 1, h, hi => by
    have := Mem.write_get_in r (m.set a b) (a + 1) i (m.set_wf a b h) (by simpa using hi)
    rw [Mem.write, ← Nat.add_assoc, Nat.add_right_comm, this]
    rfl

@[simp] theorem Mem.read_length (m : Mem) (a : Nat) : ∀ n, (m.read a n).length = n
  | 0 => rfl
  | n + 1 => by simp [Mem.read, Mem.read_length]

theorem Mem.read_getElem (m : Mem) : ∀ (n a i : Nat) (h : i < n), (m.read a n)[i]'(by simp [h]) = m.get (a + i)
  | n + 1, a, 0, _ => rfl
  | n + 1, a, i + 1, h => by
    have := Mem.read_getElem m n (a + 1) i (by omega)
    simp only [Mem.read, List.getElem_cons_succ, this]
    congr 1
    omega

/-- What is written is read. -/
theorem Mem.write_read (m : Mem) (a : Nat) (l : List PByte) (h : m.wf = true) : (m.write a l).read a l.length = l := by
  apply List.ext_getElem
  · simp
  · intro i h1 h2
    rw [Mem.read_getElem _ _ _ _ h2, Mem.write_get_in l m a i h h2]

/-- Reading beside a write gives what was there. -/
theorem Mem.write_read_out (m : Mem) (a c n : Nat) (l : List PByte) (h : m.wf = true) (o : c + n ≤ a ∨ a + l.length ≤ c) :
    (m.write a l).read c n = m.read c n := by
  apply List.ext_getElem
  · simp
  · intro i h1 h2
    simp only [Mem.read_length] at h1
    rw [Mem.read_getElem _ _ _ _ h1, Mem.read_getElem _ _ _ _ h1, Mem.write_get_out l m a _ h (by omega)]

/-! ## The memories of the machine -/

theorem State.memWf_iff (s : State) : s.memWf = true ↔
    s.dmem.wf = true ∧ s.hostMem.wf = true ∧ (∀ i (h : i < 4), s.peerMem[i].wf = true) ∧ (∀ i (h : i < 2), s.flash[i].wf = true) ∧
    (∀ i (h : i < 2), s.dies[i].dsh.wf = true) ∧
    (∀ i (h : i < 64), s.cores[i].pool.wf = true ∧ s.cores[i].acc.wf = true ∧ s.cores[i].spill.wf = true) := by
  simp only [State.memWf, Bool.and_eq_true, Vector.all_eq_true, and_assoc]

theorem State.reset_memWf : State.reset.memWf = true := by
  simp only [State.memWf_iff]
  refine ⟨rfl, rfl, ?_, ?_, ?_, ?_⟩ <;> intro i h <;> simp [State.reset, Die.reset, Core.reset]

/-- The memory of every space is canonical in a machine whose memories are. -/
theorem State.memOf_wf (s : State) (sp : Space) (h : s.memWf = true) : (s.memOf sp).wf = true := by
  rw [State.memWf_iff] at h
  obtain ⟨h1, h2, h3, -, h5, h6⟩ := h
  cases sp with
  | pool c => exact (h6 c.val c.isLt).1
  | acc c => exact (h6 c.val c.isLt).2.1
  | dsh d => exact h5 d.val d.isLt
  | dmem => exact h1
  | host => exact h2
  | peer p => exact h3 p.val p.isLt

/-- Putting a canonical memory in a space's place keeps every memory canonical. -/
theorem State.setMem_memWf (s : State) (sp : Space) (m : Mem) (h : s.memWf = true) (hm : m.wf = true) :
    (s.setMem sp m).memWf = true := by
  rw [State.memWf_iff] at h ⊢
  obtain ⟨h1, h2, h3, h4, h5, h6⟩ := h
  cases sp with
  | pool c =>
    refine ⟨h1, h2, h3, h4, h5, fun i hi => ?_⟩
    simp only [State.setMem, Vector.getElem_set]
    split
    · next e => exact ⟨hm, (h6 c.val c.isLt).2⟩
    · exact h6 i hi
  | acc c =>
    refine ⟨h1, h2, h3, h4, h5, fun i hi => ?_⟩
    simp only [State.setMem, Vector.getElem_set]
    split
    · next e => exact ⟨(h6 c.val c.isLt).1, hm, (h6 c.val c.isLt).2.2⟩
    · exact h6 i hi
  | dsh d =>
    refine ⟨h1, h2, h3, h4, fun i hi => ?_, h6⟩
    simp only [State.setMem, Vector.getElem_set]
    split
    · exact hm
    · exact h5 i hi
  | dmem => exact ⟨hm, h2, h3, h4, h5, h6⟩
  | host => exact ⟨h1, hm, h3, h4, h5, h6⟩
  | peer p =>
    refine ⟨h1, h2, fun i hi => ?_, h4, h5, h6⟩
    simp only [State.setMem, Vector.getElem_set]
    split
    · exact hm
    · exact h3 i hi

/-- Taking note of a write touches no memory. -/
@[simp] theorem State.note_memOf (s : State) (w : Knower) (f : Space → Nat → Nat → Bool) (sp : Space) :
    (s.note w f).memOf sp = s.memOf sp := by cases sp <;> rfl
@[simp] theorem State.note_memWf (s : State) (w : Knower) (f : Space → Nat → Nat → Bool) : (s.note w f).memWf = s.memWf := rfl
@[simp] theorem State.note_ctx (s : State) (w : Knower) (f : Space → Nat → Nat → Bool) (k : CtxId) : (s.note w f).ctx k = s.ctx k := rfl
@[simp] theorem State.note_cur (s : State) (w : Knower) (f : Space → Nat → Nat → Bool) : (s.note w f).cur = s.cur := rfl

/-- Every write of the machine keeps every memory canonical. -/
theorem State.put_memWf (s : State) (sp : Space) (a : Nat) (l : List PByte) (h : s.memWf = true) : (s.put sp a l).memWf = true :=
  s.setMem_memWf sp _ h (Mem.write_wf _ _ _ (s.memOf_wf sp h))
theorem State.writeBy_memWf (s : State) (w : Knower) (sp : Space) (a : Nat) (l : List PByte) (h : s.memWf = true) :
    (s.writeBy w sp a l).memWf = true := by simpa [State.writeBy] using s.put_memWf sp a l h
theorem State.write_memWf (s : State) (sp : Space) (a : Nat) (l : List PByte) (h : s.memWf = true) :
    (s.write sp a l).memWf = true := s.writeBy_memWf s.writer sp a l h

@[simp] theorem State.setMem_memOf (s : State) (sp : Space) (m : Mem) : (s.setMem sp m).memOf sp = m := by
  cases sp <;> simp [State.setMem, State.memOf]

/-- Another space keeps its memory. -/
theorem State.setMem_memOf_ne (s : State) (sp sq : Space) (m : Mem) (h : sq ≠ sp) :
    (s.setMem sp m).memOf sq = s.memOf sq := by
  cases sp with
  | pool c =>
    cases sq with
    | pool d =>
      have : c.val ≠ d.val := fun e => h (by rw [Fin.ext e])
      simp [State.setMem, State.memOf, Vector.getElem_set_ne _ _ this]
    | acc d => simp only [State.setMem, State.memOf, Vector.getElem_set]; split <;> simp_all
    | _ => rfl
  | acc c =>
    cases sq with
    | acc d =>
      have : c.val ≠ d.val := fun e => h (by rw [Fin.ext e])
      simp [State.setMem, State.memOf, Vector.getElem_set_ne _ _ this]
    | pool d => simp only [State.setMem, State.memOf, Vector.getElem_set]; split <;> simp_all
    | _ => rfl
  | dsh c =>
    cases sq with
    | dsh d =>
      have : c.val ≠ d.val := fun e => h (by rw [Fin.ext e])
      simp [State.setMem, State.memOf, Vector.getElem_set_ne _ _ this]
    | _ => rfl
  | peer c =>
    cases sq with
    | peer d =>
      have : c.val ≠ d.val := fun e => h (by rw [Fin.ext e])
      simp [State.setMem, State.memOf, Vector.getElem_set_ne _ _ this]
    | _ => rfl
  | dmem => cases sq <;> first | rfl | exact absurd rfl h
  | host => cases sq <;> first | rfl | exact absurd rfl h

@[simp] theorem eccBytes_length (m : Mem) (lo hi : Nat) : ∀ (l : List PByte) (a : Nat), (eccBytes m lo hi a l).length = l.length
  | [], _ => rfl
  | b :: r, a => by simp [eccBytes, eccBytes_length]

/-- A write in a space leaves the bytes outside it as they were. -/
theorem State.writeBy_get_out (s : State) (w : Knower) (sp : Space) (a c : Nat) (l : List PByte) (h : s.memWf = true)
    (o : c < a ∨ a + l.length ≤ c) : ((s.writeBy w sp a l).memOf sp).get c = (s.memOf sp).get c := by
  simp only [State.writeBy, State.note_memOf, State.put, State.setMem_memOf]
  split
  · exact Mem.write_get_out _ _ _ _ (s.memOf_wf sp h) (by simpa using o)
  · exact Mem.write_get_out _ _ _ _ (s.memOf_wf sp h) o

/-- A write in a space leaves the other spaces as they were. -/
theorem State.writeBy_memOf_ne (s : State) (w : Knower) (sp sq : Space) (a : Nat) (l : List PByte) (h : sq ≠ sp) :
    (s.writeBy w sp a l).memOf sq = s.memOf sq := by simpa [State.writeBy, State.put] using s.setMem_memOf_ne sp sq _ h

/-- What is written in a space outside ECC memory is read there. -/
theorem State.writeBy_read (s : State) (w : Knower) (sp : Space) (a : Nat) (l : List PByte) (h : s.memWf = true) (e : sp.ecc = false) :
    (s.writeBy w sp a l).read sp a l.length = l := by
  simp only [State.read, State.writeBy, State.note_memOf, State.put, State.setMem_memOf, e]
  exact Mem.write_read _ _ _ (s.memOf_wf sp h)

@[simp] theorem State.setMem_ctxs (s : State) (sp : Space) (m : Mem) : (s.setMem sp m).ctxs = s.ctxs := by cases sp <;> rfl
@[simp] theorem State.setMem_ctx (s : State) (sp : Space) (m : Mem) (k : CtxId) : (s.setMem sp m).ctx k = s.ctx k := by
  simp [State.ctx]
@[simp] theorem State.setMem_cur (s : State) (sp : Space) (m : Mem) : (s.setMem sp m).cur = s.cur := by cases sp <;> rfl
@[simp] theorem State.writeBy_ctx (s : State) (w : Knower) (sp : Space) (a : Nat) (l : List PByte) (k : CtxId) :
    (s.writeBy w sp a l).ctx k = s.ctx k := by simp [State.writeBy, State.put]
@[simp] theorem State.writeBy_cur (s : State) (w : Knower) (sp : Space) (a : Nat) (l : List PByte) : (s.writeBy w sp a l).cur = s.cur := by
  simp [State.writeBy, State.put]
@[simp] theorem State.write_ctx (s : State) (sp : Space) (a : Nat) (l : List PByte) (k : CtxId) :
    (s.write sp a l).ctx k = s.ctx k := s.writeBy_ctx s.writer sp a l k
@[simp] theorem State.write_cur (s : State) (sp : Space) (a : Nat) (l : List PByte) : (s.write sp a l).cur = s.cur :=
  s.writeBy_cur s.writer sp a l

/-! ## Numbers and bytes (R4) -/

@[simp] theorem leBytes_length : ∀ n v, (leBytes n v).length = n
  | 0, _ => rfl
  | n + 1, v => by simp [leBytes, leBytes_length]
@[simp] theorem pbytes_length (p : Bool) (l : List Byte) : (pbytes p l).length = l.length := by simp [pbytes]
@[simp] theorem natBytes_length (n v : Nat) : (natBytes n v).length = n := by simp [natBytes]

/-- Little-endian bytes stand for the number they were made of. -/
theorem bytesNat_pbytes (p : Bool) : ∀ n v, bytesNat (pbytes p (leBytes n v)) = v % 256 ^ n
  | 0, v => by simp [leBytes, pbytes, bytesNat, Nat.mod_one]
  | n + 1, v => by
    have := bytesNat_pbytes p n (v / 256)
    simp only [pbytes] at this
    simp only [leBytes, pbytes, List.map_cons, bytesNat, this, BitVec.toNat_ofNat]
    have e : (256 : Nat) ^ (n + 1) = 256 * 256 ^ n := by rw [Nat.pow_succ, Nat.mul_comm]
    rw [e, Nat.mod_mul]
theorem bytesNat_natBytes (n v : Nat) : bytesNat (natBytes n v) = v % 256 ^ n := bytesNat_pbytes false n v

end Sys2Proof.Machine
end

