-- ==== Sys2Proof/Laws/PerInstr.lean ====
section
/-!
SUPPORT. Instruction by instruction: the word encode writes decodes to the instruction it was written for, with every field at
every value (R144 to R158). An event has no word.
-/
set_option linter.unusedSimpArgs false

namespace Sys2Proof.Laws.RoundTrip
open Sys2Proof

/-- Every word of the instruction decodes to it. -/
def Statement (i : Instr) : Prop := ∀ w, encode i = some w → decode w = .ok i

theorem add (d : Reg5) (a : Reg5) (b : Reg5) : Statement (.add d a b) := by
  intro _ hw
  obtain rfl := Option.some.inj hw
  have hm : fld (0x0#4 ++ 0x0#6 ++ d ++ a ++ b ++ 0x0#7 : IWord) 22 6 = 0x0#6 := by
    simp (disch := decide) only [flds, Nat.reduceSub]
  rw [decode_int hm (by simp (disch := decide) only [flds, Nat.reduceSub]; rfl)]
  simp (disch := decide) only [decodeInt, flds, Nat.reduceSub, Nat.reduceMod, Nat.reducePow, Nat.reduceDiv, ↓reduceIte,
    BitVec.reduceEq, BitVec.ofNat_eq_ofNat, BitVec.reduceOfNat]
theorem sub (d : Reg5) (a : Reg5) (b : Reg5) : Statement (.sub d a b) := by
  intro _ hw
  obtain rfl := Option.some.inj hw
  have hm : fld (0x0#4 ++ 0x0#6 ++ d ++ a ++ b ++ 0x1#7 : IWord) 22 6 = 0x0#6 := by
    simp (disch := decide) only [flds, Nat.reduceSub]
  rw [decode_int hm (by simp (disch := decide) only [flds, Nat.reduceSub]; rfl)]
  simp (disch := decide) only [decodeInt, flds, Nat.reduceSub, Nat.reduceMod, Nat.reducePow, Nat.reduceDiv, ↓reduceIte,
    BitVec.reduceEq, BitVec.ofNat_eq_ofNat, BitVec.reduceOfNat]
theorem and (d : Reg5) (a : Reg5) (b : Reg5) : Statement (.and d a b) := by
  intro _ hw
  obtain rfl := Option.some.inj hw
  have hm : fld (0x0#4 ++ 0x0#6 ++ d ++ a ++ b ++ 0x2#7 : IWord) 22 6 = 0x0#6 := by
    simp (disch := decide) only [flds, Nat.reduceSub]
  rw [decode_int hm (by simp (disch := decide) only [flds, Nat.reduceSub]; rfl)]
  simp (disch := decide) only [decodeInt, flds, Nat.reduceSub, Nat.reduceMod, Nat.reducePow, Nat.reduceDiv, ↓reduceIte,
    BitVec.reduceEq, BitVec.ofNat_eq_ofNat, BitVec.reduceOfNat]
theorem or (d : Reg5) (a : Reg5) (b : Reg5) : Statement (.or d a b) := by
  intro _ hw
  obtain rfl := Option.some.inj hw
  have hm : fld (0x0#4 ++ 0x0#6 ++ d ++ a ++ b ++ 0x3#7 : IWord) 22 6 = 0x0#6 := by
    simp (disch := decide) only [flds, Nat.reduceSub]
  rw [decode_int hm (by simp (disch := decide) only [flds, Nat.reduceSub]; rfl)]
  simp (disch := decide) only [decodeInt, flds, Nat.reduceSub, Nat.reduceMod, Nat.reducePow, Nat.reduceDiv, ↓reduceIte,
    BitVec.reduceEq, BitVec.ofNat_eq_ofNat, BitVec.reduceOfNat]
theorem xor (d : Reg5) (a : Reg5) (b : Reg5) : Statement (.xor d a b) := by
  intro _ hw
  obtain rfl := Option.some.inj hw
  have hm : fld (0x0#4 ++ 0x0#6 ++ d ++ a ++ b ++ 0x4#7 : IWord) 22 6 = 0x0#6 := by
    simp (disch := decide) only [flds, Nat.reduceSub]
  rw [decode_int hm (by simp (disch := decide) only [flds, Nat.reduceSub]; rfl)]
  simp (disch := decide) only [decodeInt, flds, Nat.reduceSub, Nat.reduceMod, Nat.reducePow, Nat.reduceDiv, ↓reduceIte,
    BitVec.reduceEq, BitVec.ofNat_eq_ofNat, BitVec.reduceOfNat]
theorem andn (d : Reg5) (a : Reg5) (b : Reg5) : Statement (.andn d a b) := by
  intro _ hw
  obtain rfl := Option.some.inj hw
  have hm : fld (0x0#4 ++ 0x0#6 ++ d ++ a ++ b ++ 0x5#7 : IWord) 22 6 = 0x0#6 := by
    simp (disch := decide) only [flds, Nat.reduceSub]
  rw [decode_int hm (by simp (disch := decide) only [flds, Nat.reduceSub]; rfl)]
  simp (disch := decide) only [decodeInt, flds, Nat.reduceSub, Nat.reduceMod, Nat.reducePow, Nat.reduceDiv, ↓reduceIte,
    BitVec.reduceEq, BitVec.ofNat_eq_ofNat, BitVec.reduceOfNat]
theorem sll (d : Reg5) (a : Reg5) (b : Reg5) : Statement (.sll d a b) := by
  intro _ hw
  obtain rfl := Option.some.inj hw
  have hm : fld (0x0#4 ++ 0x0#6 ++ d ++ a ++ b ++ 0x6#7 : IWord) 22 6 = 0x0#6 := by
    simp (disch := decide) only [flds, Nat.reduceSub]
  rw [decode_int hm (by simp (disch := decide) only [flds, Nat.reduceSub]; rfl)]
  simp (disch := decide) only [decodeInt, flds, Nat.reduceSub, Nat.reduceMod, Nat.reducePow, Nat.reduceDiv, ↓reduceIte,
    BitVec.reduceEq, BitVec.ofNat_eq_ofNat, BitVec.reduceOfNat]
theorem srl (d : Reg5) (a : Reg5) (b : Reg5) : Statement (.srl d a b) := by
  intro _ hw
  obtain rfl := Option.some.inj hw
  have hm : fld (0x0#4 ++ 0x0#6 ++ d ++ a ++ b ++ 0x7#7 : IWord) 22 6 = 0x0#6 := by
    simp (disch := decide) only [flds, Nat.reduceSub]
  rw [decode_int hm (by simp (disch := decide) only [flds, Nat.reduceSub]; rfl)]
  simp (disch := decide) only [decodeInt, flds, Nat.reduceSub, Nat.reduceMod, Nat.reducePow, Nat.reduceDiv, ↓reduceIte,
    BitVec.reduceEq, BitVec.ofNat_eq_ofNat, BitVec.reduceOfNat]
theorem sra (d : Reg5) (a : Reg5) (b : Reg5) : Statement (.sra d a b) := by
  intro _ hw
  obtain rfl := Option.some.inj hw
  have hm : fld (0x0#4 ++ 0x0#6 ++ d ++ a ++ b ++ 0x8#7 : IWord) 22 6 = 0x0#6 := by
    simp (disch := decide) only [flds, Nat.reduceSub]
  rw [decode_int hm (by simp (disch := decide) only [flds, Nat.reduceSub]; rfl)]
  simp (disch := decide) only [decodeInt, flds, Nat.reduceSub, Nat.reduceMod, Nat.reducePow, Nat.reduceDiv, ↓reduceIte,
    BitVec.reduceEq, BitVec.ofNat_eq_ofNat, BitVec.reduceOfNat]
theorem addw (d : Reg5) (a : Reg5) (b : Reg5) : Statement (.addw d a b) := by
  intro _ hw
  obtain rfl := Option.some.inj hw
  have hm : fld (0x0#4 ++ 0x0#6 ++ d ++ a ++ b ++ 0x9#7 : IWord) 22 6 = 0x0#6 := by
    simp (disch := decide) only [flds, Nat.reduceSub]
  rw [decode_int hm (by simp (disch := decide) only [flds, Nat.reduceSub]; rfl)]
  simp (disch := decide) only [decodeInt, flds, Nat.reduceSub, Nat.reduceMod, Nat.reducePow, Nat.reduceDiv, ↓reduceIte,
    BitVec.reduceEq, BitVec.ofNat_eq_ofNat, BitVec.reduceOfNat]
theorem subw (d : Reg5) (a : Reg5) (b : Reg5) : Statement (.subw d a b) := by
  intro _ hw
  obtain rfl := Option.some.inj hw
  have hm : fld (0x0#4 ++ 0x0#6 ++ d ++ a ++ b ++ 0xa#7 : IWord) 22 6 = 0x0#6 := by
    simp (disch := decide) only [flds, Nat.reduceSub]
  rw [decode_int hm (by simp (disch := decide) only [flds, Nat.reduceSub]; rfl)]
  simp (disch := decide) only [decodeInt, flds, Nat.reduceSub, Nat.reduceMod, Nat.reducePow, Nat.reduceDiv, ↓reduceIte,
    BitVec.reduceEq, BitVec.ofNat_eq_ofNat, BitVec.reduceOfNat]
theorem min (d : Reg5) (a : Reg5) (b : Reg5) : Statement (.min d a b) := by
  intro _ hw
  obtain rfl := Option.some.inj hw
  have hm : fld (0x0#4 ++ 0x0#6 ++ d ++ a ++ b ++ 0xb#7 : IWord) 22 6 = 0x0#6 := by
    simp (disch := decide) only [flds, Nat.reduceSub]
  rw [decode_int hm (by simp (disch := decide) only [flds, Nat.reduceSub]; rfl)]
  simp (disch := decide) only [decodeInt, flds, Nat.reduceSub, Nat.reduceMod, Nat.reducePow, Nat.reduceDiv, ↓reduceIte,
    BitVec.reduceEq, BitVec.ofNat_eq_ofNat, BitVec.reduceOfNat]
theorem max (d : Reg5) (a : Reg5) (b : Reg5) : Statement (.max d a b) := by
  intro _ hw
  obtain rfl := Option.some.inj hw
  have hm : fld (0x0#4 ++ 0x0#6 ++ d ++ a ++ b ++ 0xc#7 : IWord) 22 6 = 0x0#6 := by
    simp (disch := decide) only [flds, Nat.reduceSub]
  rw [decode_int hm (by simp (disch := decide) only [flds, Nat.reduceSub]; rfl)]
  simp (disch := decide) only [decodeInt, flds, Nat.reduceSub, Nat.reduceMod, Nat.reducePow, Nat.reduceDiv, ↓reduceIte,
    BitVec.reduceEq, BitVec.ofNat_eq_ofNat, BitVec.reduceOfNat]
theorem minu (d : Reg5) (a : Reg5) (b : Reg5) : Statement (.minu d a b) := by
  intro _ hw
  obtain rfl := Option.some.inj hw
  have hm : fld (0x0#4 ++ 0x0#6 ++ d ++ a ++ b ++ 0xd#7 : IWord) 22 6 = 0x0#6 := by
    simp (disch := decide) only [flds, Nat.reduceSub]
  rw [decode_int hm (by simp (disch := decide) only [flds, Nat.reduceSub]; rfl)]
  simp (disch := decide) only [decodeInt, flds, Nat.reduceSub, Nat.reduceMod, Nat.reducePow, Nat.reduceDiv, ↓reduceIte,
    BitVec.reduceEq, BitVec.ofNat_eq_ofNat, BitVec.reduceOfNat]
theorem maxu (d : Reg5) (a : Reg5) (b : Reg5) : Statement (.maxu d a b) := by
  intro _ hw
  obtain rfl := Option.some.inj hw
  have hm : fld (0x0#4 ++ 0x0#6 ++ d ++ a ++ b ++ 0xe#7 : IWord) 22 6 = 0x0#6 := by
    simp (disch := decide) only [flds, Nat.reduceSub]
  rw [decode_int hm (by simp (disch := decide) only [flds, Nat.reduceSub]; rfl)]
  simp (disch := decide) only [decodeInt, flds, Nat.reduceSub, Nat.reduceMod, Nat.reducePow, Nat.reduceDiv, ↓reduceIte,
    BitVec.reduceEq, BitVec.ofNat_eq_ofNat, BitVec.reduceOfNat]
theorem clz (d : Reg5) (a : Reg5) : Statement (.clz d a) := by
  intro _ hw
  obtain rfl := Option.some.inj hw
  have hm : fld (0x0#4 ++ 0x0#6 ++ d ++ a ++ 0xf#12 : IWord) 22 6 = 0x0#6 := by
    simp (disch := decide) only [flds, Nat.reduceSub]
  rw [decode_int hm (by simp (disch := decide) only [flds, Nat.reduceSub]; rfl)]
  simp (disch := decide) only [decodeInt, flds, Nat.reduceSub, Nat.reduceMod, Nat.reducePow, Nat.reduceDiv, ↓reduceIte,
    BitVec.reduceEq, BitVec.ofNat_eq_ofNat, BitVec.reduceOfNat]
theorem ctz (d : Reg5) (a : Reg5) : Statement (.ctz d a) := by
  intro _ hw
  obtain rfl := Option.some.inj hw
  have hm : fld (0x0#4 ++ 0x0#6 ++ d ++ a ++ 0x10#12 : IWord) 22 6 = 0x0#6 := by
    simp (disch := decide) only [flds, Nat.reduceSub]
  rw [decode_int hm (by simp (disch := decide) only [flds, Nat.reduceSub]; rfl)]
  simp (disch := decide) only [decodeInt, flds, Nat.reduceSub, Nat.reduceMod, Nat.reducePow, Nat.reduceDiv, ↓reduceIte,
    BitVec.reduceEq, BitVec.ofNat_eq_ofNat, BitVec.reduceOfNat]
theorem popc (d : Reg5) (a : Reg5) : Statement (.popc d a) := by
  intro _ hw
  obtain rfl := Option.some.inj hw
  have hm : fld (0x0#4 ++ 0x0#6 ++ d ++ a ++ 0x11#12 : IWord) 22 6 = 0x0#6 := by
    simp (disch := decide) only [flds, Nat.reduceSub]
  rw [decode_int hm (by simp (disch := decide) only [flds, Nat.reduceSub]; rfl)]
  simp (disch := decide) only [decodeInt, flds, Nat.reduceSub, Nat.reduceMod, Nat.reducePow, Nat.reduceDiv, ↓reduceIte,
    BitVec.reduceEq, BitVec.ofNat_eq_ofNat, BitVec.reduceOfNat]
theorem addi (d : Reg5) (a : Reg5) (i : BitVec 9) : Statement (.addi d a i) := by
  intro _ hw
  obtain rfl := Option.some.inj hw
  have hm : fld (0x0#4 ++ 0x1#6 ++ d ++ a ++ 0x0#3 ++ i : IWord) 22 6 = 0x1#6 := by
    simp (disch := decide) only [flds, Nat.reduceSub]
  rw [decode_imm hm (by simp (disch := decide) only [flds, Nat.reduceSub]; rfl)]
  simp (disch := decide) only [decodeImm, flds, Nat.reduceSub, Nat.reduceMod, Nat.reducePow, Nat.reduceDiv, ↓reduceIte,
    BitVec.reduceEq, BitVec.ofNat_eq_ofNat, BitVec.reduceOfNat]
theorem andi (d : Reg5) (a : Reg5) (i : BitVec 9) : Statement (.andi d a i) := by
  intro _ hw
  obtain rfl := Option.some.inj hw
  have hm : fld (0x0#4 ++ 0x1#6 ++ d ++ a ++ 0x1#3 ++ i : IWord) 22 6 = 0x1#6 := by
    simp (disch := decide) only [flds, Nat.reduceSub]
  rw [decode_imm hm (by simp (disch := decide) only [flds, Nat.reduceSub]; rfl)]
  simp (disch := decide) only [decodeImm, flds, Nat.reduceSub, Nat.reduceMod, Nat.reducePow, Nat.reduceDiv, ↓reduceIte,
    BitVec.reduceEq, BitVec.ofNat_eq_ofNat, BitVec.reduceOfNat]
theorem ori (d : Reg5) (a : Reg5) (i : BitVec 9) : Statement (.ori d a i) := by
  intro _ hw
  obtain rfl := Option.some.inj hw
  have hm : fld (0x0#4 ++ 0x1#6 ++ d ++ a ++ 0x2#3 ++ i : IWord) 22 6 = 0x1#6 := by
    simp (disch := decide) only [flds, Nat.reduceSub]
  rw [decode_imm hm (by simp (disch := decide) only [flds, Nat.reduceSub]; rfl)]
  simp (disch := decide) only [decodeImm, flds, Nat.reduceSub, Nat.reduceMod, Nat.reducePow, Nat.reduceDiv, ↓reduceIte,
    BitVec.reduceEq, BitVec.ofNat_eq_ofNat, BitVec.reduceOfNat]
theorem xori (d : Reg5) (a : Reg5) (i : BitVec 9) : Statement (.xori d a i) := by
  intro _ hw
  obtain rfl := Option.some.inj hw
  have hm : fld (0x0#4 ++ 0x1#6 ++ d ++ a ++ 0x3#3 ++ i : IWord) 22 6 = 0x1#6 := by
    simp (disch := decide) only [flds, Nat.reduceSub]
  rw [decode_imm hm (by simp (disch := decide) only [flds, Nat.reduceSub]; rfl)]
  simp (disch := decide) only [decodeImm, flds, Nat.reduceSub, Nat.reduceMod, Nat.reducePow, Nat.reduceDiv, ↓reduceIte,
    BitVec.reduceEq, BitVec.ofNat_eq_ofNat, BitVec.reduceOfNat]
theorem slli (d : Reg5) (a : Reg5) (i : BitVec 9) : Statement (.slli d a i) := by
  intro _ hw
  obtain rfl := Option.some.inj hw
  have hm : fld (0x0#4 ++ 0x1#6 ++ d ++ a ++ 0x4#3 ++ i : IWord) 22 6 = 0x1#6 := by
    simp (disch := decide) only [flds, Nat.reduceSub]
  rw [decode_imm hm (by simp (disch := decide) only [flds, Nat.reduceSub]; rfl)]
  simp (disch := decide) only [decodeImm, flds, Nat.reduceSub, Nat.reduceMod, Nat.reducePow, Nat.reduceDiv, ↓reduceIte,
    BitVec.reduceEq, BitVec.ofNat_eq_ofNat, BitVec.reduceOfNat]
theorem srli (d : Reg5) (a : Reg5) (i : BitVec 9) : Statement (.srli d a i) := by
  intro _ hw
  obtain rfl := Option.some.inj hw
  have hm : fld (0x0#4 ++ 0x1#6 ++ d ++ a ++ 0x5#3 ++ i : IWord) 22 6 = 0x1#6 := by
    simp (disch := decide) only [flds, Nat.reduceSub]
  rw [decode_imm hm (by simp (disch := decide) only [flds, Nat.reduceSub]; rfl)]
  simp (disch := decide) only [decodeImm, flds, Nat.reduceSub, Nat.reduceMod, Nat.reducePow, Nat.reduceDiv, ↓reduceIte,
    BitVec.reduceEq, BitVec.ofNat_eq_ofNat, BitVec.reduceOfNat]
theorem srai (d : Reg5) (a : Reg5) (i : BitVec 9) : Statement (.srai d a i) := by
  intro _ hw
  obtain rfl := Option.some.inj hw
  have hm : fld (0x0#4 ++ 0x1#6 ++ d ++ a ++ 0x6#3 ++ i : IWord) 22 6 = 0x1#6 := by
    simp (disch := decide) only [flds, Nat.reduceSub]
  rw [decode_imm hm (by simp (disch := decide) only [flds, Nat.reduceSub]; rfl)]
  simp (disch := decide) only [decodeImm, flds, Nat.reduceSub, Nat.reduceMod, Nat.reducePow, Nat.reduceDiv, ↓reduceIte,
    BitVec.reduceEq, BitVec.ofNat_eq_ofNat, BitVec.reduceOfNat]
theorem addiw (d : Reg5) (a : Reg5) (i : BitVec 9) : Statement (.addiw d a i) := by
  intro _ hw
  obtain rfl := Option.some.inj hw
  have hm : fld (0x0#4 ++ 0x1#6 ++ d ++ a ++ 0x7#3 ++ i : IWord) 22 6 = 0x1#6 := by
    simp (disch := decide) only [flds, Nat.reduceSub]
  rw [decode_imm hm (by simp (disch := decide) only [flds, Nat.reduceSub]; rfl)]
  simp (disch := decide) only [decodeImm, flds, Nat.reduceSub, Nat.reduceMod, Nat.reducePow, Nat.reduceDiv, ↓reduceIte,
    BitVec.reduceEq, BitVec.ofNat_eq_ofNat, BitVec.reduceOfNat]
theorem mul (d : Reg5) (a : Reg5) (b : Reg5) : Statement (.mul d a b) := by
  intro _ hw
  obtain rfl := Option.some.inj hw
  have hm : fld (0x0#4 ++ 0x2#6 ++ d ++ a ++ b ++ 0x0#7 : IWord) 22 6 = 0x2#6 := by
    simp (disch := decide) only [flds, Nat.reduceSub]
  rw [decode_mul hm (by simp (disch := decide) only [flds, Nat.reduceSub]; rfl)]
  simp (disch := decide) only [decodeMul, flds, Nat.reduceSub, Nat.reduceMod, Nat.reducePow, Nat.reduceDiv, ↓reduceIte,
    BitVec.reduceEq, BitVec.ofNat_eq_ofNat, BitVec.reduceOfNat]
theorem mulh (d : Reg5) (a : Reg5) (b : Reg5) : Statement (.mulh d a b) := by
  intro _ hw
  obtain rfl := Option.some.inj hw
  have hm : fld (0x0#4 ++ 0x2#6 ++ d ++ a ++ b ++ 0x1#7 : IWord) 22 6 = 0x2#6 := by
    simp (disch := decide) only [flds, Nat.reduceSub]
  rw [decode_mul hm (by simp (disch := decide) only [flds, Nat.reduceSub]; rfl)]
  simp (disch := decide) only [decodeMul, flds, Nat.reduceSub, Nat.reduceMod, Nat.reducePow, Nat.reduceDiv, ↓reduceIte,
    BitVec.reduceEq, BitVec.ofNat_eq_ofNat, BitVec.reduceOfNat]
theorem mulhu (d : Reg5) (a : Reg5) (b : Reg5) : Statement (.mulhu d a b) := by
  intro _ hw
  obtain rfl := Option.some.inj hw
  have hm : fld (0x0#4 ++ 0x2#6 ++ d ++ a ++ b ++ 0x2#7 : IWord) 22 6 = 0x2#6 := by
    simp (disch := decide) only [flds, Nat.reduceSub]
  rw [decode_mul hm (by simp (disch := decide) only [flds, Nat.reduceSub]; rfl)]
  simp (disch := decide) only [decodeMul, flds, Nat.reduceSub, Nat.reduceMod, Nat.reducePow, Nat.reduceDiv, ↓reduceIte,
    BitVec.reduceEq, BitVec.ofNat_eq_ofNat, BitVec.reduceOfNat]
theorem mulhsu (d : Reg5) (a : Reg5) (b : Reg5) : Statement (.mulhsu d a b) := by
  intro _ hw
  obtain rfl := Option.some.inj hw
  have hm : fld (0x0#4 ++ 0x2#6 ++ d ++ a ++ b ++ 0x3#7 : IWord) 22 6 = 0x2#6 := by
    simp (disch := decide) only [flds, Nat.reduceSub]
  rw [decode_mul hm (by simp (disch := decide) only [flds, Nat.reduceSub]; rfl)]
  simp (disch := decide) only [decodeMul, flds, Nat.reduceSub, Nat.reduceMod, Nat.reducePow, Nat.reduceDiv, ↓reduceIte,
    BitVec.reduceEq, BitVec.ofNat_eq_ofNat, BitVec.reduceOfNat]
theorem div (d : Reg5) (a : Reg5) (b : Reg5) : Statement (.div d a b) := by
  intro _ hw
  obtain rfl := Option.some.inj hw
  have hm : fld (0x0#4 ++ 0x2#6 ++ d ++ a ++ b ++ 0x4#7 : IWord) 22 6 = 0x2#6 := by
    simp (disch := decide) only [flds, Nat.reduceSub]
  rw [decode_mul hm (by simp (disch := decide) only [flds, Nat.reduceSub]; rfl)]
  simp (disch := decide) only [decodeMul, flds, Nat.reduceSub, Nat.reduceMod, Nat.reducePow, Nat.reduceDiv, ↓reduceIte,
    BitVec.reduceEq, BitVec.ofNat_eq_ofNat, BitVec.reduceOfNat]
theorem divu (d : Reg5) (a : Reg5) (b : Reg5) : Statement (.divu d a b) := by
  intro _ hw
  obtain rfl := Option.some.inj hw
  have hm : fld (0x0#4 ++ 0x2#6 ++ d ++ a ++ b ++ 0x5#7 : IWord) 22 6 = 0x2#6 := by
    simp (disch := decide) only [flds, Nat.reduceSub]
  rw [decode_mul hm (by simp (disch := decide) only [flds, Nat.reduceSub]; rfl)]
  simp (disch := decide) only [decodeMul, flds, Nat.reduceSub, Nat.reduceMod, Nat.reducePow, Nat.reduceDiv, ↓reduceIte,
    BitVec.reduceEq, BitVec.ofNat_eq_ofNat, BitVec.reduceOfNat]
theorem rem (d : Reg5) (a : Reg5) (b : Reg5) : Statement (.rem d a b) := by
  intro _ hw
  obtain rfl := Option.some.inj hw
  have hm : fld (0x0#4 ++ 0x2#6 ++ d ++ a ++ b ++ 0x6#7 : IWord) 22 6 = 0x2#6 := by
    simp (disch := decide) only [flds, Nat.reduceSub]
  rw [decode_mul hm (by simp (disch := decide) only [flds, Nat.reduceSub]; rfl)]
  simp (disch := decide) only [decodeMul, flds, Nat.reduceSub, Nat.reduceMod, Nat.reducePow, Nat.reduceDiv, ↓reduceIte,
    BitVec.reduceEq, BitVec.ofNat_eq_ofNat, BitVec.reduceOfNat]
theorem remu (d : Reg5) (a : Reg5) (b : Reg5) : Statement (.remu d a b) := by
  intro _ hw
  obtain rfl := Option.some.inj hw
  have hm : fld (0x0#4 ++ 0x2#6 ++ d ++ a ++ b ++ 0x7#7 : IWord) 22 6 = 0x2#6 := by
    simp (disch := decide) only [flds, Nat.reduceSub]
  rw [decode_mul hm (by simp (disch := decide) only [flds, Nat.reduceSub]; rfl)]
  simp (disch := decide) only [decodeMul, flds, Nat.reduceSub, Nat.reduceMod, Nat.reducePow, Nat.reduceDiv, ↓reduceIte,
    BitVec.reduceEq, BitVec.ofNat_eq_ofNat, BitVec.reduceOfNat]
theorem mulw (d : Reg5) (a : Reg5) (b : Reg5) : Statement (.mulw d a b) := by
  intro _ hw
  obtain rfl := Option.some.inj hw
  have hm : fld (0x0#4 ++ 0x2#6 ++ d ++ a ++ b ++ 0x8#7 : IWord) 22 6 = 0x2#6 := by
    simp (disch := decide) only [flds, Nat.reduceSub]
  rw [decode_mul hm (by simp (disch := decide) only [flds, Nat.reduceSub]; rfl)]
  simp (disch := decide) only [decodeMul, flds, Nat.reduceSub, Nat.reduceMod, Nat.reducePow, Nat.reduceDiv, ↓reduceIte,
    BitVec.reduceEq, BitVec.ofNat_eq_ofNat, BitVec.reduceOfNat]
theorem divw (d : Reg5) (a : Reg5) (b : Reg5) : Statement (.divw d a b) := by
  intro _ hw
  obtain rfl := Option.some.inj hw
  have hm : fld (0x0#4 ++ 0x2#6 ++ d ++ a ++ b ++ 0x9#7 : IWord) 22 6 = 0x2#6 := by
    simp (disch := decide) only [flds, Nat.reduceSub]
  rw [decode_mul hm (by simp (disch := decide) only [flds, Nat.reduceSub]; rfl)]
  simp (disch := decide) only [decodeMul, flds, Nat.reduceSub, Nat.reduceMod, Nat.reducePow, Nat.reduceDiv, ↓reduceIte,
    BitVec.reduceEq, BitVec.ofNat_eq_ofNat, BitVec.reduceOfNat]
theorem remw (d : Reg5) (a : Reg5) (b : Reg5) : Statement (.remw d a b) := by
  intro _ hw
  obtain rfl := Option.some.inj hw
  have hm : fld (0x0#4 ++ 0x2#6 ++ d ++ a ++ b ++ 0xa#7 : IWord) 22 6 = 0x2#6 := by
    simp (disch := decide) only [flds, Nat.reduceSub]
  rw [decode_mul hm (by simp (disch := decide) only [flds, Nat.reduceSub]; rfl)]
  simp (disch := decide) only [decodeMul, flds, Nat.reduceSub, Nat.reduceMod, Nat.reducePow, Nat.reduceDiv, ↓reduceIte,
    BitVec.reduceEq, BitVec.ofNat_eq_ofNat, BitVec.reduceOfNat]
theorem cmp (p : Reg3) (a : Reg5) (b : Reg5) (c : Reg4) : Statement (.cmp p a b c) := by
  intro _ hw
  obtain rfl := Option.some.inj hw
  have hm : fld (0x0#4 ++ 0x3#6 ++ p ++ a ++ b ++ c ++ 0x0#5 : IWord) 22 6 = 0x3#6 := by
    simp (disch := decide) only [flds, Nat.reduceSub]
  rw [decode_cmp hm (by simp (disch := decide) only [flds, Nat.reduceSub]; rfl)]
  simp (disch := decide) only [decodeCmp, flds, Nat.reduceSub, Nat.reduceMod, Nat.reducePow, Nat.reduceDiv, ↓reduceIte,
    BitVec.reduceEq, BitVec.ofNat_eq_ofNat, BitVec.reduceOfNat]
theorem cmpi (p : Reg3) (a : Reg5) (i : BitVec 5) (c : Reg4) : Statement (.cmpi p a i c) := by
  intro _ hw
  obtain rfl := Option.some.inj hw
  have hm : fld (0x0#4 ++ 0x3#6 ++ p ++ a ++ i ++ c ++ 0x1#5 : IWord) 22 6 = 0x3#6 := by
    simp (disch := decide) only [flds, Nat.reduceSub]
  rw [decode_cmp hm (by simp (disch := decide) only [flds, Nat.reduceSub]; rfl)]
  simp (disch := decide) only [decodeCmp, flds, Nat.reduceSub, Nat.reduceMod, Nat.reducePow, Nat.reduceDiv, ↓reduceIte,
    BitVec.reduceEq, BitVec.ofNat_eq_ofNat, BitVec.reduceOfNat]
theorem pand (p : Reg3) (a : Reg3) (b : Reg3) : Statement (.pand p a b) := by
  intro _ hw
  obtain rfl := Option.some.inj hw
  have hm : fld (0x0#4 ++ 0x3#6 ++ p ++ 0x0#2 ++ a ++ 0x0#2 ++ b ++ 0x2#9 : IWord) 22 6 = 0x3#6 := by
    simp (disch := decide) only [flds, Nat.reduceSub]
  rw [decode_cmp hm (by simp (disch := decide) only [flds, Nat.reduceSub]; rfl)]
  simp (disch := decide) only [decodeCmp, flds, Nat.reduceSub, Nat.reduceMod, Nat.reducePow, Nat.reduceDiv, ↓reduceIte,
    BitVec.reduceEq, BitVec.ofNat_eq_ofNat, BitVec.reduceOfNat]
theorem por (p : Reg3) (a : Reg3) (b : Reg3) : Statement (.por p a b) := by
  intro _ hw
  obtain rfl := Option.some.inj hw
  have hm : fld (0x0#4 ++ 0x3#6 ++ p ++ 0x0#2 ++ a ++ 0x0#2 ++ b ++ 0x3#9 : IWord) 22 6 = 0x3#6 := by
    simp (disch := decide) only [flds, Nat.reduceSub]
  rw [decode_cmp hm (by simp (disch := decide) only [flds, Nat.reduceSub]; rfl)]
  simp (disch := decide) only [decodeCmp, flds, Nat.reduceSub, Nat.reduceMod, Nat.reducePow, Nat.reduceDiv, ↓reduceIte,
    BitVec.reduceEq, BitVec.ofNat_eq_ofNat, BitVec.reduceOfNat]
theorem pxor (p : Reg3) (a : Reg3) (b : Reg3) : Statement (.pxor p a b) := by
  intro _ hw
  obtain rfl := Option.some.inj hw
  have hm : fld (0x0#4 ++ 0x3#6 ++ p ++ 0x0#2 ++ a ++ 0x0#2 ++ b ++ 0x4#9 : IWord) 22 6 = 0x3#6 := by
    simp (disch := decide) only [flds, Nat.reduceSub]
  rw [decode_cmp hm (by simp (disch := decide) only [flds, Nat.reduceSub]; rfl)]
  simp (disch := decide) only [decodeCmp, flds, Nat.reduceSub, Nat.reduceMod, Nat.reducePow, Nat.reduceDiv, ↓reduceIte,
    BitVec.reduceEq, BitVec.ofNat_eq_ofNat, BitVec.reduceOfNat]
theorem pnot (p : Reg3) (a : Reg3) : Statement (.pnot p a) := by
  intro _ hw
  obtain rfl := Option.some.inj hw
  have hm : fld (0x0#4 ++ 0x3#6 ++ p ++ 0x0#2 ++ a ++ 0x5#14 : IWord) 22 6 = 0x3#6 := by
    simp (disch := decide) only [flds, Nat.reduceSub]
  rw [decode_cmp hm (by simp (disch := decide) only [flds, Nat.reduceSub]; rfl)]
  simp (disch := decide) only [decodeCmp, flds, Nat.reduceSub, Nat.reduceMod, Nat.reducePow, Nat.reduceDiv, ↓reduceIte,
    BitVec.reduceEq, BitVec.ofNat_eq_ofNat, BitVec.reduceOfNat]
theorem br (p : Reg3) (o : BitVec 18) : Statement (.br p o) := by
  intro _ hw
  obtain rfl := Option.some.inj hw
  have hm : fld (0x0#4 ++ 0x4#6 ++ p ++ 0x0#1 ++ o : IWord) 22 6 = 0x4#6 := by
    simp (disch := decide) only [flds, Nat.reduceSub]
  rw [decode_branch hm (by simp (disch := decide) only [flds, Nat.reduceSub]; rfl)]
  simp (disch := decide) only [decodeBranch, flds, Nat.reduceSub, Nat.reduceMod, Nat.reducePow, Nat.reduceDiv, ↓reduceIte,
    BitVec.reduceEq, BitVec.ofNat_eq_ofNat, BitVec.reduceOfNat]
theorem brF (p : Reg3) (o : BitVec 18) : Statement (.brF p o) := by
  intro _ hw
  obtain rfl := Option.some.inj hw
  have hm : fld (0x0#4 ++ 0x4#6 ++ p ++ 0x1#1 ++ o : IWord) 22 6 = 0x4#6 := by
    simp (disch := decide) only [flds, Nat.reduceSub]
  rw [decode_branch hm (by simp (disch := decide) only [flds, Nat.reduceSub]; rfl)]
  simp (disch := decide) only [decodeBranch, flds, Nat.reduceSub, Nat.reduceMod, Nat.reducePow, Nat.reduceDiv, ↓reduceIte,
    BitVec.reduceEq, BitVec.ofNat_eq_ofNat, BitVec.reduceOfNat]
theorem jmp (o : BitVec 18) : Statement (.jmp o) := by
  intro _ hw
  obtain rfl := Option.some.inj hw
  have hm : fld (0x0#4 ++ 0x5#6 ++ 0x0#4 ++ o : IWord) 22 6 = 0x5#6 := by
    simp (disch := decide) only [flds, Nat.reduceSub]
  rw [decode_jump hm (by simp (disch := decide) only [flds, Nat.reduceSub]; rfl)]
  simp (disch := decide) only [decodeJump, flds, Nat.reduceSub, Nat.reduceMod, Nat.reducePow, Nat.reduceDiv, ↓reduceIte,
    BitVec.reduceEq, BitVec.ofNat_eq_ofNat, BitVec.reduceOfNat]
theorem call (o : BitVec 18) : Statement (.call o) := by
  intro _ hw
  obtain rfl := Option.some.inj hw
  have hm : fld (0x0#4 ++ 0x5#6 ++ 0x2#4 ++ o : IWord) 22 6 = 0x5#6 := by
    simp (disch := decide) only [flds, Nat.reduceSub]
  rw [decode_jump hm (by simp (disch := decide) only [flds, Nat.reduceSub]; rfl)]
  simp (disch := decide) only [decodeJump, flds, Nat.reduceSub, Nat.reduceMod, Nat.reducePow, Nat.reduceDiv, ↓reduceIte,
    BitVec.reduceEq, BitVec.ofNat_eq_ofNat, BitVec.reduceOfNat]
theorem jr (a : Reg5) : Statement (.jr a) := by
  intro _ hw
  obtain rfl := Option.some.inj hw
  have hm : fld (0x0#4 ++ 0x5#6 ++ 0x2#3 ++ a ++ 0x0#14 : IWord) 22 6 = 0x5#6 := by
    simp (disch := decide) only [flds, Nat.reduceSub]
  rw [decode_jump hm (by simp (disch := decide) only [flds, Nat.reduceSub]; rfl)]
  simp (disch := decide) only [decodeJump, flds, Nat.reduceSub, Nat.reduceMod, Nat.reducePow, Nat.reduceDiv, ↓reduceIte,
    BitVec.reduceEq, BitVec.ofNat_eq_ofNat, BitVec.reduceOfNat]
theorem callr (a : Reg5) : Statement (.callr a) := by
  intro _ hw
  obtain rfl := Option.some.inj hw
  have hm : fld (0x0#4 ++ 0x5#6 ++ 0x3#3 ++ a ++ 0x0#14 : IWord) 22 6 = 0x5#6 := by
    simp (disch := decide) only [flds, Nat.reduceSub]
  rw [decode_jump hm (by simp (disch := decide) only [flds, Nat.reduceSub]; rfl)]
  simp (disch := decide) only [decodeJump, flds, Nat.reduceSub, Nat.reduceMod, Nat.reducePow, Nat.reduceDiv, ↓reduceIte,
    BitVec.reduceEq, BitVec.ofNat_eq_ofNat, BitVec.reduceOfNat]
theorem loopi (d : Reg5) (i : BitVec 14) : Statement (.loopi d i) := by
  intro _ hw
  obtain rfl := Option.some.inj hw
  have hm : fld (0x0#4 ++ 0x5#6 ++ 0x5#3 ++ d ++ i : IWord) 22 6 = 0x5#6 := by
    simp (disch := decide) only [flds, Nat.reduceSub]
  rw [decode_jump hm (by simp (disch := decide) only [flds, Nat.reduceSub]; rfl)]
  simp (disch := decide) only [decodeJump, flds, Nat.reduceSub, Nat.reduceMod, Nat.reducePow, Nat.reduceDiv, ↓reduceIte,
    BitVec.reduceEq, BitVec.ofNat_eq_ofNat, BitVec.reduceOfNat]
theorem loopb (a : Reg5) (o : BitVec 14) : Statement (.loopb a o) := by
  intro _ hw
  obtain rfl := Option.some.inj hw
  have hm : fld (0x0#4 ++ 0x5#6 ++ 0x6#3 ++ a ++ o : IWord) 22 6 = 0x5#6 := by
    simp (disch := decide) only [flds, Nat.reduceSub]
  rw [decode_jump hm (by simp (disch := decide) only [flds, Nat.reduceSub]; rfl)]
  simp (disch := decide) only [decodeJump, flds, Nat.reduceSub, Nat.reduceMod, Nat.reducePow, Nat.reduceDiv, ↓reduceIte,
    BitVec.reduceEq, BitVec.ofNat_eq_ofNat, BitVec.reduceOfNat]
theorem ldB (d : Reg5) (b : Reg5) (o : BitVec 9) : Statement (.ldB d b o) := by
  intro _ hw
  obtain rfl := Option.some.inj hw
  have hm : fld (0x0#4 ++ 0x6#6 ++ d ++ b ++ 0x0#3 ++ o : IWord) 22 6 = 0x6#6 := by
    simp (disch := decide) only [flds, Nat.reduceSub]
  rw [decode_load hm (by simp (disch := decide) only [flds, Nat.reduceSub]; rfl)]
  simp (disch := decide) only [decodeLoad, flds, Nat.reduceSub, Nat.reduceMod, Nat.reducePow, Nat.reduceDiv, ↓reduceIte,
    BitVec.reduceEq, BitVec.ofNat_eq_ofNat, BitVec.reduceOfNat]
theorem ldH (d : Reg5) (b : Reg5) (o : BitVec 9) : Statement (.ldH d b o) := by
  intro _ hw
  obtain rfl := Option.some.inj hw
  have hm : fld (0x0#4 ++ 0x6#6 ++ d ++ b ++ 0x1#3 ++ o : IWord) 22 6 = 0x6#6 := by
    simp (disch := decide) only [flds, Nat.reduceSub]
  rw [decode_load hm (by simp (disch := decide) only [flds, Nat.reduceSub]; rfl)]
  simp (disch := decide) only [decodeLoad, flds, Nat.reduceSub, Nat.reduceMod, Nat.reducePow, Nat.reduceDiv, ↓reduceIte,
    BitVec.reduceEq, BitVec.ofNat_eq_ofNat, BitVec.reduceOfNat]
theorem ldW (d : Reg5) (b : Reg5) (o : BitVec 9) : Statement (.ldW d b o) := by
  intro _ hw
  obtain rfl := Option.some.inj hw
  have hm : fld (0x0#4 ++ 0x6#6 ++ d ++ b ++ 0x2#3 ++ o : IWord) 22 6 = 0x6#6 := by
    simp (disch := decide) only [flds, Nat.reduceSub]
  rw [decode_load hm (by simp (disch := decide) only [flds, Nat.reduceSub]; rfl)]
  simp (disch := decide) only [decodeLoad, flds, Nat.reduceSub, Nat.reduceMod, Nat.reducePow, Nat.reduceDiv, ↓reduceIte,
    BitVec.reduceEq, BitVec.ofNat_eq_ofNat, BitVec.reduceOfNat]
theorem ldD (d : Reg5) (b : Reg5) (o : BitVec 9) : Statement (.ldD d b o) := by
  intro _ hw
  obtain rfl := Option.some.inj hw
  have hm : fld (0x0#4 ++ 0x6#6 ++ d ++ b ++ 0x3#3 ++ o : IWord) 22 6 = 0x6#6 := by
    simp (disch := decide) only [flds, Nat.reduceSub]
  rw [decode_load hm (by simp (disch := decide) only [flds, Nat.reduceSub]; rfl)]
  simp (disch := decide) only [decodeLoad, flds, Nat.reduceSub, Nat.reduceMod, Nat.reducePow, Nat.reduceDiv, ↓reduceIte,
    BitVec.reduceEq, BitVec.ofNat_eq_ofNat, BitVec.reduceOfNat]
theorem ldBu (d : Reg5) (b : Reg5) (o : BitVec 9) : Statement (.ldBu d b o) := by
  intro _ hw
  obtain rfl := Option.some.inj hw
  have hm : fld (0x0#4 ++ 0x6#6 ++ d ++ b ++ 0x4#3 ++ o : IWord) 22 6 = 0x6#6 := by
    simp (disch := decide) only [flds, Nat.reduceSub]
  rw [decode_load hm (by simp (disch := decide) only [flds, Nat.reduceSub]; rfl)]
  simp (disch := decide) only [decodeLoad, flds, Nat.reduceSub, Nat.reduceMod, Nat.reducePow, Nat.reduceDiv, ↓reduceIte,
    BitVec.reduceEq, BitVec.ofNat_eq_ofNat, BitVec.reduceOfNat]
theorem ldHu (d : Reg5) (b : Reg5) (o : BitVec 9) : Statement (.ldHu d b o) := by
  intro _ hw
  obtain rfl := Option.some.inj hw
  have hm : fld (0x0#4 ++ 0x6#6 ++ d ++ b ++ 0x5#3 ++ o : IWord) 22 6 = 0x6#6 := by
    simp (disch := decide) only [flds, Nat.reduceSub]
  rw [decode_load hm (by simp (disch := decide) only [flds, Nat.reduceSub]; rfl)]
  simp (disch := decide) only [decodeLoad, flds, Nat.reduceSub, Nat.reduceMod, Nat.reducePow, Nat.reduceDiv, ↓reduceIte,
    BitVec.reduceEq, BitVec.ofNat_eq_ofNat, BitVec.reduceOfNat]
theorem ldWu (d : Reg5) (b : Reg5) (o : BitVec 9) : Statement (.ldWu d b o) := by
  intro _ hw
  obtain rfl := Option.some.inj hw
  have hm : fld (0x0#4 ++ 0x6#6 ++ d ++ b ++ 0x6#3 ++ o : IWord) 22 6 = 0x6#6 := by
    simp (disch := decide) only [flds, Nat.reduceSub]
  rw [decode_load hm (by simp (disch := decide) only [flds, Nat.reduceSub]; rfl)]
  simp (disch := decide) only [decodeLoad, flds, Nat.reduceSub, Nat.reduceMod, Nat.reducePow, Nat.reduceDiv, ↓reduceIte,
    BitVec.reduceEq, BitVec.ofNat_eq_ofNat, BitVec.reduceOfNat]
theorem ldaq (d : Reg5) (b : Reg5) (s : BitVec 3) (z : BitVec 2) : Statement (.ldaq d b s z) := by
  intro _ hw
  obtain rfl := Option.some.inj hw
  have hm : fld (0x0#4 ++ 0x6#6 ++ d ++ b ++ 0x7#3 ++ s ++ z ++ 0x0#4 : IWord) 22 6 = 0x6#6 := by
    simp (disch := decide) only [flds, Nat.reduceSub]
  rw [decode_load hm (by simp (disch := decide) only [flds, Nat.reduceSub]; rfl)]
  simp (disch := decide) only [decodeLoad, flds, Nat.reduceSub, Nat.reduceMod, Nat.reducePow, Nat.reduceDiv, ↓reduceIte,
    BitVec.reduceEq, BitVec.ofNat_eq_ofNat, BitVec.reduceOfNat]
theorem stB (d : Reg5) (b : Reg5) (o : BitVec 9) : Statement (.stB d b o) := by
  intro _ hw
  obtain rfl := Option.some.inj hw
  have hm : fld (0x0#4 ++ 0x7#6 ++ d ++ b ++ 0x0#3 ++ o : IWord) 22 6 = 0x7#6 := by
    simp (disch := decide) only [flds, Nat.reduceSub]
  rw [decode_store hm (by simp (disch := decide) only [flds, Nat.reduceSub]; rfl)]
  simp (disch := decide) only [decodeStore, flds, Nat.reduceSub, Nat.reduceMod, Nat.reducePow, Nat.reduceDiv, ↓reduceIte,
    BitVec.reduceEq, BitVec.ofNat_eq_ofNat, BitVec.reduceOfNat]
theorem stH (d : Reg5) (b : Reg5) (o : BitVec 9) : Statement (.stH d b o) := by
  intro _ hw
  obtain rfl := Option.some.inj hw
  have hm : fld (0x0#4 ++ 0x7#6 ++ d ++ b ++ 0x1#3 ++ o : IWord) 22 6 = 0x7#6 := by
    simp (disch := decide) only [flds, Nat.reduceSub]
  rw [decode_store hm (by simp (disch := decide) only [flds, Nat.reduceSub]; rfl)]
  simp (disch := decide) only [decodeStore, flds, Nat.reduceSub, Nat.reduceMod, Nat.reducePow, Nat.reduceDiv, ↓reduceIte,
    BitVec.reduceEq, BitVec.ofNat_eq_ofNat, BitVec.reduceOfNat]
theorem stW (d : Reg5) (b : Reg5) (o : BitVec 9) : Statement (.stW d b o) := by
  intro _ hw
  obtain rfl := Option.some.inj hw
  have hm : fld (0x0#4 ++ 0x7#6 ++ d ++ b ++ 0x2#3 ++ o : IWord) 22 6 = 0x7#6 := by
    simp (disch := decide) only [flds, Nat.reduceSub]
  rw [decode_store hm (by simp (disch := decide) only [flds, Nat.reduceSub]; rfl)]
  simp (disch := decide) only [decodeStore, flds, Nat.reduceSub, Nat.reduceMod, Nat.reducePow, Nat.reduceDiv, ↓reduceIte,
    BitVec.reduceEq, BitVec.ofNat_eq_ofNat, BitVec.reduceOfNat]
theorem stD (d : Reg5) (b : Reg5) (o : BitVec 9) : Statement (.stD d b o) := by
  intro _ hw
  obtain rfl := Option.some.inj hw
  have hm : fld (0x0#4 ++ 0x7#6 ++ d ++ b ++ 0x3#3 ++ o : IWord) 22 6 = 0x7#6 := by
    simp (disch := decide) only [flds, Nat.reduceSub]
  rw [decode_store hm (by simp (disch := decide) only [flds, Nat.reduceSub]; rfl)]
  simp (disch := decide) only [decodeStore, flds, Nat.reduceSub, Nat.reduceMod, Nat.reducePow, Nat.reduceDiv, ↓reduceIte,
    BitVec.reduceEq, BitVec.ofNat_eq_ofNat, BitVec.reduceOfNat]
theorem strl (d : Reg5) (b : Reg5) (s : BitVec 3) (z : BitVec 2) : Statement (.strl d b s z) := by
  intro _ hw
  obtain rfl := Option.some.inj hw
  have hm : fld (0x0#4 ++ 0x7#6 ++ d ++ b ++ 0x7#3 ++ s ++ z ++ 0x0#4 : IWord) 22 6 = 0x7#6 := by
    simp (disch := decide) only [flds, Nat.reduceSub]
  rw [decode_store hm (by simp (disch := decide) only [flds, Nat.reduceSub]; rfl)]
  simp (disch := decide) only [decodeStore, flds, Nat.reduceSub, Nat.reduceMod, Nat.reducePow, Nat.reduceDiv, ↓reduceIte,
    BitVec.reduceEq, BitVec.ofNat_eq_ofNat, BitVec.reduceOfNat]
theorem amoSwap (d : Reg5) (a : Reg5) (z : BitVec 1) (q : BitVec 1) (l : BitVec 1) (s : BitVec 3) : Statement (.amoSwap d a z q l s) := by
  intro _ hw
  obtain rfl := Option.some.inj hw
  have hm : fld (0x0#4 ++ 0x8#6 ++ d ++ a ++ 0x0#5 ++ z ++ q ++ l ++ s ++ 0x0#1 : IWord) 22 6 = 0x8#6 := by
    simp (disch := decide) only [flds, Nat.reduceSub]
  rw [decode_atomic hm (by simp (disch := decide) only [flds, Nat.reduceSub]; rfl)]
  simp (disch := decide) only [decodeAtomic, flds, Nat.reduceSub, Nat.reduceMod, Nat.reducePow, Nat.reduceDiv, ↓reduceIte,
    BitVec.reduceEq, BitVec.ofNat_eq_ofNat, BitVec.reduceOfNat]
theorem amoAdd (d : Reg5) (a : Reg5) (z : BitVec 1) (q : BitVec 1) (l : BitVec 1) (s : BitVec 3) : Statement (.amoAdd d a z q l s) := by
  intro _ hw
  obtain rfl := Option.some.inj hw
  have hm : fld (0x0#4 ++ 0x8#6 ++ d ++ a ++ 0x1#5 ++ z ++ q ++ l ++ s ++ 0x0#1 : IWord) 22 6 = 0x8#6 := by
    simp (disch := decide) only [flds, Nat.reduceSub]
  rw [decode_atomic hm (by simp (disch := decide) only [flds, Nat.reduceSub]; rfl)]
  simp (disch := decide) only [decodeAtomic, flds, Nat.reduceSub, Nat.reduceMod, Nat.reducePow, Nat.reduceDiv, ↓reduceIte,
    BitVec.reduceEq, BitVec.ofNat_eq_ofNat, BitVec.reduceOfNat]
theorem amoAnd (d : Reg5) (a : Reg5) (z : BitVec 1) (q : BitVec 1) (l : BitVec 1) (s : BitVec 3) : Statement (.amoAnd d a z q l s) := by
  intro _ hw
  obtain rfl := Option.some.inj hw
  have hm : fld (0x0#4 ++ 0x8#6 ++ d ++ a ++ 0x2#5 ++ z ++ q ++ l ++ s ++ 0x0#1 : IWord) 22 6 = 0x8#6 := by
    simp (disch := decide) only [flds, Nat.reduceSub]
  rw [decode_atomic hm (by simp (disch := decide) only [flds, Nat.reduceSub]; rfl)]
  simp (disch := decide) only [decodeAtomic, flds, Nat.reduceSub, Nat.reduceMod, Nat.reducePow, Nat.reduceDiv, ↓reduceIte,
    BitVec.reduceEq, BitVec.ofNat_eq_ofNat, BitVec.reduceOfNat]
theorem amoOr (d : Reg5) (a : Reg5) (z : BitVec 1) (q : BitVec 1) (l : BitVec 1) (s : BitVec 3) : Statement (.amoOr d a z q l s) := by
  intro _ hw
  obtain rfl := Option.some.inj hw
  have hm : fld (0x0#4 ++ 0x8#6 ++ d ++ a ++ 0x3#5 ++ z ++ q ++ l ++ s ++ 0x0#1 : IWord) 22 6 = 0x8#6 := by
    simp (disch := decide) only [flds, Nat.reduceSub]
  rw [decode_atomic hm (by simp (disch := decide) only [flds, Nat.reduceSub]; rfl)]
  simp (disch := decide) only [decodeAtomic, flds, Nat.reduceSub, Nat.reduceMod, Nat.reducePow, Nat.reduceDiv, ↓reduceIte,
    BitVec.reduceEq, BitVec.ofNat_eq_ofNat, BitVec.reduceOfNat]
theorem amoXor (d : Reg5) (a : Reg5) (z : BitVec 1) (q : BitVec 1) (l : BitVec 1) (s : BitVec 3) : Statement (.amoXor d a z q l s) := by
  intro _ hw
  obtain rfl := Option.some.inj hw
  have hm : fld (0x0#4 ++ 0x8#6 ++ d ++ a ++ 0x4#5 ++ z ++ q ++ l ++ s ++ 0x0#1 : IWord) 22 6 = 0x8#6 := by
    simp (disch := decide) only [flds, Nat.reduceSub]
  rw [decode_atomic hm (by simp (disch := decide) only [flds, Nat.reduceSub]; rfl)]
  simp (disch := decide) only [decodeAtomic, flds, Nat.reduceSub, Nat.reduceMod, Nat.reducePow, Nat.reduceDiv, ↓reduceIte,
    BitVec.reduceEq, BitVec.ofNat_eq_ofNat, BitVec.reduceOfNat]
theorem amoMax (d : Reg5) (a : Reg5) (z : BitVec 1) (q : BitVec 1) (l : BitVec 1) (s : BitVec 3) : Statement (.amoMax d a z q l s) := by
  intro _ hw
  obtain rfl := Option.some.inj hw
  have hm : fld (0x0#4 ++ 0x8#6 ++ d ++ a ++ 0x5#5 ++ z ++ q ++ l ++ s ++ 0x0#1 : IWord) 22 6 = 0x8#6 := by
    simp (disch := decide) only [flds, Nat.reduceSub]
  rw [decode_atomic hm (by simp (disch := decide) only [flds, Nat.reduceSub]; rfl)]
  simp (disch := decide) only [decodeAtomic, flds, Nat.reduceSub, Nat.reduceMod, Nat.reducePow, Nat.reduceDiv, ↓reduceIte,
    BitVec.reduceEq, BitVec.ofNat_eq_ofNat, BitVec.reduceOfNat]
theorem amoMin (d : Reg5) (a : Reg5) (z : BitVec 1) (q : BitVec 1) (l : BitVec 1) (s : BitVec 3) : Statement (.amoMin d a z q l s) := by
  intro _ hw
  obtain rfl := Option.some.inj hw
  have hm : fld (0x0#4 ++ 0x8#6 ++ d ++ a ++ 0x6#5 ++ z ++ q ++ l ++ s ++ 0x0#1 : IWord) 22 6 = 0x8#6 := by
    simp (disch := decide) only [flds, Nat.reduceSub]
  rw [decode_atomic hm (by simp (disch := decide) only [flds, Nat.reduceSub]; rfl)]
  simp (disch := decide) only [decodeAtomic, flds, Nat.reduceSub, Nat.reduceMod, Nat.reducePow, Nat.reduceDiv, ↓reduceIte,
    BitVec.reduceEq, BitVec.ofNat_eq_ofNat, BitVec.reduceOfNat]
theorem amoMaxu (d : Reg5) (a : Reg5) (z : BitVec 1) (q : BitVec 1) (l : BitVec 1) (s : BitVec 3) : Statement (.amoMaxu d a z q l s) := by
  intro _ hw
  obtain rfl := Option.some.inj hw
  have hm : fld (0x0#4 ++ 0x8#6 ++ d ++ a ++ 0x7#5 ++ z ++ q ++ l ++ s ++ 0x0#1 : IWord) 22 6 = 0x8#6 := by
    simp (disch := decide) only [flds, Nat.reduceSub]
  rw [decode_atomic hm (by simp (disch := decide) only [flds, Nat.reduceSub]; rfl)]
  simp (disch := decide) only [decodeAtomic, flds, Nat.reduceSub, Nat.reduceMod, Nat.reducePow, Nat.reduceDiv, ↓reduceIte,
    BitVec.reduceEq, BitVec.ofNat_eq_ofNat, BitVec.reduceOfNat]
theorem amoMinu (d : Reg5) (a : Reg5) (z : BitVec 1) (q : BitVec 1) (l : BitVec 1) (s : BitVec 3) : Statement (.amoMinu d a z q l s) := by
  intro _ hw
  obtain rfl := Option.some.inj hw
  have hm : fld (0x0#4 ++ 0x8#6 ++ d ++ a ++ 0x8#5 ++ z ++ q ++ l ++ s ++ 0x0#1 : IWord) 22 6 = 0x8#6 := by
    simp (disch := decide) only [flds, Nat.reduceSub]
  rw [decode_atomic hm (by simp (disch := decide) only [flds, Nat.reduceSub]; rfl)]
  simp (disch := decide) only [decodeAtomic, flds, Nat.reduceSub, Nat.reduceMod, Nat.reducePow, Nat.reduceDiv, ↓reduceIte,
    BitVec.reduceEq, BitVec.ofNat_eq_ofNat, BitVec.reduceOfNat]
theorem cas (d : Reg5) (a : Reg5) (b : Reg5) (z : BitVec 1) (q : BitVec 1) (l : BitVec 1) (s : BitVec 3) : Statement (.cas d a b z q l s) := by
  intro _ hw
  obtain rfl := Option.some.inj hw
  have hm : fld (0x0#4 ++ 0x8#6 ++ d ++ a ++ b ++ z ++ q ++ l ++ s ++ 0x1#1 : IWord) 22 6 = 0x8#6 := by
    simp (disch := decide) only [flds, Nat.reduceSub]
  rw [decode_atomic hm (by simp (disch := decide) only [flds, Nat.reduceSub]; rfl)]
  simp (disch := decide) only [decodeAtomic, flds, Nat.reduceSub, Nat.reduceMod, Nat.reducePow, Nat.reduceDiv, ↓reduceIte,
    BitVec.reduceEq, BitVec.ofNat_eq_ofNat, BitVec.reduceOfNat]
theorem fence (d : Reg5) (s : BitVec 3) : Statement (.fence d s) := by
  intro _ hw
  obtain rfl := Option.some.inj hw
  have hm : fld (0x0#4 ++ 0x9#6 ++ d ++ 0x0#7 ++ s ++ 0x0#7 : IWord) 22 6 = 0x9#6 := by
    simp (disch := decide) only [flds, Nat.reduceSub]
  rw [decode_sync hm (by simp (disch := decide) only [flds, Nat.reduceSub]; rfl)]
  simp (disch := decide) only [decodeSync, flds, Nat.reduceSub, Nat.reduceMod, Nat.reducePow, Nat.reduceDiv, ↓reduceIte,
    BitVec.reduceEq, BitVec.ofNat_eq_ofNat, BitVec.reduceOfNat]
theorem qwait (b : Reg5) : Statement (.qwait b) := by
  intro _ hw
  obtain rfl := Option.some.inj hw
  have hm : fld (0x0#4 ++ 0x9#6 ++ 0x0#10 ++ b ++ 0x1#7 : IWord) 22 6 = 0x9#6 := by
    simp (disch := decide) only [flds, Nat.reduceSub]
  rw [decode_sync hm (by simp (disch := decide) only [flds, Nat.reduceSub]; rfl)]
  simp (disch := decide) only [decodeSync, flds, Nat.reduceSub, Nat.reduceMod, Nat.reducePow, Nat.reduceDiv, ↓reduceIte,
    BitVec.reduceEq, BitVec.ofNat_eq_ofNat, BitVec.reduceOfNat]
theorem gbarStep (d : Reg5) : Statement (.gbarStep d) := by
  intro _ hw
  obtain rfl := Option.some.inj hw
  have hm : fld (0x0#4 ++ 0x9#6 ++ d ++ 0x3#17 : IWord) 22 6 = 0x9#6 := by
    simp (disch := decide) only [flds, Nat.reduceSub]
  rw [decode_sync hm (by simp (disch := decide) only [flds, Nat.reduceSub]; rfl)]
  simp (disch := decide) only [decodeSync, flds, Nat.reduceSub, Nat.reduceMod, Nat.reducePow, Nat.reduceDiv, ↓reduceIte,
    BitVec.reduceEq, BitVec.ofNat_eq_ofNat, BitVec.reduceOfNat]
theorem abinit (a : Reg5) : Statement (.abinit a) := by
  intro _ hw
  obtain rfl := Option.some.inj hw
  have hm : fld (0x0#4 ++ 0xa#6 ++ 0x0#5 ++ a ++ 0x0#12 : IWord) 22 6 = 0xa#6 := by
    simp (disch := decide) only [flds, Nat.reduceSub]
  rw [decode_barrier hm (by simp (disch := decide) only [flds, Nat.reduceSub]; rfl)]
  simp (disch := decide) only [decodeBarrier, flds, Nat.reduceSub, Nat.reduceMod, Nat.reducePow, Nat.reduceDiv, ↓reduceIte,
    BitVec.reduceEq, BitVec.ofNat_eq_ofNat, BitVec.reduceOfNat]
theorem abarm (a : Reg5) (b : Reg5) : Statement (.abarm a b) := by
  intro _ hw
  obtain rfl := Option.some.inj hw
  have hm : fld (0x0#4 ++ 0xa#6 ++ 0x0#5 ++ a ++ b ++ 0x1#7 : IWord) 22 6 = 0xa#6 := by
    simp (disch := decide) only [flds, Nat.reduceSub]
  rw [decode_barrier hm (by simp (disch := decide) only [flds, Nat.reduceSub]; rfl)]
  simp (disch := decide) only [decodeBarrier, flds, Nat.reduceSub, Nat.reduceMod, Nat.reducePow, Nat.reduceDiv, ↓reduceIte,
    BitVec.reduceEq, BitVec.ofNat_eq_ofNat, BitVec.reduceOfNat]
theorem abwait (a : Reg5) (p : BitVec 1) : Statement (.abwait a p) := by
  intro _ hw
  obtain rfl := Option.some.inj hw
  have hm : fld (0x0#4 ++ 0xa#6 ++ 0x0#5 ++ a ++ 0x0#4 ++ p ++ 0x2#7 : IWord) 22 6 = 0xa#6 := by
    simp (disch := decide) only [flds, Nat.reduceSub]
  rw [decode_barrier hm (by simp (disch := decide) only [flds, Nat.reduceSub]; rfl)]
  simp (disch := decide) only [decodeBarrier, flds, Nat.reduceSub, Nat.reduceMod, Nat.reducePow, Nat.reduceDiv, ↓reduceIte,
    BitVec.reduceEq, BitVec.ofNat_eq_ofNat, BitVec.reduceOfNat]
theorem slwait (d : Reg5) (a : Reg5) (b : Reg5) : Statement (.slwait d a b) := by
  intro _ hw
  obtain rfl := Option.some.inj hw
  have hm : fld (0x0#4 ++ 0xa#6 ++ d ++ a ++ b ++ 0x3#7 : IWord) 22 6 = 0xa#6 := by
    simp (disch := decide) only [flds, Nat.reduceSub]
  rw [decode_barrier hm (by simp (disch := decide) only [flds, Nat.reduceSub]; rfl)]
  simp (disch := decide) only [decodeBarrier, flds, Nat.reduceSub, Nat.reduceMod, Nat.reducePow, Nat.reduceDiv, ↓reduceIte,
    BitVec.reduceEq, BitVec.ofNat_eq_ofNat, BitVec.reduceOfNat]
theorem slpop (d : Reg5) (a : Reg5) : Statement (.slpop d a) := by
  intro _ hw
  obtain rfl := Option.some.inj hw
  have hm : fld (0x0#4 ++ 0xa#6 ++ d ++ a ++ 0x4#12 : IWord) 22 6 = 0xa#6 := by
    simp (disch := decide) only [flds, Nat.reduceSub]
  rw [decode_barrier hm (by simp (disch := decide) only [flds, Nat.reduceSub]; rfl)]
  simp (disch := decide) only [decodeBarrier, flds, Nat.reduceSub, Nat.reduceMod, Nat.reducePow, Nat.reduceDiv, ↓reduceIte,
    BitVec.reduceEq, BitVec.ofNat_eq_ofNat, BitVec.reduceOfNat]
theorem slfree (a : Reg5) : Statement (.slfree a) := by
  intro _ hw
  obtain rfl := Option.some.inj hw
  have hm : fld (0x0#4 ++ 0xa#6 ++ 0x0#5 ++ a ++ 0x5#12 : IWord) 22 6 = 0xa#6 := by
    simp (disch := decide) only [flds, Nat.reduceSub]
  rw [decode_barrier hm (by simp (disch := decide) only [flds, Nat.reduceSub]; rfl)]
  simp (disch := decide) only [decodeBarrier, flds, Nat.reduceSub, Nat.reduceMod, Nat.reducePow, Nat.reduceDiv, ↓reduceIte,
    BitVec.reduceEq, BitVec.ofNat_eq_ofNat, BitVec.reduceOfNat]
theorem lea1 (d : Reg5) (a : Reg5) (b : Reg5) : Statement (.lea1 d a b) := by
  intro _ hw
  obtain rfl := Option.some.inj hw
  have hm : fld (0x0#4 ++ 0xb#6 ++ d ++ a ++ b ++ 0x0#7 : IWord) 22 6 = 0xb#6 := by
    simp (disch := decide) only [flds, Nat.reduceSub]
  rw [decode_window hm (by simp (disch := decide) only [flds, Nat.reduceSub]; rfl)]
  simp (disch := decide) only [decodeWindow, flds, Nat.reduceSub, Nat.reduceMod, Nat.reducePow, Nat.reduceDiv, ↓reduceIte,
    BitVec.reduceEq, BitVec.ofNat_eq_ofNat, BitVec.reduceOfNat]
theorem lea2 (d : Reg5) (a : Reg5) (b : Reg5) : Statement (.lea2 d a b) := by
  intro _ hw
  obtain rfl := Option.some.inj hw
  have hm : fld (0x0#4 ++ 0xb#6 ++ d ++ a ++ b ++ 0x1#7 : IWord) 22 6 = 0xb#6 := by
    simp (disch := decide) only [flds, Nat.reduceSub]
  rw [decode_window hm (by simp (disch := decide) only [flds, Nat.reduceSub]; rfl)]
  simp (disch := decide) only [decodeWindow, flds, Nat.reduceSub, Nat.reduceMod, Nat.reducePow, Nat.reduceDiv, ↓reduceIte,
    BitVec.reduceEq, BitVec.ofNat_eq_ofNat, BitVec.reduceOfNat]
theorem lea4 (d : Reg5) (a : Reg5) (b : Reg5) : Statement (.lea4 d a b) := by
  intro _ hw
  obtain rfl := Option.some.inj hw
  have hm : fld (0x0#4 ++ 0xb#6 ++ d ++ a ++ b ++ 0x2#7 : IWord) 22 6 = 0xb#6 := by
    simp (disch := decide) only [flds, Nat.reduceSub]
  rw [decode_window hm (by simp (disch := decide) only [flds, Nat.reduceSub]; rfl)]
  simp (disch := decide) only [decodeWindow, flds, Nat.reduceSub, Nat.reduceMod, Nat.reducePow, Nat.reduceDiv, ↓reduceIte,
    BitVec.reduceEq, BitVec.ofNat_eq_ofNat, BitVec.reduceOfNat]
theorem lea8 (d : Reg5) (a : Reg5) (b : Reg5) : Statement (.lea8 d a b) := by
  intro _ hw
  obtain rfl := Option.some.inj hw
  have hm : fld (0x0#4 ++ 0xb#6 ++ d ++ a ++ b ++ 0x3#7 : IWord) 22 6 = 0xb#6 := by
    simp (disch := decide) only [flds, Nat.reduceSub]
  rw [decode_window hm (by simp (disch := decide) only [flds, Nat.reduceSub]; rfl)]
  simp (disch := decide) only [decodeWindow, flds, Nat.reduceSub, Nat.reduceMod, Nat.reducePow, Nat.reduceDiv, ↓reduceIte,
    BitVec.reduceEq, BitVec.ofNat_eq_ofNat, BitVec.reduceOfNat]
theorem ispace (d : Reg5) (a : Reg5) : Statement (.ispace d a) := by
  intro _ hw
  obtain rfl := Option.some.inj hw
  have hm : fld (0x0#4 ++ 0xb#6 ++ d ++ a ++ 0x4#12 : IWord) 22 6 = 0xb#6 := by
    simp (disch := decide) only [flds, Nat.reduceSub]
  rw [decode_window hm (by simp (disch := decide) only [flds, Nat.reduceSub]; rfl)]
  simp (disch := decide) only [decodeWindow, flds, Nat.reduceSub, Nat.reduceMod, Nat.reducePow, Nat.reduceDiv, ↓reduceIte,
    BitVec.reduceEq, BitVec.ofNat_eq_ofNat, BitVec.reduceOfNat]
theorem cvspaceOff (d : Reg5) (a : Reg5) : Statement (.cvspaceOff d a) := by
  intro _ hw
  obtain rfl := Option.some.inj hw
  have hm : fld (0x0#4 ++ 0xb#6 ++ d ++ a ++ 0x5#12 : IWord) 22 6 = 0xb#6 := by
    simp (disch := decide) only [flds, Nat.reduceSub]
  rw [decode_window hm (by simp (disch := decide) only [flds, Nat.reduceSub]; rfl)]
  simp (disch := decide) only [decodeWindow, flds, Nat.reduceSub, Nat.reduceMod, Nat.reducePow, Nat.reduceDiv, ↓reduceIte,
    BitVec.reduceEq, BitVec.ofNat_eq_ofNat, BitVec.reduceOfNat]
theorem cvspacePrv (d : Reg5) (a : Reg5) : Statement (.cvspacePrv d a) := by
  intro _ hw
  obtain rfl := Option.some.inj hw
  have hm : fld (0x0#4 ++ 0xb#6 ++ d ++ a ++ 0x6#12 : IWord) 22 6 = 0xb#6 := by
    simp (disch := decide) only [flds, Nat.reduceSub]
  rw [decode_window hm (by simp (disch := decide) only [flds, Nat.reduceSub]; rfl)]
  simp (disch := decide) only [decodeWindow, flds, Nat.reduceSub, Nat.reduceMod, Nat.reducePow, Nat.reduceDiv, ↓reduceIte,
    BitVec.reduceEq, BitVec.ofNat_eq_ofNat, BitVec.reduceOfNat]
theorem cvspaceScr (d : Reg5) (a : Reg5) : Statement (.cvspaceScr d a) := by
  intro _ hw
  obtain rfl := Option.some.inj hw
  have hm : fld (0x0#4 ++ 0xb#6 ++ d ++ a ++ 0x7#12 : IWord) 22 6 = 0xb#6 := by
    simp (disch := decide) only [flds, Nat.reduceSub]
  rw [decode_window hm (by simp (disch := decide) only [flds, Nat.reduceSub]; rfl)]
  simp (disch := decide) only [decodeWindow, flds, Nat.reduceSub, Nat.reduceMod, Nat.reducePow, Nat.reduceDiv, ↓reduceIte,
    BitVec.reduceEq, BitVec.ofNat_eq_ofNat, BitVec.reduceOfNat]
theorem cvspaceDsh (d : Reg5) (a : Reg5) : Statement (.cvspaceDsh d a) := by
  intro _ hw
  obtain rfl := Option.some.inj hw
  have hm : fld (0x0#4 ++ 0xb#6 ++ d ++ a ++ 0x8#12 : IWord) 22 6 = 0xb#6 := by
    simp (disch := decide) only [flds, Nat.reduceSub]
  rw [decode_window hm (by simp (disch := decide) only [flds, Nat.reduceSub]; rfl)]
  simp (disch := decide) only [decodeWindow, flds, Nat.reduceSub, Nat.reduceMod, Nat.reducePow, Nat.reduceDiv, ↓reduceIte,
    BitVec.reduceEq, BitVec.ofNat_eq_ofNat, BitVec.reduceOfNat]
theorem wbase (d : Reg5) (w : BitVec 2) : Statement (.wbase d w) := by
  intro _ hw
  obtain rfl := Option.some.inj hw
  have hm : fld (0x0#4 ++ 0xb#6 ++ d ++ 0x0#8 ++ w ++ 0x9#7 : IWord) 22 6 = 0xb#6 := by
    simp (disch := decide) only [flds, Nat.reduceSub]
  rw [decode_window hm (by simp (disch := decide) only [flds, Nat.reduceSub]; rfl)]
  simp (disch := decide) only [decodeWindow, flds, Nat.reduceSub, Nat.reduceMod, Nat.reducePow, Nat.reduceDiv, ↓reduceIte,
    BitVec.reduceEq, BitVec.ofNat_eq_ofNat, BitVec.reduceOfNat]
theorem rdcsr (d : Reg5) (i : BitVec 9) : Statement (.rdcsr d i) := by
  intro _ hw
  obtain rfl := Option.some.inj hw
  have hm : fld (0x0#4 ++ 0xc#6 ++ d ++ 0x0#8 ++ i : IWord) 22 6 = 0xc#6 := by
    simp (disch := decide) only [flds, Nat.reduceSub]
  rw [decode_csr hm (by simp (disch := decide) only [flds, Nat.reduceSub]; rfl)]
  simp (disch := decide) only [decodeCsr, flds, Nat.reduceSub, Nat.reduceMod, Nat.reducePow, Nat.reduceDiv, ↓reduceIte,
    BitVec.reduceEq, BitVec.ofNat_eq_ofNat, BitVec.reduceOfNat]
theorem wrcsr (a : Reg5) (i : BitVec 9) : Statement (.wrcsr a i) := by
  intro _ hw
  obtain rfl := Option.some.inj hw
  have hm : fld (0x0#4 ++ 0xc#6 ++ 0x0#5 ++ a ++ 0x1#3 ++ i : IWord) 22 6 = 0xc#6 := by
    simp (disch := decide) only [flds, Nat.reduceSub]
  rw [decode_csr hm (by simp (disch := decide) only [flds, Nat.reduceSub]; rfl)]
  simp (disch := decide) only [decodeCsr, flds, Nat.reduceSub, Nat.reduceMod, Nat.reducePow, Nat.reduceDiv, ↓reduceIte,
    BitVec.reduceEq, BitVec.ofNat_eq_ofNat, BitVec.reduceOfNat]
theorem rdts (d : Reg5) : Statement (.rdts d) := by
  intro _ hw
  obtain rfl := Option.some.inj hw
  have hm : fld (0x0#4 ++ 0xc#6 ++ d ++ 0x400#17 : IWord) 22 6 = 0xc#6 := by
    simp (disch := decide) only [flds, Nat.reduceSub]
  rw [decode_csr hm (by simp (disch := decide) only [flds, Nat.reduceSub]; rfl)]
  simp (disch := decide) only [decodeCsr, flds, Nat.reduceSub, Nat.reduceMod, Nat.reducePow, Nat.reduceDiv, ↓reduceIte,
    BitVec.reduceEq, BitVec.ofNat_eq_ofNat, BitVec.reduceOfNat]
theorem trap (n : BitVec 8) : Statement (.trap n) := by
  intro _ hw
  obtain rfl := Option.some.inj hw
  have hm : fld (0x0#4 ++ 0xc#6 ++ 0x6#14 ++ n : IWord) 22 6 = 0xc#6 := by
    simp (disch := decide) only [flds, Nat.reduceSub]
  rw [decode_csr hm (by simp (disch := decide) only [flds, Nat.reduceSub]; rfl)]
  simp (disch := decide) only [decodeCsr, flds, Nat.reduceSub, Nat.reduceMod, Nat.reducePow, Nat.reduceDiv, ↓reduceIte,
    BitVec.reduceEq, BitVec.ofNat_eq_ofNat, BitVec.reduceOfNat]
theorem shape (h : Reg4) (a : Reg5) (b : Reg5) : Statement (.shape h a b) := by
  intro _ hw
  obtain rfl := Option.some.inj hw
  have hm : fld (0x0#4 ++ 0xd#6 ++ 0x0#1 ++ h ++ a ++ b ++ 0x0#7 : IWord) 22 6 = 0xd#6 := by
    simp (disch := decide) only [flds, Nat.reduceSub]
  rw [decode_shape hm (by simp (disch := decide) only [flds, Nat.reduceSub]; rfl)]
  simp (disch := decide) only [decodeShape, flds, Nat.reduceSub, Nat.reduceMod, Nat.reducePow, Nat.reduceDiv, ↓reduceIte,
    BitVec.reduceEq, BitVec.ofNat_eq_ofNat, BitVec.reduceOfNat]
theorem shrdLo (d : Reg5) (h : Reg4) : Statement (.shrdLo d h) := by
  intro _ hw
  obtain rfl := Option.some.inj hw
  have hm : fld (0x0#4 ++ 0xd#6 ++ d ++ 0x0#1 ++ h ++ 0x1#12 : IWord) 22 6 = 0xd#6 := by
    simp (disch := decide) only [flds, Nat.reduceSub]
  rw [decode_shape hm (by simp (disch := decide) only [flds, Nat.reduceSub]; rfl)]
  simp (disch := decide) only [decodeShape, flds, Nat.reduceSub, Nat.reduceMod, Nat.reducePow, Nat.reduceDiv, ↓reduceIte,
    BitVec.reduceEq, BitVec.ofNat_eq_ofNat, BitVec.reduceOfNat]
theorem shrdHi (d : Reg5) (h : Reg4) : Statement (.shrdHi d h) := by
  intro _ hw
  obtain rfl := Option.some.inj hw
  have hm : fld (0x0#4 ++ 0xd#6 ++ d ++ 0x0#1 ++ h ++ 0x2#12 : IWord) 22 6 = 0xd#6 := by
    simp (disch := decide) only [flds, Nat.reduceSub]
  rw [decode_shape hm (by simp (disch := decide) only [flds, Nat.reduceSub]; rfl)]
  simp (disch := decide) only [decodeShape, flds, Nat.reduceSub, Nat.reduceMod, Nat.reducePow, Nat.reduceDiv, ↓reduceIte,
    BitVec.reduceEq, BitVec.ofNat_eq_ofNat, BitVec.reduceOfNat]
theorem gbind (a : Reg5) (b : Reg5) : Statement (.gbind a b) := by
  intro _ hw
  obtain rfl := Option.some.inj hw
  have hm : fld (0x0#4 ++ 0xe#6 ++ a ++ b ++ 0x0#12 : IWord) 22 6 = 0xe#6 := by
    simp (disch := decide) only [flds, Nat.reduceSub]
  rw [decode_madder hm (by simp (disch := decide) only [flds, Nat.reduceSub]; rfl)]
  simp (disch := decide) only [decodeMadder, flds, Nat.reduceSub, Nat.reduceMod, Nat.reducePow, Nat.reduceDiv, ↓reduceIte,
    BitVec.reduceEq, BitVec.ofNat_eq_ofNat, BitVec.reduceOfNat]
theorem gadv (a : Reg5) (b : Reg5) : Statement (.gadv a b) := by
  intro _ hw
  obtain rfl := Option.some.inj hw
  have hm : fld (0x0#4 ++ 0xe#6 ++ a ++ b ++ 0x1#12 : IWord) 22 6 = 0xe#6 := by
    simp (disch := decide) only [flds, Nat.reduceSub]
  rw [decode_madder hm (by simp (disch := decide) only [flds, Nat.reduceSub]; rfl)]
  simp (disch := decide) only [decodeMadder, flds, Nat.reduceSub, Nat.reduceMod, Nat.reducePow, Nat.reduceDiv, ↓reduceIte,
    BitVec.reduceEq, BitVec.ofNat_eq_ofNat, BitVec.reduceOfNat]
theorem gmask (a : Reg5) (b : Reg5) (c : Reg5) : Statement (.gmask a b c) := by
  intro _ hw
  obtain rfl := Option.some.inj hw
  have hm : fld (0x0#4 ++ 0xe#6 ++ a ++ b ++ c ++ 0x2#7 : IWord) 22 6 = 0xe#6 := by
    simp (disch := decide) only [flds, Nat.reduceSub]
  rw [decode_madder hm (by simp (disch := decide) only [flds, Nat.reduceSub]; rfl)]
  simp (disch := decide) only [decodeMadder, flds, Nat.reduceSub, Nat.reduceMod, Nat.reducePow, Nat.reduceDiv, ↓reduceIte,
    BitVec.reduceEq, BitVec.ofNat_eq_ofNat, BitVec.reduceOfNat]
theorem gsnap (a : Reg5) (b : Reg5) : Statement (.gsnap a b) := by
  intro _ hw
  obtain rfl := Option.some.inj hw
  have hm : fld (0x0#4 ++ 0xe#6 ++ a ++ b ++ 0x3#12 : IWord) 22 6 = 0xe#6 := by
    simp (disch := decide) only [flds, Nat.reduceSub]
  rw [decode_madder hm (by simp (disch := decide) only [flds, Nat.reduceSub]; rfl)]
  simp (disch := decide) only [decodeMadder, flds, Nat.reduceSub, Nat.reduceMod, Nat.reducePow, Nat.reduceDiv, ↓reduceIte,
    BitVec.reduceEq, BitVec.ofNat_eq_ofNat, BitVec.reduceOfNat]
theorem gfork (a : Reg5) (b : Reg5) (c : Reg5) : Statement (.gfork a b c) := by
  intro _ hw
  obtain rfl := Option.some.inj hw
  have hm : fld (0x0#4 ++ 0xe#6 ++ a ++ b ++ c ++ 0x4#7 : IWord) 22 6 = 0xe#6 := by
    simp (disch := decide) only [flds, Nat.reduceSub]
  rw [decode_madder hm (by simp (disch := decide) only [flds, Nat.reduceSub]; rfl)]
  simp (disch := decide) only [decodeMadder, flds, Nat.reduceSub, Nat.reduceMod, Nat.reducePow, Nat.reduceDiv, ↓reduceIte,
    BitVec.reduceEq, BitVec.ofNat_eq_ofNat, BitVec.reduceOfNat]
theorem groll (a : Reg5) (b : Reg5) : Statement (.groll a b) := by
  intro _ hw
  obtain rfl := Option.some.inj hw
  have hm : fld (0x0#4 ++ 0xe#6 ++ a ++ b ++ 0x5#12 : IWord) 22 6 = 0xe#6 := by
    simp (disch := decide) only [flds, Nat.reduceSub]
  rw [decode_madder hm (by simp (disch := decide) only [flds, Nat.reduceSub]; rfl)]
  simp (disch := decide) only [decodeMadder, flds, Nat.reduceSub, Nat.reduceMod, Nat.reducePow, Nat.reduceDiv, ↓reduceIte,
    BitVec.reduceEq, BitVec.ofNat_eq_ofNat, BitVec.reduceOfNat]
theorem gstat (a : Reg5) (b : Reg5) : Statement (.gstat a b) := by
  intro _ hw
  obtain rfl := Option.some.inj hw
  have hm : fld (0x0#4 ++ 0xe#6 ++ a ++ b ++ 0x6#12 : IWord) 22 6 = 0xe#6 := by
    simp (disch := decide) only [flds, Nat.reduceSub]
  rw [decode_madder hm (by simp (disch := decide) only [flds, Nat.reduceSub]; rfl)]
  simp (disch := decide) only [decodeMadder, flds, Nat.reduceSub, Nat.reduceMod, Nat.reducePow, Nat.reduceDiv, ↓reduceIte,
    BitVec.reduceEq, BitVec.ofNat_eq_ofNat, BitVec.reduceOfNat]
theorem qrd (d : Reg5) (a : Reg5) (b : Reg5) : Statement (.qrd d a b) := by
  intro _ hw
  obtain rfl := Option.some.inj hw
  have hm : fld (0x0#4 ++ 0x3c#6 ++ d ++ a ++ b ++ 0x0#7 : IWord) 22 6 = 0x3c#6 := by
    simp (disch := decide) only [flds, Nat.reduceSub]
  rw [decode_request hm (by simp (disch := decide) only [flds, Nat.reduceSub]; rfl)]
  simp (disch := decide) only [decodeRequest, flds, Nat.reduceSub, Nat.reduceMod, Nat.reducePow, Nat.reduceDiv, ↓reduceIte,
    BitVec.reduceEq, BitVec.ofNat_eq_ofNat, BitVec.reduceOfNat]
theorem qwr (d : Reg5) (a : Reg5) (b : Reg5) : Statement (.qwr d a b) := by
  intro _ hw
  obtain rfl := Option.some.inj hw
  have hm : fld (0x0#4 ++ 0x3c#6 ++ d ++ a ++ b ++ 0x1#7 : IWord) 22 6 = 0x3c#6 := by
    simp (disch := decide) only [flds, Nat.reduceSub]
  rw [decode_request hm (by simp (disch := decide) only [flds, Nat.reduceSub]; rfl)]
  simp (disch := decide) only [decodeRequest, flds, Nat.reduceSub, Nat.reduceMod, Nat.reducePow, Nat.reduceDiv, ↓reduceIte,
    BitVec.reduceEq, BitVec.ofNat_eq_ofNat, BitVec.reduceOfNat]
theorem qslot (d : Reg5) (a : Reg5) : Statement (.qslot d a) := by
  intro _ hw
  obtain rfl := Option.some.inj hw
  have hm : fld (0x0#4 ++ 0x3c#6 ++ d ++ a ++ 0x2#12 : IWord) 22 6 = 0x3c#6 := by
    simp (disch := decide) only [flds, Nat.reduceSub]
  rw [decode_request hm (by simp (disch := decide) only [flds, Nat.reduceSub]; rfl)]
  simp (disch := decide) only [decodeRequest, flds, Nat.reduceSub, Nat.reduceMod, Nat.reducePow, Nat.reduceDiv, ↓reduceIte,
    BitVec.reduceEq, BitVec.ofNat_eq_ofNat, BitVec.reduceOfNat]
theorem qstop (d : Reg5) (a : Reg5) (b : Reg5) : Statement (.qstop d a b) := by
  intro _ hw
  obtain rfl := Option.some.inj hw
  have hm : fld (0x0#4 ++ 0x3c#6 ++ d ++ a ++ b ++ 0x3#7 : IWord) 22 6 = 0x3c#6 := by
    simp (disch := decide) only [flds, Nat.reduceSub]
  rw [decode_request hm (by simp (disch := decide) only [flds, Nat.reduceSub]; rfl)]
  simp (disch := decide) only [decodeRequest, flds, Nat.reduceSub, Nat.reduceMod, Nat.reducePow, Nat.reduceDiv, ↓reduceIte,
    BitVec.reduceEq, BitVec.ofNat_eq_ofNat, BitVec.reduceOfNat]
theorem qret (a : Reg5) (b : Reg5) : Statement (.qret a b) := by
  intro _ hw
  obtain rfl := Option.some.inj hw
  have hm : fld (0x0#4 ++ 0x3c#6 ++ 0x0#5 ++ a ++ b ++ 0x4#7 : IWord) 22 6 = 0x3c#6 := by
    simp (disch := decide) only [flds, Nat.reduceSub]
  rw [decode_request hm (by simp (disch := decide) only [flds, Nat.reduceSub]; rfl)]
  simp (disch := decide) only [decodeRequest, flds, Nat.reduceSub, Nat.reduceMod, Nat.reducePow, Nat.reduceDiv, ↓reduceIte,
    BitVec.reduceEq, BitVec.ofNat_eq_ofNat, BitVec.reduceOfNat]
theorem qfault (a : Reg5) (b : Reg5) : Statement (.qfault a b) := by
  intro _ hw
  obtain rfl := Option.some.inj hw
  have hm : fld (0x0#4 ++ 0x3c#6 ++ 0x0#5 ++ a ++ b ++ 0x5#7 : IWord) 22 6 = 0x3c#6 := by
    simp (disch := decide) only [flds, Nat.reduceSub]
  rw [decode_request hm (by simp (disch := decide) only [flds, Nat.reduceSub]; rfl)]
  simp (disch := decide) only [decodeRequest, flds, Nat.reduceSub, Nat.reduceMod, Nat.reducePow, Nat.reduceDiv, ↓reduceIte,
    BitVec.reduceEq, BitVec.ofNat_eq_ofNat, BitVec.reduceOfNat]
theorem escal (a : Reg5) : Statement (.escal a) := by
  intro _ hw
  obtain rfl := Option.some.inj hw
  have hm : fld (0x0#4 ++ 0x3d#6 ++ 0x0#5 ++ a ++ 0x1#12 : IWord) 22 6 = 0x3d#6 := by
    simp (disch := decide) only [flds, Nat.reduceSub]
  rw [decode_sys hm (by simp (disch := decide) only [flds, Nat.reduceSub]; rfl)]
  simp (disch := decide) only [decodeSys, flds, Nat.reduceSub, Nat.reduceMod, Nat.reducePow, Nat.reduceDiv, ↓reduceIte,
    BitVec.reduceEq, BitVec.ofNat_eq_ofNat, BitVec.reduceOfNat]
theorem tlbinvVa (a : Reg5) (s : BitVec 3) : Statement (.tlbinvVa a s) := by
  intro _ hw
  obtain rfl := Option.some.inj hw
  have hm : fld (0x0#4 ++ 0x3d#6 ++ 0x0#5 ++ a ++ 0x0#2 ++ s ++ 0x2#7 : IWord) 22 6 = 0x3d#6 := by
    simp (disch := decide) only [flds, Nat.reduceSub]
  rw [decode_sys hm (by simp (disch := decide) only [flds, Nat.reduceSub]; rfl)]
  simp (disch := decide) only [decodeSys, flds, Nat.reduceSub, Nat.reduceMod, Nat.reducePow, Nat.reduceDiv, ↓reduceIte,
    BitVec.reduceEq, BitVec.ofNat_eq_ofNat, BitVec.reduceOfNat]
theorem tlbinvTen (s : BitVec 3) : Statement (.tlbinvTen s) := by
  intro _ hw
  obtain rfl := Option.some.inj hw
  have hm : fld (0x0#4 ++ 0x3d#6 ++ 0x0#12 ++ s ++ 0x3#7 : IWord) 22 6 = 0x3d#6 := by
    simp (disch := decide) only [flds, Nat.reduceSub]
  rw [decode_sys hm (by simp (disch := decide) only [flds, Nat.reduceSub]; rfl)]
  simp (disch := decide) only [decodeSys, flds, Nat.reduceSub, Nat.reduceMod, Nat.reducePow, Nat.reduceDiv, ↓reduceIte,
    BitVec.reduceEq, BitVec.ofNat_eq_ofNat, BitVec.reduceOfNat]
theorem qdrop (b : Reg5) : Statement (.qdrop b) := by
  intro _ hw
  obtain rfl := Option.some.inj hw
  have hm : fld (0x0#4 ++ 0x3d#6 ++ 0x0#10 ++ b ++ 0x5#7 : IWord) 22 6 = 0x3d#6 := by
    simp (disch := decide) only [flds, Nat.reduceSub]
  rw [decode_sys hm (by simp (disch := decide) only [flds, Nat.reduceSub]; rfl)]
  simp (disch := decide) only [decodeSys, flds, Nat.reduceSub, Nat.reduceMod, Nat.reducePow, Nat.reduceDiv, ↓reduceIte,
    BitVec.reduceEq, BitVec.ofNat_eq_ofNat, BitVec.reduceOfNat]
theorem tokset (a : Reg5) (f : BitVec 4) : Statement (.tokset a f) := by
  intro _ hw
  obtain rfl := Option.some.inj hw
  have hm : fld (0x0#4 ++ 0x3d#6 ++ 0x0#5 ++ a ++ 0x0#1 ++ f ++ 0x6#7 : IWord) 22 6 = 0x3d#6 := by
    simp (disch := decide) only [flds, Nat.reduceSub]
  rw [decode_sys hm (by simp (disch := decide) only [flds, Nat.reduceSub]; rfl)]
  simp (disch := decide) only [decodeSys, flds, Nat.reduceSub, Nat.reduceMod, Nat.reducePow, Nat.reduceDiv, ↓reduceIte,
    BitVec.reduceEq, BitVec.ofNat_eq_ofNat, BitVec.reduceOfNat]
theorem parkdrop (o : BitVec 1) (i : BitVec 1) : Statement (.parkdrop o i) := by
  intro _ hw
  obtain rfl := Option.some.inj hw
  have hm : fld (0x0#4 ++ 0x3d#6 ++ 0x0#10 ++ o ++ 0x0#3 ++ i ++ 0x7#7 : IWord) 22 6 = 0x3d#6 := by
    simp (disch := decide) only [flds, Nat.reduceSub]
  rw [decode_sys hm (by simp (disch := decide) only [flds, Nat.reduceSub]; rfl)]
  simp (disch := decide) only [decodeSys, flds, Nat.reduceSub, Nat.reduceMod, Nat.reducePow, Nat.reduceDiv, ↓reduceIte,
    BitVec.reduceEq, BitVec.ofNat_eq_ofNat, BitVec.reduceOfNat]
theorem poisclr (d : Reg5) : Statement (.poisclr d) := by
  intro _ hw
  obtain rfl := Option.some.inj hw
  have hm : fld (0x0#4 ++ 0x3d#6 ++ d ++ 0xa#17 : IWord) 22 6 = 0x3d#6 := by
    simp (disch := decide) only [flds, Nat.reduceSub]
  rw [decode_sys hm (by simp (disch := decide) only [flds, Nat.reduceSub]; rfl)]
  simp (disch := decide) only [decodeSys, flds, Nat.reduceSub, Nat.reduceMod, Nat.reducePow, Nat.reduceDiv, ↓reduceIte,
    BitVec.reduceEq, BitVec.ofNat_eq_ofNat, BitVec.reduceOfNat]
theorem limm (i : BitVec 22) : Statement (.limm i) := by
  intro _ hw
  obtain rfl := Option.some.inj hw
  have hm : fld (0x0#4 ++ 0x3f#6 ++ i : IWord) 22 6 = 0x3f#6 := by
    simp (disch := decide) only [flds, Nat.reduceSub]
  rw [decode_limm hm (by simp (disch := decide) only [flds, Nat.reduceSub]; rfl)]
  simp (disch := decide) only [decodeLimm, flds, Nat.reduceSub, Nat.reduceMod, Nat.reducePow, Nat.reduceDiv, ↓reduceIte,
    BitVec.reduceEq, BitVec.ofNat_eq_ofNat, BitVec.reduceOfNat]
theorem cin (e : Dep) (a : Reg5) (b : Reg5) (c : Reg5) (r : BitVec 1) : Statement (.cin e a b c r) := by
  intro _ hw
  obtain rfl := Option.some.inj hw
  have hm : fld (e ++ 0x10#6 ++ a ++ b ++ c ++ 0x0#6 ++ r : IWord) 22 6 = 0x10#6 := by
    simp (disch := decide) only [flds, Nat.reduceSub]
  rw [decode_cin hm]
  simp (disch := decide) only [decodeCin, flds, Nat.reduceSub, Nat.reduceMod, Nat.reducePow, Nat.reduceDiv, ↓reduceIte,
    BitVec.reduceEq, BitVec.ofNat_eq_ofNat, BitVec.reduceOfNat]
theorem cnestL (e : Dep) (a : Reg5) (b : Reg5) (c : Reg5) (l : BitVec 3) : Statement (.cnestL e a b c l) := by
  intro _ hw
  obtain rfl := Option.some.inj hw
  have hm : fld (e ++ 0x11#6 ++ a ++ b ++ c ++ 0x0#4 ++ l : IWord) 22 6 = 0x11#6 := by
    simp (disch := decide) only [flds, Nat.reduceSub]
  rw [decode_cnest hm]
  simp (disch := decide) only [decodeCnest, flds, Nat.reduceSub, Nat.reduceMod, Nat.reducePow, Nat.reduceDiv, ↓reduceIte,
    BitVec.reduceEq, BitVec.ofNat_eq_ofNat, BitVec.reduceOfNat]
theorem cnestGo (e : Dep) (a : Reg5) (b : Reg5) (c : Reg5) (r : BitVec 1) : Statement (.cnestGo e a b c r) := by
  intro _ hw
  obtain rfl := Option.some.inj hw
  have hm : fld (e ++ 0x11#6 ++ a ++ b ++ c ++ 0x4#6 ++ r : IWord) 22 6 = 0x11#6 := by
    simp (disch := decide) only [flds, Nat.reduceSub]
  rw [decode_cnest hm]
  simp (disch := decide) only [decodeCnest, flds, Nat.reduceSub, Nat.reduceMod, Nat.reducePow, Nat.reduceDiv, ↓reduceIte,
    BitVec.reduceEq, BitVec.ofNat_eq_ofNat, BitVec.reduceOfNat]
theorem cgath (e : Dep) (a : Reg5) (b : Reg5) (c : Reg5) (r : BitVec 1) : Statement (.cgath e a b c r) := by
  intro _ hw
  obtain rfl := Option.some.inj hw
  have hm : fld (e ++ 0x12#6 ++ a ++ b ++ c ++ 0x0#6 ++ r : IWord) 22 6 = 0x12#6 := by
    simp (disch := decide) only [flds, Nat.reduceSub]
  rw [decode_cgath hm]
  simp (disch := decide) only [decodeCgath, flds, Nat.reduceSub, Nat.reduceMod, Nat.reducePow, Nat.reduceDiv, ↓reduceIte,
    BitVec.reduceEq, BitVec.ofNat_eq_ofNat, BitVec.reduceOfNat]
theorem cpack (e : Dep) (a : Reg4) (b : Reg5) (c : Reg5) (r : BitVec 1) : Statement (.cpack e a b c r) := by
  intro _ hw
  obtain rfl := Option.some.inj hw
  have hm : fld (e ++ 0x13#6 ++ 0x0#1 ++ a ++ b ++ c ++ 0x0#6 ++ r : IWord) 22 6 = 0x13#6 := by
    simp (disch := decide) only [flds, Nat.reduceSub]
  rw [decode_cpack hm]
  simp (disch := decide) only [decodeCpack, flds, Nat.reduceSub, Nat.reduceMod, Nat.reducePow, Nat.reduceDiv, ↓reduceIte,
    BitVec.reduceEq, BitVec.ofNat_eq_ofNat, BitVec.reduceOfNat]
theorem cunpk (e : Dep) (a : Reg4) (b : Reg5) (c : Reg5) (r : BitVec 1) : Statement (.cunpk e a b c r) := by
  intro _ hw
  obtain rfl := Option.some.inj hw
  have hm : fld (e ++ 0x13#6 ++ 0x0#1 ++ a ++ b ++ c ++ 0x1#6 ++ r : IWord) 22 6 = 0x13#6 := by
    simp (disch := decide) only [flds, Nat.reduceSub]
  rw [decode_cpack hm]
  simp (disch := decide) only [decodeCpack, flds, Nat.reduceSub, Nat.reduceMod, Nat.reducePow, Nat.reduceDiv, ↓reduceIte,
    BitVec.reduceEq, BitVec.ofNat_eq_ofNat, BitVec.reduceOfNat]
theorem cmcast (e : Dep) (a : Reg5) (b : Reg5) (c : Reg5) (r : BitVec 1) : Statement (.cmcast e a b c r) := by
  intro _ hw
  obtain rfl := Option.some.inj hw
  have hm : fld (e ++ 0x14#6 ++ a ++ b ++ c ++ 0x0#6 ++ r : IWord) 22 6 = 0x14#6 := by
    simp (disch := decide) only [flds, Nat.reduceSub]
  rw [decode_cmcast hm]
  simp (disch := decide) only [decodeCmcast, flds, Nat.reduceSub, Nat.reduceMod, Nat.reducePow, Nat.reduceDiv, ↓reduceIte,
    BitVec.reduceEq, BitVec.ofNat_eq_ofNat, BitVec.reduceOfNat]
theorem cfill (e : Dep) (a : Reg5) (b : Reg5) (c : Reg5) (r : BitVec 1) : Statement (.cfill e a b c r) := by
  intro _ hw
  obtain rfl := Option.some.inj hw
  have hm : fld (e ++ 0x15#6 ++ a ++ b ++ c ++ 0x0#6 ++ r : IWord) 22 6 = 0x15#6 := by
    simp (disch := decide) only [flds, Nat.reduceSub]
  rw [decode_cfill hm]
  simp (disch := decide) only [decodeCfill, flds, Nat.reduceSub, Nat.reduceMod, Nat.reducePow, Nat.reduceDiv, ↓reduceIte,
    BitVec.reduceEq, BitVec.ofNat_eq_ofNat, BitVec.reduceOfNat]
theorem cout (e : Dep) (a : Reg5) (b : Reg5) (c : Reg5) (r : BitVec 1) : Statement (.cout e a b c r) := by
  intro _ hw
  obtain rfl := Option.some.inj hw
  have hm : fld (e ++ 0x34#6 ++ a ++ b ++ c ++ 0x0#6 ++ r : IWord) 22 6 = 0x34#6 := by
    simp (disch := decide) only [flds, Nat.reduceSub]
  rw [decode_cout hm]
  simp (disch := decide) only [decodeCout, flds, Nat.reduceSub, Nat.reduceMod, Nat.reducePow, Nat.reduceDiv, ↓reduceIte,
    BitVec.reduceEq, BitVec.ofNat_eq_ofNat, BitVec.reduceOfNat]
theorem credAddf (e : Dep) (a : Reg5) (b : Reg5) (c : Reg5) (r : BitVec 1) : Statement (.credAddf e a b c r) := by
  intro _ hw
  obtain rfl := Option.some.inj hw
  have hm : fld (e ++ 0x35#6 ++ a ++ b ++ c ++ 0x0#6 ++ r : IWord) 22 6 = 0x35#6 := by
    simp (disch := decide) only [flds, Nat.reduceSub]
  rw [decode_cred hm]
  simp (disch := decide) only [decodeCred, flds, Nat.reduceSub, Nat.reduceMod, Nat.reducePow, Nat.reduceDiv, ↓reduceIte,
    BitVec.reduceEq, BitVec.ofNat_eq_ofNat, BitVec.reduceOfNat]
theorem credAddbf (e : Dep) (a : Reg5) (b : Reg5) (c : Reg5) (r : BitVec 1) : Statement (.credAddbf e a b c r) := by
  intro _ hw
  obtain rfl := Option.some.inj hw
  have hm : fld (e ++ 0x35#6 ++ a ++ b ++ c ++ 0x1#6 ++ r : IWord) 22 6 = 0x35#6 := by
    simp (disch := decide) only [flds, Nat.reduceSub]
  rw [decode_cred hm]
  simp (disch := decide) only [decodeCred, flds, Nat.reduceSub, Nat.reduceMod, Nat.reducePow, Nat.reduceDiv, ↓reduceIte,
    BitVec.reduceEq, BitVec.ofNat_eq_ofNat, BitVec.reduceOfNat]
theorem credAddi (e : Dep) (a : Reg5) (b : Reg5) (c : Reg5) (r : BitVec 1) : Statement (.credAddi e a b c r) := by
  intro _ hw
  obtain rfl := Option.some.inj hw
  have hm : fld (e ++ 0x35#6 ++ a ++ b ++ c ++ 0x2#6 ++ r : IWord) 22 6 = 0x35#6 := by
    simp (disch := decide) only [flds, Nat.reduceSub]
  rw [decode_cred hm]
  simp (disch := decide) only [decodeCred, flds, Nat.reduceSub, Nat.reduceMod, Nat.reducePow, Nat.reduceDiv, ↓reduceIte,
    BitVec.reduceEq, BitVec.ofNat_eq_ofNat, BitVec.reduceOfNat]
theorem credMaxf (e : Dep) (a : Reg5) (b : Reg5) (c : Reg5) (r : BitVec 1) : Statement (.credMaxf e a b c r) := by
  intro _ hw
  obtain rfl := Option.some.inj hw
  have hm : fld (e ++ 0x35#6 ++ a ++ b ++ c ++ 0x3#6 ++ r : IWord) 22 6 = 0x35#6 := by
    simp (disch := decide) only [flds, Nat.reduceSub]
  rw [decode_cred hm]
  simp (disch := decide) only [decodeCred, flds, Nat.reduceSub, Nat.reduceMod, Nat.reducePow, Nat.reduceDiv, ↓reduceIte,
    BitVec.reduceEq, BitVec.ofNat_eq_ofNat, BitVec.reduceOfNat]
theorem credMinf (e : Dep) (a : Reg5) (b : Reg5) (c : Reg5) (r : BitVec 1) : Statement (.credMinf e a b c r) := by
  intro _ hw
  obtain rfl := Option.some.inj hw
  have hm : fld (e ++ 0x35#6 ++ a ++ b ++ c ++ 0x4#6 ++ r : IWord) 22 6 = 0x35#6 := by
    simp (disch := decide) only [flds, Nat.reduceSub]
  rw [decode_cred hm]
  simp (disch := decide) only [decodeCred, flds, Nat.reduceSub, Nat.reduceMod, Nat.reducePow, Nat.reduceDiv, ↓reduceIte,
    BitVec.reduceEq, BitVec.ofNat_eq_ofNat, BitVec.reduceOfNat]
theorem cstrm (e : Dep) (a : Reg5) (b : Reg5) (c : Reg5) : Statement (.cstrm e a b c) := by
  intro _ hw
  obtain rfl := Option.some.inj hw
  have hm : fld (e ++ 0x36#6 ++ a ++ b ++ c ++ 0x0#7 : IWord) 22 6 = 0x36#6 := by
    simp (disch := decide) only [flds, Nat.reduceSub]
  rw [decode_cstrm hm]
  simp (disch := decide) only [decodeCstrm, flds, Nat.reduceSub, Nat.reduceMod, Nat.reducePow, Nat.reduceDiv, ↓reduceIte,
    BitVec.reduceEq, BitVec.ofNat_eq_ofNat, BitVec.reduceOfNat]
theorem cnestoL (e : Dep) (a : Reg5) (b : Reg5) (c : Reg5) (l : BitVec 3) : Statement (.cnestoL e a b c l) := by
  intro _ hw
  obtain rfl := Option.some.inj hw
  have hm : fld (e ++ 0x37#6 ++ a ++ b ++ c ++ 0x0#4 ++ l : IWord) 22 6 = 0x37#6 := by
    simp (disch := decide) only [flds, Nat.reduceSub]
  rw [decode_cnesto hm]
  simp (disch := decide) only [decodeCnesto, flds, Nat.reduceSub, Nat.reduceMod, Nat.reducePow, Nat.reduceDiv, ↓reduceIte,
    BitVec.reduceEq, BitVec.ofNat_eq_ofNat, BitVec.reduceOfNat]
theorem cnestoGo (e : Dep) (a : Reg5) (b : Reg5) (c : Reg5) (r : BitVec 1) : Statement (.cnestoGo e a b c r) := by
  intro _ hw
  obtain rfl := Option.some.inj hw
  have hm : fld (e ++ 0x37#6 ++ a ++ b ++ c ++ 0x4#6 ++ r : IWord) 22 6 = 0x37#6 := by
    simp (disch := decide) only [flds, Nat.reduceSub]
  rw [decode_cnesto hm]
  simp (disch := decide) only [decodeCnesto, flds, Nat.reduceSub, Nat.reduceMod, Nat.reducePow, Nat.reduceDiv, ↓reduceIte,
    BitVec.reduceEq, BitVec.ofNat_eq_ofNat, BitVec.reduceOfNat]
theorem mcfg (e : Dep) (a : Reg5) : Statement (.mcfg e a) := by
  intro _ hw
  obtain rfl := Option.some.inj hw
  have hm : fld (e ++ 0x18#6 ++ a ++ 0x0#17 : IWord) 22 6 = 0x18#6 := by
    simp (disch := decide) only [flds, Nat.reduceSub]
  rw [decode_mcfg hm]
  simp (disch := decide) only [decodeMcfg, flds, Nat.reduceSub, Nat.reduceMod, Nat.reducePow, Nat.reduceDiv, ↓reduceIte,
    BitVec.reduceEq, BitVec.ofNat_eq_ofNat, BitVec.reduceOfNat]
theorem mwld (e : Dep) (a : Reg4) (b : Reg5) : Statement (.mwld e a b) := by
  intro _ hw
  obtain rfl := Option.some.inj hw
  have hm : fld (e ++ 0x19#6 ++ 0x0#1 ++ a ++ b ++ 0x0#12 : IWord) 22 6 = 0x19#6 := by
    simp (disch := decide) only [flds, Nat.reduceSub]
  rw [decode_mwld hm]
  simp (disch := decide) only [decodeMwld, flds, Nat.reduceSub, Nat.reduceMod, Nat.reducePow, Nat.reduceDiv, ↓reduceIte,
    BitVec.reduceEq, BitVec.ofNat_eq_ofNat, BitVec.reduceOfNat]
theorem mwswap (e : Dep) : Statement (.mwswap e) := by
  intro _ hw
  obtain rfl := Option.some.inj hw
  have hm : fld (e ++ 0x1a#6 ++ 0x0#22 : IWord) 22 6 = 0x1a#6 := by
    simp (disch := decide) only [flds, Nat.reduceSub]
  rw [decode_mwswap hm]
  simp (disch := decide) only [decodeMwswap, flds, Nat.reduceSub, Nat.reduceMod, Nat.reducePow, Nat.reduceDiv, ↓reduceIte,
    BitVec.reduceEq, BitVec.ofNat_eq_ofNat, BitVec.reduceOfNat]
theorem msclA (e : Dep) (a : Reg5) (b : Reg5) : Statement (.msclA e a b) := by
  intro _ hw
  obtain rfl := Option.some.inj hw
  have hm : fld (e ++ 0x1b#6 ++ a ++ b ++ 0x0#12 : IWord) 22 6 = 0x1b#6 := by
    simp (disch := decide) only [flds, Nat.reduceSub]
  rw [decode_mscl hm]
  simp (disch := decide) only [decodeMscl, flds, Nat.reduceSub, Nat.reduceMod, Nat.reducePow, Nat.reduceDiv, ↓reduceIte,
    BitVec.reduceEq, BitVec.ofNat_eq_ofNat, BitVec.reduceOfNat]
theorem msclW (e : Dep) (a : Reg5) : Statement (.msclW e a) := by
  intro _ hw
  obtain rfl := Option.some.inj hw
  have hm : fld (e ++ 0x1b#6 ++ a ++ 0x1#17 : IWord) 22 6 = 0x1b#6 := by
    simp (disch := decide) only [flds, Nat.reduceSub]
  rw [decode_mscl hm]
  simp (disch := decide) only [decodeMscl, flds, Nat.reduceSub, Nat.reduceMod, Nat.reducePow, Nat.reduceDiv, ↓reduceIte,
    BitVec.reduceEq, BitVec.ofNat_eq_ofNat, BitVec.reduceOfNat]
theorem mma (e : Dep) (a : Reg4) (b : Reg4) (c : Reg5) (m : BitVec 2) : Statement (.mma e a b c m) := by
  intro _ hw
  obtain rfl := Option.some.inj hw
  have hm : fld (e ++ 0x1c#6 ++ 0x0#1 ++ a ++ 0x0#1 ++ b ++ c ++ 0x0#5 ++ m : IWord) 22 6 = 0x1c#6 := by
    simp (disch := decide) only [flds, Nat.reduceSub]
  rw [decode_mma hm]
  simp (disch := decide) only [decodeMma, flds, Nat.reduceSub, Nat.reduceMod, Nat.reducePow, Nat.reduceDiv, ↓reduceIte,
    BitVec.reduceEq, BitVec.ofNat_eq_ofNat, BitVec.reduceOfNat]
theorem mzero (e : Dep) (a : Reg4) : Statement (.mzero e a) := by
  intro _ hw
  obtain rfl := Option.some.inj hw
  have hm : fld (e ++ 0x1d#6 ++ 0x0#1 ++ a ++ 0x0#17 : IWord) 22 6 = 0x1d#6 := by
    simp (disch := decide) only [flds, Nat.reduceSub]
  rw [decode_mzero hm]
  simp (disch := decide) only [decodeMzero, flds, Nat.reduceSub, Nat.reduceMod, Nat.reducePow, Nat.reduceDiv, ↓reduceIte,
    BitVec.reduceEq, BitVec.ofNat_eq_ofNat, BitVec.reduceOfNat]
theorem mdrain (e : Dep) (a : Reg4) (b : Reg4) (c : Reg4) (p : BitVec 1) (s : BitVec 1) (m : BitVec 2) : Statement (.mdrain e a b c p s m) := by
  intro _ hw
  obtain rfl := Option.some.inj hw
  have hm : fld (e ++ 0x1e#6 ++ 0x0#1 ++ a ++ 0x0#1 ++ b ++ 0x0#1 ++ c ++ 0x0#3 ++ p ++ s ++ m : IWord) 22 6 = 0x1e#6 := by
    simp (disch := decide) only [flds, Nat.reduceSub]
  rw [decode_mdrain hm]
  simp (disch := decide) only [decodeMdrain, flds, Nat.reduceSub, Nat.reduceMod, Nat.reducePow, Nat.reduceDiv, ↓reduceIte,
    BitVec.reduceEq, BitVec.ofNat_eq_ofNat, BitVec.reduceOfNat]
theorem scfg (e : Dep) (a : Reg5) : Statement (.scfg e a) := by
  intro _ hw
  obtain rfl := Option.some.inj hw
  have hm : fld (e ++ 0x20#6 ++ a ++ 0x0#17 : IWord) 22 6 = 0x20#6 := by
    simp (disch := decide) only [flds, Nat.reduceSub]
  rw [decode_scfg hm]
  simp (disch := decide) only [decodeScfg, flds, Nat.reduceSub, Nat.reduceMod, Nat.reducePow, Nat.reduceDiv, ↓reduceIte,
    BitVec.reduceEq, BitVec.ofNat_eq_ofNat, BitVec.reduceOfNat]
theorem sdecay (e : Dep) (a : Reg4) (b : Reg4) (c : Reg5) : Statement (.sdecay e a b c) := by
  intro _ hw
  obtain rfl := Option.some.inj hw
  have hm : fld (e ++ 0x21#6 ++ 0x0#1 ++ a ++ 0x0#1 ++ b ++ c ++ 0x0#7 : IWord) 22 6 = 0x21#6 := by
    simp (disch := decide) only [flds, Nat.reduceSub]
  rw [decode_sdecay hm]
  simp (disch := decide) only [decodeSdecay, flds, Nat.reduceSub, Nat.reduceMod, Nat.reducePow, Nat.reduceDiv, ↓reduceIte,
    BitVec.reduceEq, BitVec.ofNat_eq_ofNat, BitVec.reduceOfNat]
theorem schunk (e : Dep) (a : Reg4) (b : Reg4) (c : Reg4) : Statement (.schunk e a b c) := by
  intro _ hw
  obtain rfl := Option.some.inj hw
  have hm : fld (e ++ 0x22#6 ++ 0x0#1 ++ a ++ 0x0#1 ++ b ++ 0x0#1 ++ c ++ 0x0#7 : IWord) 22 6 = 0x22#6 := by
    simp (disch := decide) only [flds, Nat.reduceSub]
  rw [decode_schunk hm]
  simp (disch := decide) only [decodeSchunk, flds, Nat.reduceSub, Nat.reduceMod, Nat.reducePow, Nat.reduceDiv, ↓reduceIte,
    BitVec.reduceEq, BitVec.ofNat_eq_ofNat, BitVec.reduceOfNat]
theorem sstep (e : Dep) (a : Reg4) (b : Reg4) (c : Reg4) : Statement (.sstep e a b c) := by
  intro _ hw
  obtain rfl := Option.some.inj hw
  have hm : fld (e ++ 0x23#6 ++ 0x0#1 ++ a ++ 0x0#1 ++ b ++ 0x0#1 ++ c ++ 0x0#7 : IWord) 22 6 = 0x23#6 := by
    simp (disch := decide) only [flds, Nat.reduceSub]
  rw [decode_sstep hm]
  simp (disch := decide) only [decodeSstep, flds, Nat.reduceSub, Nat.reduceMod, Nat.reducePow, Nat.reduceDiv, ↓reduceIte,
    BitVec.reduceEq, BitVec.ofNat_eq_ofNat, BitVec.reduceOfNat]
theorem sout (e : Dep) (a : Reg4) (b : Reg4) (c : Reg4) : Statement (.sout e a b c) := by
  intro _ hw
  obtain rfl := Option.some.inj hw
  have hm : fld (e ++ 0x24#6 ++ 0x0#1 ++ a ++ 0x0#1 ++ b ++ 0x0#1 ++ c ++ 0x0#7 : IWord) 22 6 = 0x24#6 := by
    simp (disch := decide) only [flds, Nat.reduceSub]
  rw [decode_sout hm]
  simp (disch := decide) only [decodeSout, flds, Nat.reduceSub, Nat.reduceMod, Nat.reducePow, Nat.reduceDiv, ↓reduceIte,
    BitVec.reduceEq, BitVec.ofNat_eq_ofNat, BitVec.reduceOfNat]
theorem ssnap (e : Dep) (a : Reg4) (b : Reg4) (c : Reg5) : Statement (.ssnap e a b c) := by
  intro _ hw
  obtain rfl := Option.some.inj hw
  have hm : fld (e ++ 0x25#6 ++ 0x0#1 ++ a ++ 0x0#1 ++ b ++ c ++ 0x0#7 : IWord) 22 6 = 0x25#6 := by
    simp (disch := decide) only [flds, Nat.reduceSub]
  rw [decode_sver hm]
  simp (disch := decide) only [decodeSver, flds, Nat.reduceSub, Nat.reduceMod, Nat.reducePow, Nat.reduceDiv, ↓reduceIte,
    BitVec.reduceEq, BitVec.ofNat_eq_ofNat, BitVec.reduceOfNat]
theorem sfork (e : Dep) (a : Reg4) (b : Reg4) (c : Reg5) : Statement (.sfork e a b c) := by
  intro _ hw
  obtain rfl := Option.some.inj hw
  have hm : fld (e ++ 0x25#6 ++ 0x0#1 ++ a ++ 0x0#1 ++ b ++ c ++ 0x1#7 : IWord) 22 6 = 0x25#6 := by
    simp (disch := decide) only [flds, Nat.reduceSub]
  rw [decode_sver hm]
  simp (disch := decide) only [decodeSver, flds, Nat.reduceSub, Nat.reduceMod, Nat.reducePow, Nat.reduceDiv, ↓reduceIte,
    BitVec.reduceEq, BitVec.ofNat_eq_ofNat, BitVec.reduceOfNat]
theorem sroll (e : Dep) (a : Reg4) (b : Reg4) (c : Reg5) : Statement (.sroll e a b c) := by
  intro _ hw
  obtain rfl := Option.some.inj hw
  have hm : fld (e ++ 0x25#6 ++ 0x0#1 ++ a ++ 0x0#1 ++ b ++ c ++ 0x2#7 : IWord) 22 6 = 0x25#6 := by
    simp (disch := decide) only [flds, Nat.reduceSub]
  rw [decode_sver hm]
  simp (disch := decide) only [decodeSver, flds, Nat.reduceSub, Nat.reduceMod, Nat.reducePow, Nat.reduceDiv, ↓reduceIte,
    BitVec.reduceEq, BitVec.ofNat_eq_ofNat, BitVec.reduceOfNat]
theorem scommit (e : Dep) (a : Reg4) : Statement (.scommit e a) := by
  intro _ hw
  obtain rfl := Option.some.inj hw
  have hm : fld (e ++ 0x25#6 ++ 0x0#1 ++ a ++ 0x3#17 : IWord) 22 6 = 0x25#6 := by
    simp (disch := decide) only [flds, Nat.reduceSub]
  rw [decode_sver hm]
  simp (disch := decide) only [decodeSver, flds, Nat.reduceSub, Nat.reduceMod, Nat.reducePow, Nat.reduceDiv, ↓reduceIte,
    BitVec.reduceEq, BitVec.ofNat_eq_ofNat, BitVec.reduceOfNat]
theorem spairBf16 (e : Dep) (a : Reg4) (b : Reg4) : Statement (.spairBf16 e a b) := by
  intro _ hw
  obtain rfl := Option.some.inj hw
  have hm : fld (e ++ 0x26#6 ++ 0x0#1 ++ a ++ 0x0#1 ++ b ++ 0x0#12 : IWord) 22 6 = 0x26#6 := by
    simp (disch := decide) only [flds, Nat.reduceSub]
  rw [decode_spair hm]
  simp (disch := decide) only [decodeSpair, flds, Nat.reduceSub, Nat.reduceMod, Nat.reducePow, Nat.reduceDiv, ↓reduceIte,
    BitVec.reduceEq, BitVec.ofNat_eq_ofNat, BitVec.reduceOfNat]
theorem spairFp32 (e : Dep) (a : Reg4) (b : Reg4) : Statement (.spairFp32 e a b) := by
  intro _ hw
  obtain rfl := Option.some.inj hw
  have hm : fld (e ++ 0x26#6 ++ 0x0#1 ++ a ++ 0x0#1 ++ b ++ 0x1#12 : IWord) 22 6 = 0x26#6 := by
    simp (disch := decide) only [flds, Nat.reduceSub]
  rw [decode_spair hm]
  simp (disch := decide) only [decodeSpair, flds, Nat.reduceSub, Nat.reduceMod, Nat.reducePow, Nat.reduceDiv, ↓reduceIte,
    BitVec.reduceEq, BitVec.ofNat_eq_ofNat, BitVec.reduceOfNat]
theorem spairPair (e : Dep) (a : Reg4) (b : Reg4) : Statement (.spairPair e a b) := by
  intro _ hw
  obtain rfl := Option.some.inj hw
  have hm : fld (e ++ 0x26#6 ++ 0x0#1 ++ a ++ 0x0#1 ++ b ++ 0x2#12 : IWord) 22 6 = 0x26#6 := by
    simp (disch := decide) only [flds, Nat.reduceSub]
  rw [decode_spair hm]
  simp (disch := decide) only [decodeSpair, flds, Nat.reduceSub, Nat.reduceMod, Nat.reducePow, Nat.reduceDiv, ↓reduceIte,
    BitVec.reduceEq, BitVec.ofNat_eq_ofNat, BitVec.reduceOfNat]
theorem vld (e : Dep) (d : Reg5) (a : Reg4) (b : Reg5) (m : Reg3) : Statement (.vld e d a b m) := by
  intro _ hw
  obtain rfl := Option.some.inj hw
  have hm : fld (e ++ 0x28#6 ++ d ++ 0x0#1 ++ a ++ b ++ m ++ 0x0#4 : IWord) 22 6 = 0x28#6 := by
    simp (disch := decide) only [flds, Nat.reduceSub]
  rw [decode_vmem hm]
  simp (disch := decide) only [decodeVmem, flds, Nat.reduceSub, Nat.reduceMod, Nat.reducePow, Nat.reduceDiv, ↓reduceIte,
    BitVec.reduceEq, BitVec.ofNat_eq_ofNat, BitVec.reduceOfNat]
theorem vst (e : Dep) (d : Reg5) (a : Reg4) (b : Reg5) (m : Reg3) (s : BitVec 1) (r : BitVec 2) : Statement (.vst e d a b m s r) := by
  intro _ hw
  obtain rfl := Option.some.inj hw
  have hm : fld (e ++ 0x28#6 ++ d ++ 0x0#1 ++ a ++ b ++ m ++ s ++ 0x1#1 ++ r : IWord) 22 6 = 0x28#6 := by
    simp (disch := decide) only [flds, Nat.reduceSub]
  rw [decode_vmem hm]
  have h2 : fld (e ++ 0x28#6 ++ d ++ 0x0#1 ++ a ++ b ++ m ++ s ++ 0x1#1 ++ r : IWord) 2 1 = 1#1 := by
    simp (disch := decide) only [flds, Nat.reduceSub]
  have hv : fld (e ++ 0x28#6 ++ d ++ 0x0#1 ++ a ++ b ++ m ++ s ++ 0x1#1 ++ r : IWord) 0 4 ≠ 0#4 := by
    intro hz
    have h3 := fld_fld (e ++ 0x28#6 ++ d ++ 0x0#1 ++ a ++ b ++ m ++ s ++ 0x1#1 ++ r : IWord) 0 4 2 1 (by decide)
    rw [hz, Nat.zero_add, h2] at h3
    exact absurd h3 (by decide)
  simp (disch := decide) only [decodeVmem, if_neg hv, flds, Nat.reduceSub, Nat.reduceMod, Nat.reducePow, Nat.reduceDiv, ↓reduceIte,
    BitVec.reduceEq, BitVec.ofNat_eq_ofNat, BitVec.reduceOfNat]
theorem vaddF (e : Dep) (d : Reg5) (a : Reg5) (b : Reg5) (m : Reg3) : Statement (.vaddF e d a b m) := by
  intro _ hw
  obtain rfl := Option.some.inj hw
  have hm : fld (e ++ 0x29#6 ++ d ++ a ++ b ++ m ++ 0x0#4 : IWord) 22 6 = 0x29#6 := by
    simp (disch := decide) only [flds, Nat.reduceSub]
  rw [decode_lanef hm]
  simp (disch := decide) only [decodeLaneF, flds, Nat.reduceSub, Nat.reduceMod, Nat.reducePow, Nat.reduceDiv, ↓reduceIte,
    BitVec.reduceEq, BitVec.ofNat_eq_ofNat, BitVec.reduceOfNat]
theorem vsubF (e : Dep) (d : Reg5) (a : Reg5) (b : Reg5) (m : Reg3) : Statement (.vsubF e d a b m) := by
  intro _ hw
  obtain rfl := Option.some.inj hw
  have hm : fld (e ++ 0x29#6 ++ d ++ a ++ b ++ m ++ 0x1#4 : IWord) 22 6 = 0x29#6 := by
    simp (disch := decide) only [flds, Nat.reduceSub]
  rw [decode_lanef hm]
  simp (disch := decide) only [decodeLaneF, flds, Nat.reduceSub, Nat.reduceMod, Nat.reducePow, Nat.reduceDiv, ↓reduceIte,
    BitVec.reduceEq, BitVec.ofNat_eq_ofNat, BitVec.reduceOfNat]
theorem vmulF (e : Dep) (d : Reg5) (a : Reg5) (b : Reg5) (m : Reg3) : Statement (.vmulF e d a b m) := by
  intro _ hw
  obtain rfl := Option.some.inj hw
  have hm : fld (e ++ 0x29#6 ++ d ++ a ++ b ++ m ++ 0x2#4 : IWord) 22 6 = 0x29#6 := by
    simp (disch := decide) only [flds, Nat.reduceSub]
  rw [decode_lanef hm]
  simp (disch := decide) only [decodeLaneF, flds, Nat.reduceSub, Nat.reduceMod, Nat.reducePow, Nat.reduceDiv, ↓reduceIte,
    BitVec.reduceEq, BitVec.ofNat_eq_ofNat, BitVec.reduceOfNat]
theorem vfmaF (e : Dep) (d : Reg5) (a : Reg5) (b : Reg5) (m : Reg3) : Statement (.vfmaF e d a b m) := by
  intro _ hw
  obtain rfl := Option.some.inj hw
  have hm : fld (e ++ 0x29#6 ++ d ++ a ++ b ++ m ++ 0x3#4 : IWord) 22 6 = 0x29#6 := by
    simp (disch := decide) only [flds, Nat.reduceSub]
  rw [decode_lanef hm]
  simp (disch := decide) only [decodeLaneF, flds, Nat.reduceSub, Nat.reduceMod, Nat.reducePow, Nat.reduceDiv, ↓reduceIte,
    BitVec.reduceEq, BitVec.ofNat_eq_ofNat, BitVec.reduceOfNat]
theorem vfnmaF (e : Dep) (d : Reg5) (a : Reg5) (b : Reg5) (m : Reg3) : Statement (.vfnmaF e d a b m) := by
  intro _ hw
  obtain rfl := Option.some.inj hw
  have hm : fld (e ++ 0x29#6 ++ d ++ a ++ b ++ m ++ 0x4#4 : IWord) 22 6 = 0x29#6 := by
    simp (disch := decide) only [flds, Nat.reduceSub]
  rw [decode_lanef hm]
  simp (disch := decide) only [decodeLaneF, flds, Nat.reduceSub, Nat.reduceMod, Nat.reducePow, Nat.reduceDiv, ↓reduceIte,
    BitVec.reduceEq, BitVec.ofNat_eq_ofNat, BitVec.reduceOfNat]
theorem vminF (e : Dep) (d : Reg5) (a : Reg5) (b : Reg5) (m : Reg3) : Statement (.vminF e d a b m) := by
  intro _ hw
  obtain rfl := Option.some.inj hw
  have hm : fld (e ++ 0x29#6 ++ d ++ a ++ b ++ m ++ 0x5#4 : IWord) 22 6 = 0x29#6 := by
    simp (disch := decide) only [flds, Nat.reduceSub]
  rw [decode_lanef hm]
  simp (disch := decide) only [decodeLaneF, flds, Nat.reduceSub, Nat.reduceMod, Nat.reducePow, Nat.reduceDiv, ↓reduceIte,
    BitVec.reduceEq, BitVec.ofNat_eq_ofNat, BitVec.reduceOfNat]
theorem vmaxF (e : Dep) (d : Reg5) (a : Reg5) (b : Reg5) (m : Reg3) : Statement (.vmaxF e d a b m) := by
  intro _ hw
  obtain rfl := Option.some.inj hw
  have hm : fld (e ++ 0x29#6 ++ d ++ a ++ b ++ m ++ 0x6#4 : IWord) 22 6 = 0x29#6 := by
    simp (disch := decide) only [flds, Nat.reduceSub]
  rw [decode_lanef hm]
  simp (disch := decide) only [decodeLaneF, flds, Nat.reduceSub, Nat.reduceMod, Nat.reducePow, Nat.reduceDiv, ↓reduceIte,
    BitVec.reduceEq, BitVec.ofNat_eq_ofNat, BitVec.reduceOfNat]
theorem vabsF (e : Dep) (d : Reg5) (a : Reg5) (m : Reg3) : Statement (.vabsF e d a m) := by
  intro _ hw
  obtain rfl := Option.some.inj hw
  have hm : fld (e ++ 0x29#6 ++ d ++ a ++ 0x0#5 ++ m ++ 0x7#4 : IWord) 22 6 = 0x29#6 := by
    simp (disch := decide) only [flds, Nat.reduceSub]
  rw [decode_lanef hm]
  simp (disch := decide) only [decodeLaneF, flds, Nat.reduceSub, Nat.reduceMod, Nat.reducePow, Nat.reduceDiv, ↓reduceIte,
    BitVec.reduceEq, BitVec.ofNat_eq_ofNat, BitVec.reduceOfNat]
theorem vnegF (e : Dep) (d : Reg5) (a : Reg5) (m : Reg3) : Statement (.vnegF e d a m) := by
  intro _ hw
  obtain rfl := Option.some.inj hw
  have hm : fld (e ++ 0x29#6 ++ d ++ a ++ 0x0#5 ++ m ++ 0x8#4 : IWord) 22 6 = 0x29#6 := by
    simp (disch := decide) only [flds, Nat.reduceSub]
  rw [decode_lanef hm]
  simp (disch := decide) only [decodeLaneF, flds, Nat.reduceSub, Nat.reduceMod, Nat.reducePow, Nat.reduceDiv, ↓reduceIte,
    BitVec.reduceEq, BitVec.ofNat_eq_ofNat, BitVec.reduceOfNat]
theorem vcadd (e : Dep) (d : Reg5) (a : Reg5) (b : Reg5) (m : Reg3) : Statement (.vcadd e d a b m) := by
  intro _ hw
  obtain rfl := Option.some.inj hw
  have hm : fld (e ++ 0x29#6 ++ d ++ a ++ b ++ m ++ 0x9#4 : IWord) 22 6 = 0x29#6 := by
    simp (disch := decide) only [flds, Nat.reduceSub]
  rw [decode_lanef hm]
  simp (disch := decide) only [decodeLaneF, flds, Nat.reduceSub, Nat.reduceMod, Nat.reducePow, Nat.reduceDiv, ↓reduceIte,
    BitVec.reduceEq, BitVec.ofNat_eq_ofNat, BitVec.reduceOfNat]
theorem vcmul (e : Dep) (d : Reg5) (a : Reg5) (b : Reg5) (m : Reg3) : Statement (.vcmul e d a b m) := by
  intro _ hw
  obtain rfl := Option.some.inj hw
  have hm : fld (e ++ 0x29#6 ++ d ++ a ++ b ++ m ++ 0xa#4 : IWord) 22 6 = 0x29#6 := by
    simp (disch := decide) only [flds, Nat.reduceSub]
  rw [decode_lanef hm]
  simp (disch := decide) only [decodeLaneF, flds, Nat.reduceSub, Nat.reduceMod, Nat.reducePow, Nat.reduceDiv, ↓reduceIte,
    BitVec.reduceEq, BitVec.ofNat_eq_ofNat, BitVec.reduceOfNat]
theorem vaddI (e : Dep) (d : Reg5) (a : Reg5) (b : Reg5) (m : Reg3) : Statement (.vaddI e d a b m) := by
  intro _ hw
  obtain rfl := Option.some.inj hw
  have hm : fld (e ++ 0x2a#6 ++ d ++ a ++ b ++ m ++ 0x0#4 : IWord) 22 6 = 0x2a#6 := by
    simp (disch := decide) only [flds, Nat.reduceSub]
  rw [decode_lanei hm]
  simp (disch := decide) only [decodeLaneI, flds, Nat.reduceSub, Nat.reduceMod, Nat.reducePow, Nat.reduceDiv, ↓reduceIte,
    BitVec.reduceEq, BitVec.ofNat_eq_ofNat, BitVec.reduceOfNat]
theorem vsubI (e : Dep) (d : Reg5) (a : Reg5) (b : Reg5) (m : Reg3) : Statement (.vsubI e d a b m) := by
  intro _ hw
  obtain rfl := Option.some.inj hw
  have hm : fld (e ++ 0x2a#6 ++ d ++ a ++ b ++ m ++ 0x1#4 : IWord) 22 6 = 0x2a#6 := by
    simp (disch := decide) only [flds, Nat.reduceSub]
  rw [decode_lanei hm]
  simp (disch := decide) only [decodeLaneI, flds, Nat.reduceSub, Nat.reduceMod, Nat.reducePow, Nat.reduceDiv, ↓reduceIte,
    BitVec.reduceEq, BitVec.ofNat_eq_ofNat, BitVec.reduceOfNat]
theorem vmulI (e : Dep) (d : Reg5) (a : Reg5) (b : Reg5) (m : Reg3) : Statement (.vmulI e d a b m) := by
  intro _ hw
  obtain rfl := Option.some.inj hw
  have hm : fld (e ++ 0x2a#6 ++ d ++ a ++ b ++ m ++ 0x2#4 : IWord) 22 6 = 0x2a#6 := by
    simp (disch := decide) only [flds, Nat.reduceSub]
  rw [decode_lanei hm]
  simp (disch := decide) only [decodeLaneI, flds, Nat.reduceSub, Nat.reduceMod, Nat.reducePow, Nat.reduceDiv, ↓reduceIte,
    BitVec.reduceEq, BitVec.ofNat_eq_ofNat, BitVec.reduceOfNat]
theorem vand (e : Dep) (d : Reg5) (a : Reg5) (b : Reg5) (m : Reg3) : Statement (.vand e d a b m) := by
  intro _ hw
  obtain rfl := Option.some.inj hw
  have hm : fld (e ++ 0x2a#6 ++ d ++ a ++ b ++ m ++ 0x3#4 : IWord) 22 6 = 0x2a#6 := by
    simp (disch := decide) only [flds, Nat.reduceSub]
  rw [decode_lanei hm]
  simp (disch := decide) only [decodeLaneI, flds, Nat.reduceSub, Nat.reduceMod, Nat.reducePow, Nat.reduceDiv, ↓reduceIte,
    BitVec.reduceEq, BitVec.ofNat_eq_ofNat, BitVec.reduceOfNat]
theorem vor (e : Dep) (d : Reg5) (a : Reg5) (b : Reg5) (m : Reg3) : Statement (.vor e d a b m) := by
  intro _ hw
  obtain rfl := Option.some.inj hw
  have hm : fld (e ++ 0x2a#6 ++ d ++ a ++ b ++ m ++ 0x4#4 : IWord) 22 6 = 0x2a#6 := by
    simp (disch := decide) only [flds, Nat.reduceSub]
  rw [decode_lanei hm]
  simp (disch := decide) only [decodeLaneI, flds, Nat.reduceSub, Nat.reduceMod, Nat.reducePow, Nat.reduceDiv, ↓reduceIte,
    BitVec.reduceEq, BitVec.ofNat_eq_ofNat, BitVec.reduceOfNat]
theorem vxor (e : Dep) (d : Reg5) (a : Reg5) (b : Reg5) (m : Reg3) : Statement (.vxor e d a b m) := by
  intro _ hw
  obtain rfl := Option.some.inj hw
  have hm : fld (e ++ 0x2a#6 ++ d ++ a ++ b ++ m ++ 0x5#4 : IWord) 22 6 = 0x2a#6 := by
    simp (disch := decide) only [flds, Nat.reduceSub]
  rw [decode_lanei hm]
  simp (disch := decide) only [decodeLaneI, flds, Nat.reduceSub, Nat.reduceMod, Nat.reducePow, Nat.reduceDiv, ↓reduceIte,
    BitVec.reduceEq, BitVec.ofNat_eq_ofNat, BitVec.reduceOfNat]
theorem vsll (e : Dep) (d : Reg5) (a : Reg5) (b : Reg5) (m : Reg3) : Statement (.vsll e d a b m) := by
  intro _ hw
  obtain rfl := Option.some.inj hw
  have hm : fld (e ++ 0x2a#6 ++ d ++ a ++ b ++ m ++ 0x6#4 : IWord) 22 6 = 0x2a#6 := by
    simp (disch := decide) only [flds, Nat.reduceSub]
  rw [decode_lanei hm]
  simp (disch := decide) only [decodeLaneI, flds, Nat.reduceSub, Nat.reduceMod, Nat.reducePow, Nat.reduceDiv, ↓reduceIte,
    BitVec.reduceEq, BitVec.ofNat_eq_ofNat, BitVec.reduceOfNat]
theorem vsrl (e : Dep) (d : Reg5) (a : Reg5) (b : Reg5) (m : Reg3) : Statement (.vsrl e d a b m) := by
  intro _ hw
  obtain rfl := Option.some.inj hw
  have hm : fld (e ++ 0x2a#6 ++ d ++ a ++ b ++ m ++ 0x7#4 : IWord) 22 6 = 0x2a#6 := by
    simp (disch := decide) only [flds, Nat.reduceSub]
  rw [decode_lanei hm]
  simp (disch := decide) only [decodeLaneI, flds, Nat.reduceSub, Nat.reduceMod, Nat.reducePow, Nat.reduceDiv, ↓reduceIte,
    BitVec.reduceEq, BitVec.ofNat_eq_ofNat, BitVec.reduceOfNat]
theorem vsra (e : Dep) (d : Reg5) (a : Reg5) (b : Reg5) (m : Reg3) : Statement (.vsra e d a b m) := by
  intro _ hw
  obtain rfl := Option.some.inj hw
  have hm : fld (e ++ 0x2a#6 ++ d ++ a ++ b ++ m ++ 0x8#4 : IWord) 22 6 = 0x2a#6 := by
    simp (disch := decide) only [flds, Nat.reduceSub]
  rw [decode_lanei hm]
  simp (disch := decide) only [decodeLaneI, flds, Nat.reduceSub, Nat.reduceMod, Nat.reducePow, Nat.reduceDiv, ↓reduceIte,
    BitVec.reduceEq, BitVec.ofNat_eq_ofNat, BitVec.reduceOfNat]
theorem vminI (e : Dep) (d : Reg5) (a : Reg5) (b : Reg5) (m : Reg3) : Statement (.vminI e d a b m) := by
  intro _ hw
  obtain rfl := Option.some.inj hw
  have hm : fld (e ++ 0x2a#6 ++ d ++ a ++ b ++ m ++ 0x9#4 : IWord) 22 6 = 0x2a#6 := by
    simp (disch := decide) only [flds, Nat.reduceSub]
  rw [decode_lanei hm]
  simp (disch := decide) only [decodeLaneI, flds, Nat.reduceSub, Nat.reduceMod, Nat.reducePow, Nat.reduceDiv, ↓reduceIte,
    BitVec.reduceEq, BitVec.ofNat_eq_ofNat, BitVec.reduceOfNat]
theorem vmaxI (e : Dep) (d : Reg5) (a : Reg5) (b : Reg5) (m : Reg3) : Statement (.vmaxI e d a b m) := by
  intro _ hw
  obtain rfl := Option.some.inj hw
  have hm : fld (e ++ 0x2a#6 ++ d ++ a ++ b ++ m ++ 0xa#4 : IWord) 22 6 = 0x2a#6 := by
    simp (disch := decide) only [flds, Nat.reduceSub]
  rw [decode_lanei hm]
  simp (disch := decide) only [decodeLaneI, flds, Nat.reduceSub, Nat.reduceMod, Nat.reducePow, Nat.reduceDiv, ↓reduceIte,
    BitVec.reduceEq, BitVec.ofNat_eq_ofNat, BitVec.reduceOfNat]
theorem vaddsI (e : Dep) (d : Reg5) (a : Reg5) (b : Reg5) (m : Reg3) : Statement (.vaddsI e d a b m) := by
  intro _ hw
  obtain rfl := Option.some.inj hw
  have hm : fld (e ++ 0x2a#6 ++ d ++ a ++ b ++ m ++ 0xb#4 : IWord) 22 6 = 0x2a#6 := by
    simp (disch := decide) only [flds, Nat.reduceSub]
  rw [decode_lanei hm]
  simp (disch := decide) only [decodeLaneI, flds, Nat.reduceSub, Nat.reduceMod, Nat.reducePow, Nat.reduceDiv, ↓reduceIte,
    BitVec.reduceEq, BitVec.ofNat_eq_ofNat, BitVec.reduceOfNat]
theorem vsubsI (e : Dep) (d : Reg5) (a : Reg5) (b : Reg5) (m : Reg3) : Statement (.vsubsI e d a b m) := by
  intro _ hw
  obtain rfl := Option.some.inj hw
  have hm : fld (e ++ 0x2a#6 ++ d ++ a ++ b ++ m ++ 0xc#4 : IWord) 22 6 = 0x2a#6 := by
    simp (disch := decide) only [flds, Nat.reduceSub]
  rw [decode_lanei hm]
  simp (disch := decide) only [decodeLaneI, flds, Nat.reduceSub, Nat.reduceMod, Nat.reducePow, Nat.reduceDiv, ↓reduceIte,
    BitVec.reduceEq, BitVec.ofNat_eq_ofNat, BitVec.reduceOfNat]
theorem vcmpEqF (e : Dep) (d : Reg3) (a : Reg5) (b : Reg5) (m : Reg3) : Statement (.vcmpEqF e d a b m) := by
  intro _ hw
  obtain rfl := Option.some.inj hw
  have hm : fld (e ++ 0x2b#6 ++ 0x0#2 ++ d ++ a ++ b ++ m ++ 0x0#4 : IWord) 22 6 = 0x2b#6 := by
    simp (disch := decide) only [flds, Nat.reduceSub]
  rw [decode_mask hm]
  simp (disch := decide) only [decodeMask, flds, Nat.reduceSub, Nat.reduceMod, Nat.reducePow, Nat.reduceDiv, ↓reduceIte,
    BitVec.reduceEq, BitVec.ofNat_eq_ofNat, BitVec.reduceOfNat]
theorem vcmpLtF (e : Dep) (d : Reg3) (a : Reg5) (b : Reg5) (m : Reg3) : Statement (.vcmpLtF e d a b m) := by
  intro _ hw
  obtain rfl := Option.some.inj hw
  have hm : fld (e ++ 0x2b#6 ++ 0x0#2 ++ d ++ a ++ b ++ m ++ 0x1#4 : IWord) 22 6 = 0x2b#6 := by
    simp (disch := decide) only [flds, Nat.reduceSub]
  rw [decode_mask hm]
  simp (disch := decide) only [decodeMask, flds, Nat.reduceSub, Nat.reduceMod, Nat.reducePow, Nat.reduceDiv, ↓reduceIte,
    BitVec.reduceEq, BitVec.ofNat_eq_ofNat, BitVec.reduceOfNat]
theorem vcmpLeF (e : Dep) (d : Reg3) (a : Reg5) (b : Reg5) (m : Reg3) : Statement (.vcmpLeF e d a b m) := by
  intro _ hw
  obtain rfl := Option.some.inj hw
  have hm : fld (e ++ 0x2b#6 ++ 0x0#2 ++ d ++ a ++ b ++ m ++ 0x2#4 : IWord) 22 6 = 0x2b#6 := by
    simp (disch := decide) only [flds, Nat.reduceSub]
  rw [decode_mask hm]
  simp (disch := decide) only [decodeMask, flds, Nat.reduceSub, Nat.reduceMod, Nat.reducePow, Nat.reduceDiv, ↓reduceIte,
    BitVec.reduceEq, BitVec.ofNat_eq_ofNat, BitVec.reduceOfNat]
theorem vcmpUnF (e : Dep) (d : Reg3) (a : Reg5) (b : Reg5) (m : Reg3) : Statement (.vcmpUnF e d a b m) := by
  intro _ hw
  obtain rfl := Option.some.inj hw
  have hm : fld (e ++ 0x2b#6 ++ 0x0#2 ++ d ++ a ++ b ++ m ++ 0x3#4 : IWord) 22 6 = 0x2b#6 := by
    simp (disch := decide) only [flds, Nat.reduceSub]
  rw [decode_mask hm]
  simp (disch := decide) only [decodeMask, flds, Nat.reduceSub, Nat.reduceMod, Nat.reducePow, Nat.reduceDiv, ↓reduceIte,
    BitVec.reduceEq, BitVec.ofNat_eq_ofNat, BitVec.reduceOfNat]
theorem vcmpEqI (e : Dep) (d : Reg3) (a : Reg5) (b : Reg5) (m : Reg3) : Statement (.vcmpEqI e d a b m) := by
  intro _ hw
  obtain rfl := Option.some.inj hw
  have hm : fld (e ++ 0x2b#6 ++ 0x0#2 ++ d ++ a ++ b ++ m ++ 0x4#4 : IWord) 22 6 = 0x2b#6 := by
    simp (disch := decide) only [flds, Nat.reduceSub]
  rw [decode_mask hm]
  simp (disch := decide) only [decodeMask, flds, Nat.reduceSub, Nat.reduceMod, Nat.reducePow, Nat.reduceDiv, ↓reduceIte,
    BitVec.reduceEq, BitVec.ofNat_eq_ofNat, BitVec.reduceOfNat]
theorem vcmpLtI (e : Dep) (d : Reg3) (a : Reg5) (b : Reg5) (m : Reg3) : Statement (.vcmpLtI e d a b m) := by
  intro _ hw
  obtain rfl := Option.some.inj hw
  have hm : fld (e ++ 0x2b#6 ++ 0x0#2 ++ d ++ a ++ b ++ m ++ 0x5#4 : IWord) 22 6 = 0x2b#6 := by
    simp (disch := decide) only [flds, Nat.reduceSub]
  rw [decode_mask hm]
  simp (disch := decide) only [decodeMask, flds, Nat.reduceSub, Nat.reduceMod, Nat.reducePow, Nat.reduceDiv, ↓reduceIte,
    BitVec.reduceEq, BitVec.ofNat_eq_ofNat, BitVec.reduceOfNat]
theorem vcmpLtuI (e : Dep) (d : Reg3) (a : Reg5) (b : Reg5) (m : Reg3) : Statement (.vcmpLtuI e d a b m) := by
  intro _ hw
  obtain rfl := Option.some.inj hw
  have hm : fld (e ++ 0x2b#6 ++ 0x0#2 ++ d ++ a ++ b ++ m ++ 0x6#4 : IWord) 22 6 = 0x2b#6 := by
    simp (disch := decide) only [flds, Nat.reduceSub]
  rw [decode_mask hm]
  simp (disch := decide) only [decodeMask, flds, Nat.reduceSub, Nat.reduceMod, Nat.reducePow, Nat.reduceDiv, ↓reduceIte,
    BitVec.reduceEq, BitVec.ofNat_eq_ofNat, BitVec.reduceOfNat]
theorem vsel (e : Dep) (d : Reg5) (a : Reg5) (b : Reg5) (m : Reg3) : Statement (.vsel e d a b m) := by
  intro _ hw
  obtain rfl := Option.some.inj hw
  have hm : fld (e ++ 0x2b#6 ++ d ++ a ++ b ++ m ++ 0x7#4 : IWord) 22 6 = 0x2b#6 := by
    simp (disch := decide) only [flds, Nat.reduceSub]
  rw [decode_mask hm]
  simp (disch := decide) only [decodeMask, flds, Nat.reduceSub, Nat.reduceMod, Nat.reducePow, Nat.reduceDiv, ↓reduceIte,
    BitVec.reduceEq, BitVec.ofNat_eq_ofNat, BitVec.reduceOfNat]
theorem mand (e : Dep) (d : Reg3) (a : Reg3) (b : Reg3) (m : Reg3) : Statement (.mand e d a b m) := by
  intro _ hw
  obtain rfl := Option.some.inj hw
  have hm : fld (e ++ 0x2b#6 ++ 0x0#2 ++ d ++ 0x0#2 ++ a ++ 0x0#2 ++ b ++ m ++ 0x8#4 : IWord) 22 6 = 0x2b#6 := by
    simp (disch := decide) only [flds, Nat.reduceSub]
  rw [decode_mask hm]
  simp (disch := decide) only [decodeMask, flds, Nat.reduceSub, Nat.reduceMod, Nat.reducePow, Nat.reduceDiv, ↓reduceIte,
    BitVec.reduceEq, BitVec.ofNat_eq_ofNat, BitVec.reduceOfNat]
theorem mor (e : Dep) (d : Reg3) (a : Reg3) (b : Reg3) (m : Reg3) : Statement (.mor e d a b m) := by
  intro _ hw
  obtain rfl := Option.some.inj hw
  have hm : fld (e ++ 0x2b#6 ++ 0x0#2 ++ d ++ 0x0#2 ++ a ++ 0x0#2 ++ b ++ m ++ 0x9#4 : IWord) 22 6 = 0x2b#6 := by
    simp (disch := decide) only [flds, Nat.reduceSub]
  rw [decode_mask hm]
  simp (disch := decide) only [decodeMask, flds, Nat.reduceSub, Nat.reduceMod, Nat.reducePow, Nat.reduceDiv, ↓reduceIte,
    BitVec.reduceEq, BitVec.ofNat_eq_ofNat, BitVec.reduceOfNat]
theorem mxor (e : Dep) (d : Reg3) (a : Reg3) (b : Reg3) (m : Reg3) : Statement (.mxor e d a b m) := by
  intro _ hw
  obtain rfl := Option.some.inj hw
  have hm : fld (e ++ 0x2b#6 ++ 0x0#2 ++ d ++ 0x0#2 ++ a ++ 0x0#2 ++ b ++ m ++ 0xa#4 : IWord) 22 6 = 0x2b#6 := by
    simp (disch := decide) only [flds, Nat.reduceSub]
  rw [decode_mask hm]
  simp (disch := decide) only [decodeMask, flds, Nat.reduceSub, Nat.reduceMod, Nat.reducePow, Nat.reduceDiv, ↓reduceIte,
    BitVec.reduceEq, BitVec.ofNat_eq_ofNat, BitVec.reduceOfNat]
theorem mnot (e : Dep) (d : Reg3) (a : Reg3) (m : Reg3) : Statement (.mnot e d a m) := by
  intro _ hw
  obtain rfl := Option.some.inj hw
  have hm : fld (e ++ 0x2b#6 ++ 0x0#2 ++ d ++ 0x0#2 ++ a ++ 0x0#5 ++ m ++ 0xb#4 : IWord) 22 6 = 0x2b#6 := by
    simp (disch := decide) only [flds, Nat.reduceSub]
  rw [decode_mask hm]
  simp (disch := decide) only [decodeMask, flds, Nat.reduceSub, Nat.reduceMod, Nat.reducePow, Nat.reduceDiv, ↓reduceIte,
    BitVec.reduceEq, BitVec.ofNat_eq_ofNat, BitVec.reduceOfNat]
theorem vrotr (e : Dep) (d : Reg5) (a : Reg5) (b : Reg5) (m : Reg3) : Statement (.vrotr e d a b m) := by
  intro _ hw
  obtain rfl := Option.some.inj hw
  have hm : fld (e ++ 0x2c#6 ++ d ++ a ++ b ++ m ++ 0x0#4 : IWord) 22 6 = 0x2c#6 := by
    simp (disch := decide) only [flds, Nat.reduceSub]
  rw [decode_row hm]
  simp (disch := decide) only [decodeRow, flds, Nat.reduceSub, Nat.reduceMod, Nat.reducePow, Nat.reduceDiv, ↓reduceIte,
    BitVec.reduceEq, BitVec.ofNat_eq_ofNat, BitVec.reduceOfNat]
theorem vbcr (e : Dep) (d : Reg5) (a : Reg5) (b : Reg5) (m : Reg3) : Statement (.vbcr e d a b m) := by
  intro _ hw
  obtain rfl := Option.some.inj hw
  have hm : fld (e ++ 0x2c#6 ++ d ++ a ++ b ++ m ++ 0x1#4 : IWord) 22 6 = 0x2c#6 := by
    simp (disch := decide) only [flds, Nat.reduceSub]
  rw [decode_row hm]
  simp (disch := decide) only [decodeRow, flds, Nat.reduceSub, Nat.reduceMod, Nat.reducePow, Nat.reduceDiv, ↓reduceIte,
    BitVec.reduceEq, BitVec.ofNat_eq_ofNat, BitVec.reduceOfNat]
theorem vredrAdd (e : Dep) (d : Reg5) (a : Reg5) (m : Reg3) : Statement (.vredrAdd e d a m) := by
  intro _ hw
  obtain rfl := Option.some.inj hw
  have hm : fld (e ++ 0x2c#6 ++ d ++ a ++ 0x0#5 ++ m ++ 0x2#4 : IWord) 22 6 = 0x2c#6 := by
    simp (disch := decide) only [flds, Nat.reduceSub]
  rw [decode_row hm]
  simp (disch := decide) only [decodeRow, flds, Nat.reduceSub, Nat.reduceMod, Nat.reducePow, Nat.reduceDiv, ↓reduceIte,
    BitVec.reduceEq, BitVec.ofNat_eq_ofNat, BitVec.reduceOfNat]
theorem vredrMax (e : Dep) (d : Reg5) (a : Reg5) (m : Reg3) : Statement (.vredrMax e d a m) := by
  intro _ hw
  obtain rfl := Option.some.inj hw
  have hm : fld (e ++ 0x2c#6 ++ d ++ a ++ 0x0#5 ++ m ++ 0x3#4 : IWord) 22 6 = 0x2c#6 := by
    simp (disch := decide) only [flds, Nat.reduceSub]
  rw [decode_row hm]
  simp (disch := decide) only [decodeRow, flds, Nat.reduceSub, Nat.reduceMod, Nat.reducePow, Nat.reduceDiv, ↓reduceIte,
    BitVec.reduceEq, BitVec.ofNat_eq_ofNat, BitVec.reduceOfNat]
theorem vredrMin (e : Dep) (d : Reg5) (a : Reg5) (m : Reg3) : Statement (.vredrMin e d a m) := by
  intro _ hw
  obtain rfl := Option.some.inj hw
  have hm : fld (e ++ 0x2c#6 ++ d ++ a ++ 0x0#5 ++ m ++ 0x4#4 : IWord) 22 6 = 0x2c#6 := by
    simp (disch := decide) only [flds, Nat.reduceSub]
  rw [decode_row hm]
  simp (disch := decide) only [decodeRow, flds, Nat.reduceSub, Nat.reduceMod, Nat.reducePow, Nat.reduceDiv, ↓reduceIte,
    BitVec.reduceEq, BitVec.ofNat_eq_ofNat, BitVec.reduceOfNat]
theorem vrotc (e : Dep) (d : Reg5) (a : Reg5) (b : Reg5) (m : Reg3) : Statement (.vrotc e d a b m) := by
  intro _ hw
  obtain rfl := Option.some.inj hw
  have hm : fld (e ++ 0x2d#6 ++ d ++ a ++ b ++ m ++ 0x0#4 : IWord) 22 6 = 0x2d#6 := by
    simp (disch := decide) only [flds, Nat.reduceSub]
  rw [decode_col hm]
  simp (disch := decide) only [decodeCol, flds, Nat.reduceSub, Nat.reduceMod, Nat.reducePow, Nat.reduceDiv, ↓reduceIte,
    BitVec.reduceEq, BitVec.ofNat_eq_ofNat, BitVec.reduceOfNat]
theorem vbcc (e : Dep) (d : Reg5) (a : Reg5) (b : Reg5) (m : Reg3) : Statement (.vbcc e d a b m) := by
  intro _ hw
  obtain rfl := Option.some.inj hw
  have hm : fld (e ++ 0x2d#6 ++ d ++ a ++ b ++ m ++ 0x1#4 : IWord) 22 6 = 0x2d#6 := by
    simp (disch := decide) only [flds, Nat.reduceSub]
  rw [decode_col hm]
  simp (disch := decide) only [decodeCol, flds, Nat.reduceSub, Nat.reduceMod, Nat.reducePow, Nat.reduceDiv, ↓reduceIte,
    BitVec.reduceEq, BitVec.ofNat_eq_ofNat, BitVec.reduceOfNat]
theorem vredcAdd (e : Dep) (d : Reg5) (a : Reg5) (m : Reg3) : Statement (.vredcAdd e d a m) := by
  intro _ hw
  obtain rfl := Option.some.inj hw
  have hm : fld (e ++ 0x2d#6 ++ d ++ a ++ 0x0#5 ++ m ++ 0x2#4 : IWord) 22 6 = 0x2d#6 := by
    simp (disch := decide) only [flds, Nat.reduceSub]
  rw [decode_col hm]
  simp (disch := decide) only [decodeCol, flds, Nat.reduceSub, Nat.reduceMod, Nat.reducePow, Nat.reduceDiv, ↓reduceIte,
    BitVec.reduceEq, BitVec.ofNat_eq_ofNat, BitVec.reduceOfNat]
theorem vredcMax (e : Dep) (d : Reg5) (a : Reg5) (m : Reg3) : Statement (.vredcMax e d a m) := by
  intro _ hw
  obtain rfl := Option.some.inj hw
  have hm : fld (e ++ 0x2d#6 ++ d ++ a ++ 0x0#5 ++ m ++ 0x3#4 : IWord) 22 6 = 0x2d#6 := by
    simp (disch := decide) only [flds, Nat.reduceSub]
  rw [decode_col hm]
  simp (disch := decide) only [decodeCol, flds, Nat.reduceSub, Nat.reduceMod, Nat.reducePow, Nat.reduceDiv, ↓reduceIte,
    BitVec.reduceEq, BitVec.ofNat_eq_ofNat, BitVec.reduceOfNat]
theorem vredcMin (e : Dep) (d : Reg5) (a : Reg5) (m : Reg3) : Statement (.vredcMin e d a m) := by
  intro _ hw
  obtain rfl := Option.some.inj hw
  have hm : fld (e ++ 0x2d#6 ++ d ++ a ++ 0x0#5 ++ m ++ 0x4#4 : IWord) 22 6 = 0x2d#6 := by
    simp (disch := decide) only [flds, Nat.reduceSub]
  rw [decode_col hm]
  simp (disch := decide) only [decodeCol, flds, Nat.reduceSub, Nat.reduceMod, Nat.reducePow, Nat.reduceDiv, ↓reduceIte,
    BitVec.reduceEq, BitVec.ofNat_eq_ofNat, BitVec.reduceOfNat]
theorem vxchC (e : Dep) (d : Reg5) (a : Reg5) (b : Reg5) (m : Reg3) : Statement (.vxchC e d a b m) := by
  intro _ hw
  obtain rfl := Option.some.inj hw
  have hm : fld (e ++ 0x2e#6 ++ d ++ a ++ b ++ m ++ 0x0#4 : IWord) 22 6 = 0x2e#6 := by
    simp (disch := decide) only [flds, Nat.reduceSub]
  rw [decode_move hm]
  simp (disch := decide) only [decodeMove, flds, Nat.reduceSub, Nat.reduceMod, Nat.reducePow, Nat.reduceDiv, ↓reduceIte,
    BitVec.reduceEq, BitVec.ofNat_eq_ofNat, BitVec.reduceOfNat]
theorem vxchR (e : Dep) (d : Reg5) (a : Reg5) (b : Reg5) (m : Reg3) : Statement (.vxchR e d a b m) := by
  intro _ hw
  obtain rfl := Option.some.inj hw
  have hm : fld (e ++ 0x2e#6 ++ d ++ a ++ b ++ m ++ 0x1#4 : IWord) 22 6 = 0x2e#6 := by
    simp (disch := decide) only [flds, Nat.reduceSub]
  rw [decode_move hm]
  simp (disch := decide) only [decodeMove, flds, Nat.reduceSub, Nat.reduceMod, Nat.reducePow, Nat.reduceDiv, ↓reduceIte,
    BitVec.reduceEq, BitVec.ofNat_eq_ofNat, BitVec.reduceOfNat]
theorem vslice (e : Dep) (d : Reg5) (a : Reg5) (b : Reg5) (j : BitVec 3) : Statement (.vslice e d a b j) := by
  intro _ hw
  obtain rfl := Option.some.inj hw
  have hm : fld (e ++ 0x2e#6 ++ d ++ a ++ b ++ j ++ 0x2#4 : IWord) 22 6 = 0x2e#6 := by
    simp (disch := decide) only [flds, Nat.reduceSub]
  rw [decode_move hm]
  simp (disch := decide) only [decodeMove, flds, Nat.reduceSub, Nat.reduceMod, Nat.reducePow, Nat.reduceDiv, ↓reduceIte,
    BitVec.reduceEq, BitVec.ofNat_eq_ofNat, BitVec.reduceOfNat]
theorem vins (e : Dep) (d : Reg5) (a : Reg5) (b : Reg5) (j : BitVec 3) : Statement (.vins e d a b j) := by
  intro _ hw
  obtain rfl := Option.some.inj hw
  have hm : fld (e ++ 0x2e#6 ++ d ++ a ++ b ++ j ++ 0x3#4 : IWord) 22 6 = 0x2e#6 := by
    simp (disch := decide) only [flds, Nat.reduceSub]
  rw [decode_move hm]
  simp (disch := decide) only [decodeMove, flds, Nat.reduceSub, Nat.reduceMod, Nat.reducePow, Nat.reduceDiv, ↓reduceIte,
    BitVec.reduceEq, BitVec.ofNat_eq_ofNat, BitVec.reduceOfNat]
theorem vext (e : Dep) (d : Reg5) (a : Reg5) (b : Reg5) (j : BitVec 3) : Statement (.vext e d a b j) := by
  intro _ hw
  obtain rfl := Option.some.inj hw
  have hm : fld (e ++ 0x2e#6 ++ d ++ a ++ b ++ j ++ 0x4#4 : IWord) 22 6 = 0x2e#6 := by
    simp (disch := decide) only [flds, Nat.reduceSub]
  rw [decode_move hm]
  simp (disch := decide) only [decodeMove, flds, Nat.reduceSub, Nat.reduceMod, Nat.reducePow, Nat.reduceDiv, ↓reduceIte,
    BitVec.reduceEq, BitVec.ofNat_eq_ofNat, BitVec.reduceOfNat]
theorem vsfExp2 (e : Dep) (d : Reg5) (a : Reg5) (m : Reg3) : Statement (.vsfExp2 e d a m) := by
  intro _ hw
  obtain rfl := Option.some.inj hw
  have hm : fld (e ++ 0x2f#6 ++ d ++ a ++ 0x0#5 ++ m ++ 0x0#4 : IWord) 22 6 = 0x2f#6 := by
    simp (disch := decide) only [flds, Nat.reduceSub]
  rw [decode_vsf hm]
  simp (disch := decide) only [decodeVsf, flds, Nat.reduceSub, Nat.reduceMod, Nat.reducePow, Nat.reduceDiv, ↓reduceIte,
    BitVec.reduceEq, BitVec.ofNat_eq_ofNat, BitVec.reduceOfNat]
theorem vsfExp (e : Dep) (d : Reg5) (a : Reg5) (m : Reg3) : Statement (.vsfExp e d a m) := by
  intro _ hw
  obtain rfl := Option.some.inj hw
  have hm : fld (e ++ 0x2f#6 ++ d ++ a ++ 0x0#5 ++ m ++ 0x1#4 : IWord) 22 6 = 0x2f#6 := by
    simp (disch := decide) only [flds, Nat.reduceSub]
  rw [decode_vsf hm]
  simp (disch := decide) only [decodeVsf, flds, Nat.reduceSub, Nat.reduceMod, Nat.reducePow, Nat.reduceDiv, ↓reduceIte,
    BitVec.reduceEq, BitVec.ofNat_eq_ofNat, BitVec.reduceOfNat]
theorem vsfLog2 (e : Dep) (d : Reg5) (a : Reg5) (m : Reg3) : Statement (.vsfLog2 e d a m) := by
  intro _ hw
  obtain rfl := Option.some.inj hw
  have hm : fld (e ++ 0x2f#6 ++ d ++ a ++ 0x0#5 ++ m ++ 0x2#4 : IWord) 22 6 = 0x2f#6 := by
    simp (disch := decide) only [flds, Nat.reduceSub]
  rw [decode_vsf hm]
  simp (disch := decide) only [decodeVsf, flds, Nat.reduceSub, Nat.reduceMod, Nat.reducePow, Nat.reduceDiv, ↓reduceIte,
    BitVec.reduceEq, BitVec.ofNat_eq_ofNat, BitVec.reduceOfNat]
theorem vsfLn (e : Dep) (d : Reg5) (a : Reg5) (m : Reg3) : Statement (.vsfLn e d a m) := by
  intro _ hw
  obtain rfl := Option.some.inj hw
  have hm : fld (e ++ 0x2f#6 ++ d ++ a ++ 0x0#5 ++ m ++ 0x3#4 : IWord) 22 6 = 0x2f#6 := by
    simp (disch := decide) only [flds, Nat.reduceSub]
  rw [decode_vsf hm]
  simp (disch := decide) only [decodeVsf, flds, Nat.reduceSub, Nat.reduceMod, Nat.reducePow, Nat.reduceDiv, ↓reduceIte,
    BitVec.reduceEq, BitVec.ofNat_eq_ofNat, BitVec.reduceOfNat]
theorem vsfSigmoid (e : Dep) (d : Reg5) (a : Reg5) (m : Reg3) : Statement (.vsfSigmoid e d a m) := by
  intro _ hw
  obtain rfl := Option.some.inj hw
  have hm : fld (e ++ 0x2f#6 ++ d ++ a ++ 0x0#5 ++ m ++ 0x4#4 : IWord) 22 6 = 0x2f#6 := by
    simp (disch := decide) only [flds, Nat.reduceSub]
  rw [decode_vsf hm]
  simp (disch := decide) only [decodeVsf, flds, Nat.reduceSub, Nat.reduceMod, Nat.reducePow, Nat.reduceDiv, ↓reduceIte,
    BitVec.reduceEq, BitVec.ofNat_eq_ofNat, BitVec.reduceOfNat]
theorem vsfTanh (e : Dep) (d : Reg5) (a : Reg5) (m : Reg3) : Statement (.vsfTanh e d a m) := by
  intro _ hw
  obtain rfl := Option.some.inj hw
  have hm : fld (e ++ 0x2f#6 ++ d ++ a ++ 0x0#5 ++ m ++ 0x5#4 : IWord) 22 6 = 0x2f#6 := by
    simp (disch := decide) only [flds, Nat.reduceSub]
  rw [decode_vsf hm]
  simp (disch := decide) only [decodeVsf, flds, Nat.reduceSub, Nat.reduceMod, Nat.reducePow, Nat.reduceDiv, ↓reduceIte,
    BitVec.reduceEq, BitVec.ofNat_eq_ofNat, BitVec.reduceOfNat]
theorem vsfSilu (e : Dep) (d : Reg5) (a : Reg5) (m : Reg3) : Statement (.vsfSilu e d a m) := by
  intro _ hw
  obtain rfl := Option.some.inj hw
  have hm : fld (e ++ 0x2f#6 ++ d ++ a ++ 0x0#5 ++ m ++ 0x6#4 : IWord) 22 6 = 0x2f#6 := by
    simp (disch := decide) only [flds, Nat.reduceSub]
  rw [decode_vsf hm]
  simp (disch := decide) only [decodeVsf, flds, Nat.reduceSub, Nat.reduceMod, Nat.reducePow, Nat.reduceDiv, ↓reduceIte,
    BitVec.reduceEq, BitVec.ofNat_eq_ofNat, BitVec.reduceOfNat]
theorem vsfSoftplus (e : Dep) (d : Reg5) (a : Reg5) (m : Reg3) : Statement (.vsfSoftplus e d a m) := by
  intro _ hw
  obtain rfl := Option.some.inj hw
  have hm : fld (e ++ 0x2f#6 ++ d ++ a ++ 0x0#5 ++ m ++ 0x7#4 : IWord) 22 6 = 0x2f#6 := by
    simp (disch := decide) only [flds, Nat.reduceSub]
  rw [decode_vsf hm]
  simp (disch := decide) only [decodeVsf, flds, Nat.reduceSub, Nat.reduceMod, Nat.reducePow, Nat.reduceDiv, ↓reduceIte,
    BitVec.reduceEq, BitVec.ofNat_eq_ofNat, BitVec.reduceOfNat]
theorem vsfSinpi (e : Dep) (d : Reg5) (a : Reg5) (m : Reg3) : Statement (.vsfSinpi e d a m) := by
  intro _ hw
  obtain rfl := Option.some.inj hw
  have hm : fld (e ++ 0x2f#6 ++ d ++ a ++ 0x0#5 ++ m ++ 0x8#4 : IWord) 22 6 = 0x2f#6 := by
    simp (disch := decide) only [flds, Nat.reduceSub]
  rw [decode_vsf hm]
  simp (disch := decide) only [decodeVsf, flds, Nat.reduceSub, Nat.reduceMod, Nat.reducePow, Nat.reduceDiv, ↓reduceIte,
    BitVec.reduceEq, BitVec.ofNat_eq_ofNat, BitVec.reduceOfNat]
theorem vsfCospi (e : Dep) (d : Reg5) (a : Reg5) (m : Reg3) : Statement (.vsfCospi e d a m) := by
  intro _ hw
  obtain rfl := Option.some.inj hw
  have hm : fld (e ++ 0x2f#6 ++ d ++ a ++ 0x0#5 ++ m ++ 0x9#4 : IWord) 22 6 = 0x2f#6 := by
    simp (disch := decide) only [flds, Nat.reduceSub]
  rw [decode_vsf hm]
  simp (disch := decide) only [decodeVsf, flds, Nat.reduceSub, Nat.reduceMod, Nat.reducePow, Nat.reduceDiv, ↓reduceIte,
    BitVec.reduceEq, BitVec.ofNat_eq_ofNat, BitVec.reduceOfNat]
theorem vrcp (e : Dep) (d : Reg5) (a : Reg5) (m : Reg3) : Statement (.vrcp e d a m) := by
  intro _ hw
  obtain rfl := Option.some.inj hw
  have hm : fld (e ++ 0x30#6 ++ d ++ a ++ 0x0#5 ++ m ++ 0x0#4 : IWord) 22 6 = 0x30#6 := by
    simp (disch := decide) only [flds, Nat.reduceSub]
  rw [decode_recip hm]
  simp (disch := decide) only [decodeRecip, flds, Nat.reduceSub, Nat.reduceMod, Nat.reducePow, Nat.reduceDiv, ↓reduceIte,
    BitVec.reduceEq, BitVec.ofNat_eq_ofNat, BitVec.reduceOfNat]
theorem vrsq (e : Dep) (d : Reg5) (a : Reg5) (m : Reg3) : Statement (.vrsq e d a m) := by
  intro _ hw
  obtain rfl := Option.some.inj hw
  have hm : fld (e ++ 0x30#6 ++ d ++ a ++ 0x0#5 ++ m ++ 0x1#4 : IWord) 22 6 = 0x30#6 := by
    simp (disch := decide) only [flds, Nat.reduceSub]
  rw [decode_recip hm]
  simp (disch := decide) only [decodeRecip, flds, Nat.reduceSub, Nat.reduceMod, Nat.reducePow, Nat.reduceDiv, ↓reduceIte,
    BitVec.reduceEq, BitVec.ofNat_eq_ofNat, BitVec.reduceOfNat]
theorem vrmsPart (e : Dep) (d : Reg5) (a : Reg5) : Statement (.vrmsPart e d a) := by
  intro _ hw
  obtain rfl := Option.some.inj hw
  have hm : fld (e ++ 0x30#6 ++ d ++ a ++ 0x2#12 : IWord) 22 6 = 0x30#6 := by
    simp (disch := decide) only [flds, Nat.reduceSub]
  rw [decode_recip hm]
  simp (disch := decide) only [decodeRecip, flds, Nat.reduceSub, Nat.reduceMod, Nat.reducePow, Nat.reduceDiv, ↓reduceIte,
    BitVec.reduceEq, BitVec.ofNat_eq_ofNat, BitVec.reduceOfNat]
theorem vrms (e : Dep) (d : Reg5) (a : Reg5) (b : Reg5) : Statement (.vrms e d a b) := by
  intro _ hw
  obtain rfl := Option.some.inj hw
  have hm : fld (e ++ 0x30#6 ++ d ++ a ++ b ++ 0x3#7 : IWord) 22 6 = 0x30#6 := by
    simp (disch := decide) only [flds, Nat.reduceSub]
  rw [decode_recip hm]
  simp (disch := decide) only [decodeRecip, flds, Nat.reduceSub, Nat.reduceMod, Nat.reducePow, Nat.reduceDiv, ↓reduceIte,
    BitVec.reduceEq, BitVec.ofNat_eq_ofNat, BitVec.reduceOfNat]
theorem vcvt (e : Dep) (d : Reg5) (a : Reg5) (k : BitVec 5) (m : Reg3) (s : BitVec 1) (r : BitVec 2) : Statement (.vcvt e d a k m s r) := by
  intro _ hw
  obtain rfl := Option.some.inj hw
  have hm : fld (e ++ 0x31#6 ++ d ++ a ++ k ++ m ++ 0x0#1 ++ s ++ r : IWord) 22 6 = 0x31#6 := by
    simp (disch := decide) only [flds, Nat.reduceSub]
  rw [decode_vcvt hm]
  simp (disch := decide) only [decodeVcvt, flds, Nat.reduceSub, Nat.reduceMod, Nat.reducePow, Nat.reduceDiv, ↓reduceIte,
    BitVec.reduceEq, BitVec.ofNat_eq_ofNat, BitVec.reduceOfNat]
theorem vqmx (e : Dep) (d : Reg5) (a : Reg5) (q : BitVec 2) : Statement (.vqmx e d a q) := by
  intro _ hw
  obtain rfl := Option.some.inj hw
  have hm : fld (e ++ 0x31#6 ++ d ++ a ++ 0x0#3 ++ q ++ 0x8#7 : IWord) 22 6 = 0x31#6 := by
    simp (disch := decide) only [flds, Nat.reduceSub]
  rw [decode_vcvt hm]
  simp (disch := decide) only [decodeVcvt, flds, Nat.reduceSub, Nat.reduceMod, Nat.reducePow, Nat.reduceDiv, ↓reduceIte,
    BitVec.reduceEq, BitVec.ofNat_eq_ofNat, BitVec.reduceOfNat]
theorem vbkt (e : Dep) (d : Reg4) (a : Reg5) (b : Reg5) (m : Reg3) : Statement (.vbkt e d a b m) := by
  intro _ hw
  obtain rfl := Option.some.inj hw
  have hm : fld (e ++ 0x32#6 ++ 0x0#1 ++ d ++ a ++ b ++ m ++ 0x0#4 : IWord) 22 6 = 0x32#6 := by
    simp (disch := decide) only [flds, Nat.reduceSub]
  rw [decode_select hm]
  simp (disch := decide) only [decodeSelect, flds, Nat.reduceSub, Nat.reduceMod, Nat.reducePow, Nat.reduceDiv, ↓reduceIte,
    BitVec.reduceEq, BitVec.ofNat_eq_ofNat, BitVec.reduceOfNat]
theorem vmsk (e : Dep) (d : Reg5) (a : Reg5) (b : Reg5) (m : Reg3) : Statement (.vmsk e d a b m) := by
  intro _ hw
  obtain rfl := Option.some.inj hw
  have hm : fld (e ++ 0x32#6 ++ d ++ a ++ b ++ m ++ 0x1#4 : IWord) 22 6 = 0x32#6 := by
    simp (disch := decide) only [flds, Nat.reduceSub]
  rw [decode_select hm]
  simp (disch := decide) only [decodeSelect, flds, Nat.reduceSub, Nat.reduceMod, Nat.reducePow, Nat.reduceDiv, ↓reduceIte,
    BitVec.reduceEq, BitVec.ofNat_eq_ofNat, BitVec.reduceOfNat]
theorem vrand (e : Dep) (d : Reg5) (a : Reg5) (b : Reg5) (m : Reg3) : Statement (.vrand e d a b m) := by
  intro _ hw
  obtain rfl := Option.some.inj hw
  have hm : fld (e ++ 0x32#6 ++ d ++ a ++ b ++ m ++ 0x2#4 : IWord) 22 6 = 0x32#6 := by
    simp (disch := decide) only [flds, Nat.reduceSub]
  rw [decode_select hm]
  simp (disch := decide) only [decodeSelect, flds, Nat.reduceSub, Nat.reduceMod, Nat.reducePow, Nat.reduceDiv, ↓reduceIte,
    BitVec.reduceEq, BitVec.ofNat_eq_ofNat, BitVec.reduceOfNat]
theorem vpark (e : Dep) (k : Reg5) (a : Reg5) : Statement (.vpark e k a) := by
  intro _ hw
  obtain rfl := Option.some.inj hw
  have hm : fld (e ++ 0x33#6 ++ k ++ a ++ 0x0#12 : IWord) 22 6 = 0x33#6 := by
    simp (disch := decide) only [flds, Nat.reduceSub]
  rw [decode_park hm]
  simp (disch := decide) only [decodePark, flds, Nat.reduceSub, Nat.reduceMod, Nat.reducePow, Nat.reduceDiv, ↓reduceIte,
    BitVec.reduceEq, BitVec.ofNat_eq_ofNat, BitVec.reduceOfNat]
theorem vunpark (e : Dep) (d : Reg5) (k : Reg5) : Statement (.vunpark e d k) := by
  intro _ hw
  obtain rfl := Option.some.inj hw
  have hm : fld (e ++ 0x33#6 ++ d ++ k ++ 0x1#12 : IWord) 22 6 = 0x33#6 := by
    simp (disch := decide) only [flds, Nat.reduceSub]
  rw [decode_park hm]
  simp (disch := decide) only [decodePark, flds, Nat.reduceSub, Nat.reduceMod, Nat.reducePow, Nat.reduceDiv, ↓reduceIte,
    BitVec.reduceEq, BitVec.ofNat_eq_ofNat, BitVec.reduceOfNat]
theorem ox (e : Dep) (d : Reg5) (a : Reg5) (b : Reg5) (m : Reg3) (n : Reg4) : Statement (.ox e d a b m n) := by
  intro _ hw
  obtain rfl := Option.some.inj hw
  have hm : fld (e ++ 0x38#6 ++ d ++ a ++ b ++ m ++ n : IWord) 22 6 = 0x38#6 := by
    simp (disch := decide) only [flds, Nat.reduceSub]
  rw [decode_ox hm]
  simp (disch := decide) only [decodeOx, flds, Nat.reduceSub, Nat.reduceMod, Nat.reducePow, Nat.reduceDiv, ↓reduceIte,
    BitVec.reduceEq, BitVec.ofNat_eq_ofNat, BitVec.reduceOfNat]
theorem oload (e : Dep) (n : Reg4) (a : Reg5) (b : Reg5) : Statement (.oload e n a b) := by
  intro _ hw
  obtain rfl := Option.some.inj hw
  have hm : fld (e ++ 0x39#6 ++ 0x0#1 ++ n ++ a ++ b ++ 0x0#7 : IWord) 22 6 = 0x39#6 := by
    simp (disch := decide) only [flds, Nat.reduceSub]
  rw [decode_ochre hm]
  simp (disch := decide) only [decodeOchre, flds, Nat.reduceSub, Nat.reduceMod, Nat.reducePow, Nat.reduceDiv, ↓reduceIte,
    BitVec.reduceEq, BitVec.ofNat_eq_ofNat, BitVec.reduceOfNat]
theorem ounld (e : Dep) (n : Reg4) : Statement (.ounld e n) := by
  intro _ hw
  obtain rfl := Option.some.inj hw
  have hm : fld (e ++ 0x39#6 ++ 0x0#1 ++ n ++ 0x1#17 : IWord) 22 6 = 0x39#6 := by
    simp (disch := decide) only [flds, Nat.reduceSub]
  rw [decode_ochre hm]
  simp (disch := decide) only [decodeOchre, flds, Nat.reduceSub, Nat.reduceMod, Nat.reducePow, Nat.reduceDiv, ↓reduceIte,
    BitVec.reduceEq, BitVec.ofNat_eq_ofNat, BitVec.reduceOfNat]
theorem ostat (e : Dep) (d : Reg5) : Statement (.ostat e d) := by
  intro _ hw
  obtain rfl := Option.some.inj hw
  have hm : fld (e ++ 0x39#6 ++ d ++ 0x2#17 : IWord) 22 6 = 0x39#6 := by
    simp (disch := decide) only [flds, Nat.reduceSub]
  rw [decode_ochre hm]
  simp (disch := decide) only [decodeOchre, flds, Nat.reduceSub, Nat.reduceMod, Nat.reducePow, Nat.reduceDiv, ↓reduceIte,
    BitVec.reduceEq, BitVec.ofNat_eq_ofNat, BitVec.reduceOfNat]
theorem ret : Statement .ret := by
  intro _ hw
  obtain rfl := Option.some.inj hw
  have hm : fld (0x0#4 ++ 0x5#6 ++ 0x200000#22 : IWord) 22 6 = 0x5#6 := by
    simp (disch := decide) only [flds, Nat.reduceSub]
  rw [decode_jump hm (by simp (disch := decide) only [flds, Nat.reduceSub]; rfl)]
  simp (disch := decide) only [decodeJump, flds, Nat.reduceSub, Nat.reduceMod, Nat.reducePow, Nat.reduceDiv, ↓reduceIte,
    BitVec.reduceEq, BitVec.ofNat_eq_ofNat, BitVec.reduceOfNat]
theorem gbar : Statement .gbar := by
  intro _ hw
  obtain rfl := Option.some.inj hw
  have hm : fld (0x0#4 ++ 0x9#6 ++ 0x2#22 : IWord) 22 6 = 0x9#6 := by
    simp (disch := decide) only [flds, Nat.reduceSub]
  rw [decode_sync hm (by simp (disch := decide) only [flds, Nat.reduceSub]; rfl)]
  simp (disch := decide) only [decodeSync, flds, Nat.reduceSub, Nat.reduceMod, Nat.reducePow, Nat.reduceDiv, ↓reduceIte,
    BitVec.reduceEq, BitVec.ofNat_eq_ofNat, BitVec.reduceOfNat]
theorem yield : Statement .yield := by
  intro _ hw
  obtain rfl := Option.some.inj hw
  have hm : fld (0x0#4 ++ 0x9#6 ++ 0x4#22 : IWord) 22 6 = 0x9#6 := by
    simp (disch := decide) only [flds, Nat.reduceSub]
  rw [decode_sync hm (by simp (disch := decide) only [flds, Nat.reduceSub]; rfl)]
  simp (disch := decide) only [decodeSync, flds, Nat.reduceSub, Nat.reduceMod, Nat.reducePow, Nat.reduceDiv, ↓reduceIte,
    BitVec.reduceEq, BitVec.ofNat_eq_ofNat, BitVec.reduceOfNat]
theorem yieldExit : Statement .yieldExit := by
  intro _ hw
  obtain rfl := Option.some.inj hw
  have hm : fld (0x0#4 ++ 0x9#6 ++ 0x5#22 : IWord) 22 6 = 0x9#6 := by
    simp (disch := decide) only [flds, Nat.reduceSub]
  rw [decode_sync hm (by simp (disch := decide) only [flds, Nat.reduceSub]; rfl)]
  simp (disch := decide) only [decodeSync, flds, Nat.reduceSub, Nat.reduceMod, Nat.reducePow, Nat.reduceDiv, ↓reduceIte,
    BitVec.reduceEq, BitVec.ofNat_eq_ofNat, BitVec.reduceOfNat]
theorem utret : Statement .utret := by
  intro _ hw
  obtain rfl := Option.some.inj hw
  have hm : fld (0x0#4 ++ 0xc#6 ++ 0x800#22 : IWord) 22 6 = 0xc#6 := by
    simp (disch := decide) only [flds, Nat.reduceSub]
  rw [decode_csr hm (by simp (disch := decide) only [flds, Nat.reduceSub]; rfl)]
  simp (disch := decide) only [decodeCsr, flds, Nat.reduceSub, Nat.reduceMod, Nat.reducePow, Nat.reduceDiv, ↓reduceIte,
    BitVec.reduceEq, BitVec.ofNat_eq_ofNat, BitVec.reduceOfNat]
theorem sret : Statement .sret := by
  intro _ hw
  obtain rfl := Option.some.inj hw
  have hm : fld (0x0#4 ++ 0x3d#6 ++ 0x0#22 : IWord) 22 6 = 0x3d#6 := by
    simp (disch := decide) only [flds, Nat.reduceSub]
  rw [decode_sys hm (by simp (disch := decide) only [flds, Nat.reduceSub]; rfl)]
  simp (disch := decide) only [decodeSys, flds, Nat.reduceSub, Nat.reduceMod, Nat.reducePow, Nat.reduceDiv, ↓reduceIte,
    BitVec.reduceEq, BitVec.ofNat_eq_ofNat, BitVec.reduceOfNat]
theorem tlbinvAll : Statement .tlbinvAll := by
  intro _ hw
  obtain rfl := Option.some.inj hw
  have hm : fld (0x0#4 ++ 0x3d#6 ++ 0x4#22 : IWord) 22 6 = 0x3d#6 := by
    simp (disch := decide) only [flds, Nat.reduceSub]
  rw [decode_sys hm (by simp (disch := decide) only [flds, Nat.reduceSub]; rfl)]
  simp (disch := decide) only [decodeSys, flds, Nat.reduceSub, Nat.reduceMod, Nat.reducePow, Nat.reduceDiv, ↓reduceIte,
    BitVec.reduceEq, BitVec.ofNat_eq_ofNat, BitVec.reduceOfNat]
theorem wfi : Statement .wfi := by
  intro _ hw
  obtain rfl := Option.some.inj hw
  have hm : fld (0x0#4 ++ 0x3d#6 ++ 0x8#22 : IWord) 22 6 = 0x3d#6 := by
    simp (disch := decide) only [flds, Nat.reduceSub]
  rw [decode_sys hm (by simp (disch := decide) only [flds, Nat.reduceSub]; rfl)]
  simp (disch := decide) only [decodeSys, flds, Nat.reduceSub, Nat.reduceMod, Nat.reducePow, Nat.reduceDiv, ↓reduceIte,
    BitVec.reduceEq, BitVec.ofNat_eq_ofNat, BitVec.reduceOfNat]
theorem ochinv : Statement .ochinv := by
  intro _ hw
  obtain rfl := Option.some.inj hw
  have hm : fld (0x0#4 ++ 0x3d#6 ++ 0x9#22 : IWord) 22 6 = 0x3d#6 := by
    simp (disch := decide) only [flds, Nat.reduceSub]
  rw [decode_sys hm (by simp (disch := decide) only [flds, Nat.reduceSub]; rfl)]
  simp (disch := decide) only [decodeSys, flds, Nat.reduceSub, Nat.reduceMod, Nat.reducePow, Nat.reduceDiv, ↓reduceIte,
    BitVec.reduceEq, BitVec.ofNat_eq_ofNat, BitVec.reduceOfNat]
theorem snaptrig : Statement .snaptrig := by
  intro _ hw
  obtain rfl := Option.some.inj hw
  have hm : fld (0x0#4 ++ 0x3d#6 ++ 0xb#22 : IWord) 22 6 = 0x3d#6 := by
    simp (disch := decide) only [flds, Nat.reduceSub]
  rw [decode_sys hm (by simp (disch := decide) only [flds, Nat.reduceSub]; rfl)]
  simp (disch := decide) only [decodeSys, flds, Nat.reduceSub, Nat.reduceMod, Nat.reducePow, Nat.reduceDiv, ↓reduceIte,
    BitVec.reduceEq, BitVec.ofNat_eq_ofNat, BitVec.reduceOfNat]
theorem evEntryStart : Statement .evEntryStart := by
  intro _ hw; cases hw
theorem evEntryRetire : Statement .evEntryRetire := by
  intro _ hw; cases hw
theorem evCopyGranule : Statement .evCopyGranule := by
  intro _ hw; cases hw
theorem evCopyComplete : Statement .evCopyComplete := by
  intro _ hw; cases hw
theorem evStreamSlotClaim : Statement .evStreamSlotClaim := by
  intro _ hw; cases hw
theorem evStreamSlotPublish : Statement .evStreamSlotPublish := by
  intro _ hw; cases hw
theorem evAbwaitWake : Statement .evAbwaitWake := by
  intro _ hw; cases hw
theorem evSlwaitWake : Statement .evSlwaitWake := by
  intro _ hw; cases hw
theorem evSlpopWake : Statement .evSlpopWake := by
  intro _ hw; cases hw
theorem evQwaitWake : Statement .evQwaitWake := by
  intro _ hw; cases hw
theorem evFenceComplete : Statement .evFenceComplete := by
  intro _ hw; cases hw
theorem evWfiWake : Statement .evWfiWake := by
  intro _ hw; cases hw
theorem evGbarRelease : Statement .evGbarRelease := by
  intro _ hw; cases hw
theorem evQueueStall : Statement .evQueueStall := by
  intro _ hw; cases hw
theorem evDrainAndPark : Statement .evDrainAndPark := by
  intro _ hw; cases hw
theorem evDrainAbandon : Statement .evDrainAbandon := by
  intro _ hw; cases hw
theorem evUserTrapDelivery : Statement .evUserTrapDelivery := by
  intro _ hw; cases hw
theorem evSupervisorTrapDelivery : Statement .evSupervisorTrapDelivery := by
  intro _ hw; cases hw
theorem evEscalation : Statement .evEscalation := by
  intro _ hw; cases hw
theorem evMadderPerform : Statement .evMadderPerform := by
  intro _ hw; cases hw
theorem evStepBoundary : Statement .evStepBoundary := by
  intro _ hw; cases hw
theorem evFirkinLoad : Statement .evFirkinLoad := by
  intro _ hw; cases hw
theorem evFirkinWriteback : Statement .evFirkinWriteback := by
  intro _ hw; cases hw
theorem evRecordWriteback : Statement .evRecordWriteback := by
  intro _ hw; cases hw
theorem evPageTableWalk : Statement .evPageTableWalk := by
  intro _ hw; cases hw
theorem evDoorbell : Statement .evDoorbell := by
  intro _ hw; cases hw
theorem evNop : Statement .evNop := by
  intro _ hw; cases hw
theorem evLaunch : Statement .evLaunch := by
  intro _ hw; cases hw
theorem evLaunchWarm : Statement .evLaunchWarm := by
  intro _ hw; cases hw
theorem evWait : Statement .evWait := by
  intro _ hw; cases hw
theorem evWaitSatisfied : Statement .evWaitSatisfied := by
  intro _ hw; cases hw
theorem evSignal : Statement .evSignal := by
  intro _ hw; cases hw
theorem evIndirect : Statement .evIndirect := by
  intro _ hw; cases hw
theorem evCreate : Statement .evCreate := by
  intro _ hw; cases hw
theorem evReady : Statement .evReady := by
  intro _ hw; cases hw
theorem evCancel : Statement .evCancel := by
  intro _ hw; cases hw
theorem evRemove : Statement .evRemove := by
  intro _ hw; cases hw
theorem evEnd : Statement .evEnd := by
  intro _ hw; cases hw
theorem evPacketFence : Statement .evPacketFence := by
  intro _ hw; cases hw
theorem evPacketFenceDone : Statement .evPacketFenceDone := by
  intro _ hw; cases hw
theorem evDestroy : Statement .evDestroy := by
  intro _ hw; cases hw
theorem evLaunchDecision : Statement .evLaunchDecision := by
  intro _ hw; cases hw
theorem evGangPlacement : Statement .evGangPlacement := by
  intro _ hw; cases hw
theorem evGangRelease : Statement .evGangRelease := by
  intro _ hw; cases hw
theorem evTaskComplete : Statement .evTaskComplete := by
  intro _ hw; cases hw
theorem evTaskKill : Statement .evTaskKill := by
  intro _ hw; cases hw
theorem evPreemptCheckpoint : Statement .evPreemptCheckpoint := by
  intro _ hw; cases hw
theorem evEscalationResume : Statement .evEscalationResume := by
  intro _ hw; cases hw
theorem evEscalationKill : Statement .evEscalationKill := by
  intro _ hw; cases hw
theorem evBudgetPeriodStart : Statement .evBudgetPeriodStart := by
  intro _ hw; cases hw
theorem evReclaim : Statement .evReclaim := by
  intro _ hw; cases hw
theorem evHoldEnd : Statement .evHoldEnd := by
  intro _ hw; cases hw
theorem evSpillRefill : Statement .evSpillRefill := by
  intro _ hw; cases hw
theorem evInterruptWindowExpiry : Statement .evInterruptWindowExpiry := by
  intro _ hw; cases hw
theorem evDscarveWrite : Statement .evDscarveWrite := by
  intro _ hw; cases hw
theorem evAccsplitWrite : Statement .evAccsplitWrite := by
  intro _ hw; cases hw
theorem evLendWrite : Statement .evLendWrite := by
  intro _ hw; cases hw
theorem evRcfgWrite : Statement .evRcfgWrite := by
  intro _ hw; cases hw
theorem evPtrootWrite : Statement .evPtrootWrite := by
  intro _ hw; cases hw
theorem evPcoresWrite : Statement .evPcoresWrite := by
  intro _ hw; cases hw
theorem evPrightsWrite : Statement .evPrightsWrite := by
  intro _ hw; cases hw
theorem evPeriodWrite : Statement .evPeriodWrite := by
  intro _ hw; cases hw
theorem evBudgetWrite : Statement .evBudgetWrite := by
  intro _ hw; cases hw
theorem evSteeringEntryWrite : Statement .evSteeringEntryWrite := by
  intro _ hw; cases hw
theorem evTsctlStep : Statement .evTsctlStep := by
  intro _ hw; cases hw
theorem evTsctlAdj : Statement .evTsctlAdj := by
  intro _ hw; cases hw
theorem evRegisterWrite : Statement .evRegisterWrite := by
  intro _ hw; cases hw
theorem evFronthaulFrameRx : Statement .evFronthaulFrameRx := by
  intro _ hw; cases hw
theorem evPpsEdge : Statement .evPpsEdge := by
  intro _ hw; cases hw
theorem evSnapshotPinEdge : Statement .evSnapshotPinEdge := by
  intro _ hw; cases hw
theorem evSnapatMatch : Statement .evSnapatMatch := by
  intro _ hw; cases hw
theorem evBlumusFlitRx : Statement .evBlumusFlitRx := by
  intro _ hw; cases hw
theorem evLinkDead : Statement .evLinkDead := by
  intro _ hw; cases hw
theorem evLinkRetrain : Statement .evLinkRetrain := by
  intro _ hw; cases hw
theorem evBar2Write : Statement .evBar2Write := by
  intro _ hw; cases hw
theorem evBar2Read : Statement .evBar2Read := by
  intro _ hw; cases hw
theorem evHostCompletion : Statement .evHostCompletion := by
  intro _ hw; cases hw
theorem evHostCompletionTimeout : Statement .evHostCompletionTimeout := by
  intro _ hw; cases hw
theorem evEccUncorrectable : Statement .evEccUncorrectable := by
  intro _ hw; cases hw
theorem evMemoryScrub : Statement .evMemoryScrub := by
  intro _ hw; cases hw
theorem evColdReset : Statement .evColdReset := by
  intro _ hw; cases hw
theorem evModuleReset : Statement .evModuleReset := by
  intro _ hw; cases hw
theorem evBootRomStep : Statement .evBootRomStep := by
  intro _ hw; cases hw
theorem evGetVersion : Statement .evGetVersion := by
  intro _ hw; cases hw
theorem evGetCapabilities : Statement .evGetCapabilities := by
  intro _ hw; cases hw
theorem evNegotiateAlgorithms : Statement .evNegotiateAlgorithms := by
  intro _ hw; cases hw
theorem evGetDigests : Statement .evGetDigests := by
  intro _ hw; cases hw
theorem evGetCertificate : Statement .evGetCertificate := by
  intro _ hw; cases hw
theorem evChallenge : Statement .evChallenge := by
  intro _ hw; cases hw
theorem evGetMeasurements : Statement .evGetMeasurements := by
  intro _ hw; cases hw
theorem evFirmwareNotification : Statement .evFirmwareNotification := by
  intro _ hw; cases hw
theorem evEventMessageTx : Statement .evEventMessageTx := by
  intro _ hw; cases hw

end Sys2Proof.Laws.RoundTrip
end

