-- ==== Sys2Proof/Laws/Views.lean ====
section
/-!
SUPPORT. What the operations on views of the past can do, once each: learning, acquiring and releasing reach held words, late writes and
releases alone, and an acquire leaves no word its scope ends; writes noted by their agent keep every memory canonical and every context,
task and other unit; a context's accesses are performed with nothing left.
-/
namespace Sys2Proof.Machine

/-! ## Views alone -/

/-- Two states differ in held words, late writes and releases at most. -/
def ViewsOnly (s t : State) : Prop := ∃ e x p r, t = { s with early := e, stale := x, posts := p, rels := r }

theorem ViewsOnly.refl (s : State) : ViewsOnly s s := ⟨s.early, s.stale, s.posts, s.rels, rfl⟩
theorem ViewsOnly.trans {s t u : State} (h : ViewsOnly s t) (g : ViewsOnly t u) : ViewsOnly s u := by
  obtain ⟨_, _, _, _, rfl⟩ := h
  obtain ⟨e, x, p, r, rfl⟩ := g
  exact ⟨e, x, p, r, rfl⟩
theorem ViewsOnly.foldl {α : Type} (f : State → α → State) (h : ∀ s a, ViewsOnly s (f s a)) :
    ∀ (l : List α) (s : State), ViewsOnly s (l.foldl f s)
  | [], s => .refl s
  | a :: r, s => (h s a).trans (ViewsOnly.foldl f h r (f s a))
theorem ViewsOnly.ctxs {s t : State} (h : ViewsOnly s t) : t.ctxs = s.ctxs := by obtain ⟨_, _, _, _, rfl⟩ := h; rfl
theorem ViewsOnly.ctx {s t : State} (h : ViewsOnly s t) (k : CtxId) : t.ctx k = s.ctx k := by obtain ⟨_, _, _, _, rfl⟩ := h; rfl
theorem ViewsOnly.memOf {s t : State} (h : ViewsOnly s t) (sp : Space) : t.memOf sp = s.memOf sp := by
  obtain ⟨_, _, _, _, rfl⟩ := h; cases sp <;> rfl
theorem ViewsOnly.memWf {s t : State} (h : ViewsOnly s t) : t.memWf = s.memWf := by obtain ⟨_, _, _, _, rfl⟩ := h; rfl
theorem ViewsOnly.tasks {s t : State} (h : ViewsOnly s t) : t.tasks = s.tasks := by obtain ⟨_, _, _, _, rfl⟩ := h; rfl

theorem note_views (s : State) (w : Knower) (f : Space → Nat → Nat → Bool) : ViewsOnly s (s.note w f) := ⟨_, _, _, _, rfl⟩
theorem learnAt_views (s : State) (me : Knower) (src : List Knower) : ViewsOnly s (learnAt s me src) := ⟨_, _, _, _, rfl⟩
theorem learn_views (s : State) (me : Agent) (src : List Knower) : ViewsOnly s (learn s me src) := learnAt_views _ _ _
theorem acquire_views (s : State) (k : CtxId) (scope : Nat) (src : List Knower) : ViewsOnly s (acquire s k scope src) :=
  (learn_views s (.fe k) src).trans ⟨_, _, _, _, rfl⟩
theorem addRel_views (s : State) (r : Rel) : ViewsOnly s (s.addRel r) := ⟨_, _, _, _, rfl⟩
theorem completeRels_views (s : State) (o : RelAt) : ViewsOnly s (s.completeRels o) := ⟨_, _, _, _, rfl⟩
theorem dropRels_views (s : State) (o : RelAt) : ViewsOnly s (s.dropRels o) := ⟨_, _, _, _, rfl⟩
theorem ownStore_views (s : State) (k : CtxId) (sp : Space) (a n : Nat) : ViewsOnly s (ownStore s k sp a n) := ⟨_, _, _, _, rfl⟩
theorem performedFor_views (s : State) (k : CtxId) (scope : Nat) : ViewsOnly s (performedFor s k scope) := ⟨_, _, _, _, rfl⟩
theorem fenceViews_views (s : State) (k : CtxId) (scope : Nat) (src : List Knower) : ViewsOnly s (fenceViews s k scope src) :=
  ((((learn_views s (.fe k) src).trans (performedFor_views _ k scope)).trans ⟨_, _, _, _, rfl⟩).trans (learn_views _ _ _)).trans
    (learn_views _ _ _)
theorem unitRelease_views (s : State) (sp : Space) (a n : Nat) : ViewsOnly s (unitRelease s sp a n) :=
  ((learn_views s .outside _).trans ⟨_, _, _, _, rfl⟩).trans (addRel_views _ _)
theorem gangAcquires_views (s : State) (n : Nat) (ms : List CtxId) (more : List Knower) : ViewsOnly s (gangAcquires s n ms more) :=
  (ViewsOnly.foldl _ (fun s k => acquire_views s k 3 _) ms s).trans (dropRels_views _ _)

/-- A release that is made stands. -/
theorem addRel_mem (s : State) (r : Rel) : r ∈ (s.addRel r).rels := List.mem_cons_self

/-- After an acquire at a scope its context holds no word that the scope ends (R120). -/
theorem acquire_ends (s : State) (k : CtxId) (scope : Nat) (src : List Knower) :
    ∀ e ∈ (acquire s k scope src).early, e.ctx = k → e.endsAt scope = false := by
  intro e he hk
  have h := (List.mem_filter.mp he).2
  simpa [hk] using h

/-- What an agent has learnt of, it no longer holds (R122). -/
theorem learnAt_early (s : State) (me : Knower) (src : List Knower) :
    ∀ e ∈ (learnAt s me src).early, e.of me.who = true → goneFor e.gone src = false := by
  intro e he ho
  obtain ⟨e0, -, h⟩ := List.mem_filterMap.mp he
  cases hg : goneFor e0.gone src with
  | false => simp only [hg, Bool.not_false, if_true, Option.some.injEq] at h; exact h ▸ hg
  | true =>
    simp only [hg, Bool.not_true, Bool.false_eq_true, if_false] at h
    split at h
    · exact absurd h (by simp)
    · next hn => cases h; exact absurd (show e0.of me.who = true from ho) hn
theorem learnAt_stale (s : State) (me : Knower) (src : List Knower) :
    ∀ x ∈ (learnAt s me src).stale, x.of me.who = true → goneFor x.gone src = false := by
  intro x hx ho
  obtain ⟨x0, -, h⟩ := List.mem_filterMap.mp hx
  cases hg : goneFor x0.gone src with
  | false => simp only [hg, Bool.not_false, if_true, Option.some.injEq] at h; exact h ▸ hg
  | true =>
    simp only [hg, Bool.not_true, Bool.false_eq_true, if_false] at h
    split at h
    · exact absurd h (by simp)
    · next hn => cases h; exact absurd (show x0.of me.who = true from ho) hn

/-! ## Writes by an agent -/

/-- A step of a fold that keeps memories canonical keeps them over the fold. -/
theorem memWf_foldl {α : Type} (f : State → α → State) (h : ∀ s a, s.memWf = true → (f s a).memWf = true) :
    ∀ (l : List α) (s : State), s.memWf = true → (l.foldl f s).memWf = true
  | [], _, g => g
  | a :: r, s, g => memWf_foldl f h r (f s a) (h s a g)
theorem ctxs_foldl {α : Type} (f : State → α → State) (h : ∀ s a, (f s a).ctxs = s.ctxs) :
    ∀ (l : List α) (s : State), (l.foldl f s).ctxs = s.ctxs
  | [], _ => rfl
  | a :: r, s => (ctxs_foldl f h r (f s a)).trans (h s a)

theorem ctx_foldl {α : Type} (k : CtxId) (f : State → α → State) (h : ∀ s a, (f s a).ctx k = s.ctx k) :
    ∀ (l : List α) (s : State), (l.foldl f s).ctx k = s.ctx k
  | [], _ => rfl
  | a :: r, s => (ctx_foldl k f h r (f s a)).trans (h s a)

theorem putWritesBy_memWf (s : State) (w : Knower) (ws : Writes) (h : s.memWf = true) : (putWritesBy s w ws).memWf = true := by
  unfold putWritesBy
  rw [State.note_memWf]
  exact memWf_foldl _ (fun s x g => s.setMem_memWf _ _ g (Mem.set_wf _ _ _ (s.memOf_wf _ g))) _ s h
theorem putWritesBy_ctxs (s : State) (w : Knower) (ws : Writes) : (putWritesBy s w ws).ctxs = s.ctxs :=
  (ViewsOnly.ctxs (note_views _ _ _)).trans (ctxs_foldl _ (fun s _ => s.setMem_ctxs _ _) _ s)

theorem landPost_memWf (s : State) (p : Post) (h : s.memWf = true) : (landPost s p).memWf = true :=
  (ViewsOnly.foldl _ (fun s w => learnAt_views s w _) p.known _).memWf.trans (putWritesBy_memWf s _ _ h)
theorem landPost_ctxs (s : State) (p : Post) : (landPost s p).ctxs = s.ctxs :=
  (ViewsOnly.foldl _ (fun s w => learnAt_views s w _) p.known _).ctxs.trans (putWritesBy_ctxs s _ _)
theorem landPosts_memWf (s : State) (pick : Post → Bool) (h : s.memWf = true) : (landPosts s pick).memWf = true :=
  memWf_foldl _ (fun s p => landPost_memWf s p) _ _ h
@[simp] theorem landPosts_ctxs (s : State) (pick : Post → Bool) : (landPosts s pick).ctxs = s.ctxs :=
  ctxs_foldl _ landPost_ctxs _ _
@[simp] theorem landPosts_ctx (s : State) (pick : Post → Bool) (k : CtxId) : (landPosts s pick).ctx k = s.ctx k := by simp [State.ctx]
@[simp] theorem landMeeting_ctx (s : State) (j k : CtxId) (sp : Space) (a n : Nat) : (landMeeting s j sp a n).ctx k = s.ctx k :=
  landPosts_ctx s _ k

/-- With no write of a copy outstanding nothing is left to perform. -/
theorem landPosts_nil {s : State} (pick : Post → Bool) (h : s.posts = []) : landPosts s pick = s := by
  cases s; subst h; rfl

/-! ## Performing a context's accesses (R120) -/

theorem performPending_memWf (k : CtxId) (s : State) (p : Pending) (h : s.memWf = true) : (performPending k s p).memWf = true := by
  have g := State.writeBy_memWf (landMeeting s k p.space p.addr p.bytes.length) { who := .fe k, since := p.stamp } p.space p.addr
    (pbytes p.poison p.bytes) (landPosts_memWf s _ h)
  unfold performPending
  extract_lets
  split
  · exact g
  · split
    · exact (learn_views _ _ _).memWf.trans g
    · exact (addRel_views _ _).memWf.trans g
@[simp] theorem performPending_ctx (k j : CtxId) (s : State) (p : Pending) : (performPending k s p).ctx j = s.ctx j := by
  have g : ((landMeeting s k p.space p.addr p.bytes.length).writeBy { who := .fe k, since := p.stamp } p.space p.addr
    (pbytes p.poison p.bytes)).ctx j = s.ctx j := by simp
  unfold performPending
  extract_lets
  split
  · exact g
  · split
    · exact ((learn_views _ _ _).ctx j).trans g
    · exact ((addRel_views _ _).ctx j).trans g

theorem performLoad_memWf (k : CtxId) (s : State) (l : LateLoad) (h : s.memWf = true) : (performLoad k s l).memWf = true :=
  landPosts_memWf s _ h
theorem performLoads_memWf (s : State) (k : CtxId) (pick : LateLoad → Bool) (h : s.memWf = true) : (performLoads s k pick).memWf = true :=
  memWf_foldl _ (fun s l => performLoad_memWf k s l) _ _ h
theorem flush_memWf (s : State) (k : CtxId) (h : s.memWf = true) : (flush s k).memWf = true :=
  memWf_foldl _ (fun s p => performPending_memWf k s p) _ _ (performLoads_memWf s k _ h)

/-- One context's accesses reach no other context. -/
theorem performLoads_ctx_ne (s : State) (j k : CtxId) (pick : LateLoad → Bool) (h : j ≠ k) : (performLoads s k pick).ctx j = s.ctx j :=
  (ctx_foldl j (performLoad k) (fun s l => (State.modCtx_ctx_ne _ j k _ h).trans (landMeeting_ctx s k j l.space l.addr l.size)) _ _).trans
    (State.modCtx_ctx_ne s j k _ h)
theorem flush_ctx_ne (s : State) (j k : CtxId) (h : j ≠ k) : (flush s k).ctx j = s.ctx j :=
  (State.modCtx_ctx_ne _ j k _ h).trans
    ((ctx_foldl j _ (fun s p => performPending_ctx k j s p) _ _).trans (performLoads_ctx_ne s j k _ h))

/-- A flush leaves no store of its context outstanding. -/
theorem flush_sbuf (s : State) (k : CtxId) : ((flush s k).ctx k).sbuf = [] := by simp [flush]

/-- A context with no load to perform is left as it is. -/
theorem performLoads_nil {s : State} {k : CtxId} (pick : LateLoad → Bool) (h : (s.ctx k).lateLoads = []) :
    (performLoads s k pick).ctx k = s.ctx k := by
  simp only [performLoads, h, List.filter_nil, List.foldl_nil, State.modCtx_ctx]
  generalize s.ctx k = c at h
  cases c
  subst h
  rfl

end Sys2Proof.Machine
end

