-- ==== Sys2Proof/Tests/Slice0.lean ====
section
/-!
SUPPORT. Tests, all closed by kernel evaluation: words of every instruction laid out by the fields of opcode_table.json decode to it;
ill-formed terms are refused; single steps on small states give the values of the spec's rules and worked cases; and each statement
of Certificates/Slice0 has a witness that meets its hypotheses (names beginning wit_).
-/
namespace Sys2Proof.Tests
set_option Elab.async false
open Sys2Proof Sys2Proof.Machine

/-! ## Small states -/

/-- The next state of an outcome. -/
def after (o : Out) : Option State := match o with | .next t => some t | _ => none

/-- Context 0 of core 0 runs in U mode at 0x10000 with 32 tiles, 4 accumulator slots and the pool fields of R199's worked case, so that
its scratchpad part is pool offsets 0x121000 to 0x220FFF with 64 KiB of private span at the top. -/
def ctx0 : Ctx :=
  { Ctx.clean 16 with
    run := .running, pc := 0x10000, p := 0b00000101
    csr := { Csr.clean 16 with tiles := 32, dslots := 4, poolBase := 0x100, poolReg := 33, poolScr := 256, poolPriv := 16, gsize := 1 } }

/-- The device with that context. -/
def base : State := State.reset.setCtx 0 ctx0

/-- Registers of the current context given values. -/
def regs (s : State) (l : List (Reg5 × Word)) : State :=
  s.modCtx s.cur (fun c => l.foldl (fun c x => c.setReg x.1 x.2) c)

/-- The current context changed. -/
def me (s : State) (f : Ctx → Ctx) : State := s.modCtx s.cur f

/-- The current context in S mode. -/
def smode (s : State) : State := me s (fun c => { c with csr := { c.csr with sact := true } })

/-- Numbers placed in a memory, 4 bytes each. -/
def words (s : State) (sp : Space) (a : Nat) (l : List Nat) : State := s.write sp a (l.flatMap (natBytes 4))

/-- What a register of the current context holds after an instruction. -/
def regAfter (i : Instr) (s : State) (r : Reg5) : Option Word := (after (exec i s)).map (fun t => (t.ctx s.cur).reg r)

/-- A view of the current context after an instruction. -/
def seen {α : Type} (i : Instr) (s : State) (f : Ctx → α) : Option α := (after (exec i s)).map (fun t => f (t.ctx s.cur))

/-- A view of the device after an instruction. -/
def dev {α : Type} (i : Instr) (s : State) (f : State → α) : Option α := (after (exec i s)).map f

/-- The trap code and value that the supervisor handler is given. -/
def trapAfter (i : Instr) (s : State) : Option (Nat × Word × Word) :=
  seen i s (fun c => (c.csr.scauseCode.toNat, c.csr.stval, c.pc))

/-- Every word of a list decodes to its instruction. -/
def decodes (l : List (IWord × Instr)) : Bool := l.all (fun x => decide (decodeTableWord 32 x.1.toNat = some x.2))

/-! ## Decoding: every instruction's word, laid out from match and fields of opcode_table.json (06_encoding) -/

theorem test_decode_integer_1 : decodes [
    (0x0022A880, .add 17 10 17), (0x0022A881, .sub 17 10 17), (0x0022A882, .and 17 10 17), (0x0022A883, .or 17 10 17),
    (0x0022A884, .xor 17 10 17), (0x0022A885, .andn 17 10 17), (0x0022A886, .sll 17 10 17), (0x0022A887, .srl 17 10 17),
    (0x0022A888, .sra 17 10 17), (0x0022A889, .addw 17 10 17), (0x0022A88A, .subw 17 10 17), (0x0022A88B, .min 17 10 17),
    (0x0022A88C, .max 17 10 17), (0x0022A88D, .minu 17 10 17)] = true := by decide +kernel

theorem test_decode_integer_2 : decodes [
    (0x0022A88E, .maxu 17 10 17), (0x0022A00F, .clz 17 10), (0x0022A010, .ctz 17 10), (0x0022A011, .popc 17 10),
    (0x0062A101, .addi 17 10 257), (0x0062A301, .andi 17 10 257), (0x0062A501, .ori 17 10 257), (0x0062A701, .xori 17 10 257),
    (0x0062A901, .slli 17 10 257), (0x0062AB01, .srli 17 10 257), (0x0062AD01, .srai 17 10 257),
    (0x0062AF01, .addiw 17 10 257), (0x00A2A880, .mul 17 10 17), (0x00A2A881, .mulh 17 10 17)] = true := by decide +kernel

theorem test_decode_integer_3 : decodes [
    (0x00A2A882, .mulhu 17 10 17), (0x00A2A883, .mulhsu 17 10 17), (0x00A2A884, .div 17 10 17), (0x00A2A885, .divu 17 10 17),
    (0x00A2A886, .rem 17 10 17), (0x00A2A887, .remu 17 10 17), (0x00A2A888, .mulw 17 10 17), (0x00A2A889, .divw 17 10 17),
    (0x00A2A88A, .remw 17 10 17)] = true := by decide +kernel

theorem test_decode_predicates : decodes [
    (0x00EAA2C0, .cmp 5 10 17 6), (0x00EAA2C1, .cmpi 5 10 17 6), (0x00E88A02, .pand 5 2 5), (0x00E88A03, .por 5 2 5),
    (0x00E88A04, .pxor 5 2 5), (0x00E88005, .pnot 5 2)] = true := by decide +kernel

theorem test_decode_control : decodes [
    (0x01290002, .br 5 65538), (0x012D0002, .brF 5 65538), (0x01420001, .jmp 131073), (0x014A0001, .call 131073),
    (0x01544000, .jr 17), (0x015C4000, .callr 17), (0x01600000, .ret), (0x016C5002, .loopi 17 4098),
    (0x01745002, .loopb 17 4098)] = true := by decide +kernel

theorem test_decode_memory : decodes [
    (0x01A2A101, .ldB 17 10 257), (0x01A2A301, .ldH 17 10 257), (0x01A2A501, .ldW 17 10 257), (0x01A2A701, .ldD 17 10 257),
    (0x01A2A901, .ldBu 17 10 257), (0x01A2AB01, .ldHu 17 10 257), (0x01A2AD01, .ldWu 17 10 257), (0x01A2AF50, .ldaq 17 10 5 1),
    (0x01E2A101, .stB 17 10 257), (0x01E2A301, .stH 17 10 257), (0x01E2A501, .stW 17 10 257), (0x01E2A701, .stD 17 10 257),
    (0x01E2AF50, .strl 17 10 5 1)] = true := by decide +kernel

theorem test_decode_atomics : decodes [
    (0x0222A074, .amoSwap 17 10 1 1 1 2), (0x0222A0F4, .amoAdd 17 10 1 1 1 2), (0x0222A174, .amoAnd 17 10 1 1 1 2),
    (0x0222A1F4, .amoOr 17 10 1 1 1 2), (0x0222A274, .amoXor 17 10 1 1 1 2), (0x0222A2F4, .amoMax 17 10 1 1 1 2),
    (0x0222A374, .amoMin 17 10 1 1 1 2), (0x0222A3F4, .amoMaxu 17 10 1 1 1 2), (0x0222A474, .amoMinu 17 10 1 1 1 2),
    (0x0222A8FB, .cas 17 10 17 1 1 1 5)] = true := by decide +kernel

theorem test_decode_sync : decodes [
    (0x02620100, .fence 17 2), (0x02400881, .qwait 17), (0x02400002, .gbar), (0x02620003, .gbarStep 17), (0x02400004, .yield),
    (0x02400005, .yieldExit), (0x02811000, .abinit 17), (0x02811501, .abarm 17 10), (0x02811082, .abwait 17 1),
    (0x02A2A883, .slwait 17 10 17), (0x02A2A004, .slpop 17 10), (0x02811005, .slfree 17)] = true := by decide +kernel

theorem test_decode_address_and_csr_1 : decodes [
    (0x02E2A880, .lea1 17 10 17), (0x02E2A881, .lea2 17 10 17), (0x02E2A882, .lea4 17 10 17), (0x02E2A883, .lea8 17 10 17),
    (0x02E2A004, .ispace 17 10), (0x02E2A005, .cvspaceOff 17 10), (0x02E2A006, .cvspacePrv 17 10),
    (0x02E2A007, .cvspaceScr 17 10), (0x02E2A008, .cvspaceDsh 17 10), (0x02E20089, .wbase 17 1), (0x03220082, .rdcsr 17 130),
    (0x03011282, .wrcsr 17 130), (0x03220400, .rdts 17), (0x03000681, .trap 129)] = true := by decide +kernel

theorem test_decode_address_and_csr_2 : decodes [
    (0x03000800, .utret), (0x0352A880, .shape 9 10 17), (0x03626001, .shrdLo 17 6), (0x03626002, .shrdHi 17 6),
    (0x03A2A000, .gbind 17 10), (0x03A2A001, .gadv 17 10), (0x03A2A882, .gmask 17 10 17), (0x03A2A003, .gsnap 17 10),
    (0x03A2A884, .gfork 17 10 17), (0x03A2A005, .groll 17 10), (0x03A2A006, .gstat 17 10)] = true := by decide +kernel

theorem test_decode_copies : decodes [
    (0x94151501, .cin 9 10 17 10 1), (0x94551505, .cnestL 9 10 17 10 5), (0x94551509, .cnestGo 9 10 17 10 1),
    (0x94951501, .cgath 9 10 17 10 1), (0x94CD1501, .cpack 9 6 17 10 1), (0x94CD1503, .cunpk 9 6 17 10 1),
    (0x95151501, .cmcast 9 10 17 10 1), (0x95551501, .cfill 9 10 17 10 1)] = true := by decide +kernel

theorem test_decode_matrix : decodes [
    (0x96140000, .mcfg 9 10), (0x964D1000, .mwld 9 6 17), (0x96800000, .mwswap 9), (0x96D51000, .msclA 9 10 17),
    (0x96D40001, .msclW 9 10), (0x970C9503, .mma 9 6 9 10 3), (0x974C0000, .mzero 9 6), (0x978C930F, .mdrain 9 6 9 6 1 1 3)] = true := by decide +kernel

theorem test_decode_scan : decodes [
    (0x98140000, .scfg 9 10), (0x984C9500, .sdecay 9 6 9 10), (0x988C9300, .schunk 9 6 9 6), (0x98CC9300, .sstep 9 6 9 6),
    (0x990C9300, .sout 9 6 9 6), (0x994C9500, .ssnap 9 6 9 10), (0x994C9501, .sfork 9 6 9 10), (0x994C9502, .sroll 9 6 9 10),
    (0x994C0003, .scommit 9 6), (0x998C9000, .spairBf16 9 6 9), (0x998C9001, .spairFp32 9 6 9), (0x998C9002, .spairPair 9 6 9)] = true := by decide +kernel

theorem test_decode_lanes : decodes [
    (0x9A149550, .vld 9 10 9 10 5), (0x9A14955F, .vst 9 10 9 10 5 1 3), (0x9A551550, .vaddF 9 10 17 10 5),
    (0x9A551551, .vsubF 9 10 17 10 5), (0x9A551552, .vmulF 9 10 17 10 5), (0x9A551553, .vfmaF 9 10 17 10 5),
    (0x9A551554, .vfnmaF 9 10 17 10 5), (0x9A551555, .vminF 9 10 17 10 5), (0x9A551556, .vmaxF 9 10 17 10 5),
    (0x9A551027, .vabsF 9 10 17 2), (0x9A551028, .vnegF 9 10 17 2), (0x9A551559, .vcadd 9 10 17 10 5),
    (0x9A55155A, .vcmul 9 10 17 10 5)] = true := by decide +kernel

theorem test_decode_lanes_int : decodes [
    (0x9A951550, .vaddI 9 10 17 10 5), (0x9A951551, .vsubI 9 10 17 10 5), (0x9A951552, .vmulI 9 10 17 10 5),
    (0x9A951553, .vand 9 10 17 10 5), (0x9A951554, .vor 9 10 17 10 5), (0x9A951555, .vxor 9 10 17 10 5),
    (0x9A951556, .vsll 9 10 17 10 5), (0x9A951557, .vsrl 9 10 17 10 5), (0x9A951558, .vsra 9 10 17 10 5),
    (0x9A951559, .vminI 9 10 17 10 5), (0x9A95155A, .vmaxI 9 10 17 10 5), (0x9A95155B, .vaddsI 9 10 17 10 5),
    (0x9A95155C, .vsubsI 9 10 17 10 5)] = true := by decide +kernel

theorem test_decode_compares_masks_reductions_rotations_1 : decodes [
    (0x9AC51550, .vcmpEqF 9 2 17 10 5), (0x9AC51551, .vcmpLtF 9 2 17 10 5), (0x9AC51552, .vcmpLeF 9 2 17 10 5),
    (0x9AC51553, .vcmpUnF 9 2 17 10 5), (0x9AC51554, .vcmpEqI 9 2 17 10 5), (0x9AC51555, .vcmpLtI 9 2 17 10 5),
    (0x9AC51556, .vcmpLtuI 9 2 17 10 5), (0x9AD51557, .vsel 9 10 17 10 5), (0x9AC45158, .mand 9 2 5 2 5),
    (0x9AC45159, .mor 9 2 5 2 5), (0x9AC4515A, .mxor 9 2 5 2 5), (0x9AC4502B, .mnot 9 2 5 2),
    (0x9B151550, .vrotr 9 10 17 10 5), (0x9B151551, .vbcr 9 10 17 10 5)] = true := by decide +kernel

theorem test_decode_compares_masks_reductions_rotations_2 : decodes [
    (0x9B151022, .vredrAdd 9 10 17 2), (0x9B151023, .vredrMax 9 10 17 2), (0x9B151024, .vredrMin 9 10 17 2),
    (0x9B551550, .vrotc 9 10 17 10 5), (0x9B551551, .vbcc 9 10 17 10 5), (0x9B551022, .vredcAdd 9 10 17 2),
    (0x9B551023, .vredcMax 9 10 17 2), (0x9B551024, .vredcMin 9 10 17 2)] = true := by decide +kernel

theorem test_decode_moves_special_1 : decodes [
    (0x9B951550, .vxchC 9 10 17 10 5), (0x9B951551, .vxchR 9 10 17 10 5), (0x9B951552, .vslice 9 10 17 10 5),
    (0x9B951553, .vins 9 10 17 10 5), (0x9B951554, .vext 9 10 17 10 5), (0x9BD51020, .vsfExp2 9 10 17 2),
    (0x9BD51021, .vsfExp 9 10 17 2), (0x9BD51022, .vsfLog2 9 10 17 2), (0x9BD51023, .vsfLn 9 10 17 2),
    (0x9BD51024, .vsfSigmoid 9 10 17 2), (0x9BD51025, .vsfTanh 9 10 17 2), (0x9BD51026, .vsfSilu 9 10 17 2),
    (0x9BD51027, .vsfSoftplus 9 10 17 2), (0x9BD51028, .vsfSinpi 9 10 17 2)] = true := by decide +kernel

theorem test_decode_moves_special_2 : decodes [
    (0x9BD51029, .vsfCospi 9 10 17 2), (0x9C151020, .vrcp 9 10 17 2), (0x9C151021, .vrsq 9 10 17 2),
    (0x9C151002, .vrmsPart 9 10 17), (0x9C151503, .vrms 9 10 17 10)] = true := by decide +kernel

theorem test_decode_conversions_sampling : decodes [
    (0x9C551557, .vcvt 9 10 17 10 5 1 3), (0x9C551088, .vqmx 9 10 17 1), (0x9C8D1550, .vbkt 9 6 17 10 5),
    (0x9C951551, .vmsk 9 10 17 10 5), (0x9C951552, .vrand 9 10 17 10 5)] = true := by decide +kernel

theorem test_decode_parking_copies_out : decodes [
    (0x9D151501, .cout 9 10 17 10 1), (0x9D551501, .credAddf 9 10 17 10 1), (0x9D551503, .credAddbf 9 10 17 10 1),
    (0x9D551505, .credAddi 9 10 17 10 1), (0x9D551507, .credMaxf 9 10 17 10 1), (0x9D551509, .credMinf 9 10 17 10 1),
    (0x9D951500, .cstrm 9 10 17 10), (0x9DD51505, .cnestoL 9 10 17 10 5), (0x9DD51509, .cnestoGo 9 10 17 10 1),
    (0x9CD51000, .vpark 9 10 17), (0x9CD51001, .vunpark 9 10 17)] = true := by decide +kernel

theorem test_decode_ochre : decodes [
    (0x9E151556, .ox 9 10 17 10 5 6), (0x9E4D1500, .oload 9 6 17 10), (0x9E4C0001, .ounld 9 6), (0x9E540002, .ostat 9 10)] = true := by decide +kernel

theorem test_decode_requests_sys_limm_1 : decodes [
    (0x0F22A880, .qrd 17 10 17), (0x0F22A881, .qwr 17 10 17), (0x0F22A002, .qslot 17 10), (0x0F22A883, .qstop 17 10 17),
    (0x0F011504, .qret 17 10), (0x0F011505, .qfault 17 10), (0x0F400000, .sret), (0x0F411001, .escal 17),
    (0x0F411102, .tlbinvVa 17 2), (0x0F400283, .tlbinvTen 5), (0x0F400004, .tlbinvAll), (0x0F400885, .qdrop 17),
    (0x0F411306, .tokset 17 6), (0x0F400887, .parkdrop 1 1)] = true := by decide +kernel

theorem test_decode_requests_sys_limm_2 : decodes [
    (0x0F400008, .wfi), (0x0F400009, .ochinv), (0x0F62000A, .poisclr 17), (0x0F40000B, .snaptrig), (0x0FE00001, .limm 2097153)] = true := by decide +kernel

/-! ## Ill-formed terms: one for each check of WellFormed, which refuses it -/

/-- A shift of 64, condition 10, count registers 0, scope 5, an empty queue mask, code 0, scopes 1 and 4, FIFO 10, register 31 with BAR. -/
theorem test_ill_formed_terms : [Instr.slli 1 2 64, .srli 1 2 64, .srai 1 2 (-1), .cmp 1 2 3 10, .cmpi 1 2 3 10, .loopi 0 5, .loopb 0 5,
    .ldaq 1 2 5 3, .strl 1 2 5 3, .amoAdd 1 2 1 0 0 5, .cas 1 2 3 1 0 0 7, .fence 1 5, .qwait 0, .wbase 1 0, .tlbinvVa 1 1, .tlbinvTen 4,
    .qdrop 0, .tokset 1 10, .parkdrop 0 0, .poisclr 0, .cin 0 1 2 31 1, .cpack 0 1 2 31 1, .cmcast 0 31 2 3 0, .cmcast 0 1 2 31 1,
    .cnestL 0 1 2 3 6, .cnestoL 0 1 2 3 7, .mdrain 0 1 2 1 0 0 0, .vslice 0 1 31 2 0, .vqmx 0 31 1 0, .vcvt 0 1 2 9 0 0 0].all
      (fun i => !i.wf) = true := by decide +kernel

/-- The neighbours inside each limit. -/
theorem test_well_formed_terms : [Instr.slli 1 2 63, .cmp 1 2 3 9, .loopi 1 0, .loopb 1 0, .ldaq 1 2 4 3, .amoAdd 1 2 1 0 0 4, .fence 1 4,
    .qwait 1, .wbase 1 1, .tlbinvVa 1 2, .tlbinvTen 3, .qdrop 16, .tokset 1 9, .parkdrop 1 0, .poisclr 1, .cin 0 1 2 31 0, .cin 0 1 2 30 1,
    .cmcast 0 30 2 3 0, .cnestL 0 1 2 3 5, .mdrain 0 1 2 0 0 0 0, .mdrain 0 1 2 1 1 0 0, .vslice 0 1 30 2 0, .vqmx 0 30 1 0,
    .vcvt 0 1 2 8 0 0 0].all (·.wf) = true := by decide +kernel

/-- An ill-formed term that decodes traps ILLEGAL_INSTRUCTION with its word (check 6 of R159). -/
theorem test_ill_formed_traps : trapAfter (.slli 1 2 64) base = some (0x01, wordOf (.slli 1 2 64), 0) := by decide +kernel

/-- Words that are no instruction: a DEP field on an FE word, a reserved major, all ones (R145, R151). -/
theorem test_reserved_words : [0x104A01E8#32, 0x03C00000, 0x05800000, 0x07C00000, 0x09C00000, 0x0E800000, 0x0EC00000, 0x0F800000, 0xFFFFFFFF,
    0x00000012].all (fun w => (decodeTableWord 32 w.toNat).isNone) = true := by decide +kernel

/-! ## Integer, predicate, control and memory instructions: values from the tables and edge cases of R177 to R187 -/

/-- Each instruction leaves the value in the register and moves the pc by 4. -/
def gives (s : State) (l : List (Instr × Reg5 × Word)) : Bool :=
  l.all (fun x => decide (seen x.1 s (fun c => (c.reg x.2.1, c.pc)) = some (x.2.2, s.me.pc + 4)))

/-- s1 = -7, s2 = 2, s3 = 2^63, s4 = all ones, s5 = 0x1_8000_0001, s6 = 68, s7 = 0. -/
def nums : State := regs base [(1, -7), (2, 2), (3, 0x8000000000000000), (4, -1), (5, 0x180000001), (6, 68), (7, 0)]

/-- R177: wraps, sign extension of the w forms, shift amounts taken modulo 64, counts. -/
theorem test_alu : gives nums [(.add 9 4 2, 9, 1), (.sub 9 7 2, 9, -2), (.and 9 5 6, 9, 0), (.or 9 2 6, 9, 70), (.xor 9 4 2, 9, -3),
    (.andn 9 6 2, 9, 68), (.sll 9 2 6, 9, 32), (.srl 9 3 6, 9, 0x0800000000000000), (.sra 9 3 6, 9, 0xF800000000000000),
    (.addw 9 5 7, 9, 0xFFFFFFFF80000001), (.subw 9 7 2, 9, -2), (.min 9 1 2, 9, -7), (.max 9 1 2, 9, 2), (.minu 9 1 2, 9, 2),
    (.maxu 9 1 2, 9, -7), (.clz 9 5, 9, 31), (.clz 9 7, 9, 64), (.ctz 9 3, 9, 63), (.ctz 9 7, 9, 64), (.popc 9 5, 9, 3),
    (.add 0 4 2, 0, 0)] = true := by decide +kernel

/-- R178: the immediate is signed; a shift by 63. -/
theorem test_alu_imm : gives nums [(.addi 9 2 0x1E8, 9, -22), (.andi 9 1 0x1F0, 9, -16), (.ori 9 2 1, 9, 3), (.xori 9 2 0x1FF, 9, -3),
    (.slli 9 2 63, 9, 0), (.srli 9 3 63, 9, 1), (.srai 9 3 63, 9, -1), (.addiw 9 5 0, 9, 0xFFFFFFFF80000001)] = true := by decide +kernel

/-- R179: upper halves by signedness; the table of edge cases. -/
theorem test_multiply_divide : gives nums [(.mul 9 1 2, 9, -14), (.mulh 9 4 4, 9, 0), (.mulhu 9 4 4, 9, -2), (.mulhsu 9 4 4, 9, -1),
    (.div 9 1 2, 9, -3), (.rem 9 1 2, 9, -1), (.div 9 3 4, 9, 0x8000000000000000), (.rem 9 3 4, 9, 0), (.div 9 1 7, 9, -1),
    (.rem 9 1 7, 9, -7), (.divu 9 4 2, 9, 0x7FFFFFFFFFFFFFFF), (.divu 9 1 7, 9, -1), (.remu 9 4 2, 9, 1), (.mulw 9 5 2, 9, 2),
    (.divw 9 5 4, 9, 0x7FFFFFFF), (.remw 9 5 7, 9, 0xFFFFFFFF80000001)] = true := by decide +kernel

/-- R180: `cmpi.ltu p1, s, #-1` compares with all ones; signed and unsigned conditions differ; p0 discards. -/
theorem test_compares : [(Instr.cmp 2 1 2 2, 0b00000101), (.cmp 2 1 2 4, 0b00000001), (.cmp 3 3 3 9, 0b00001101), (.cmpi 1 2 0x1F 4, 0b00000111),
    (.cmpi 1 4 0x1F 4, 0b00000101), (.cmpi 1 1 0x19 0, 0b00000111), (.pand 1 0 2, 0b00000111), (.pand 2 2 1, 0b00000001),
    (.por 2 1 3, 0b00000001), (.pxor 1 0 2, 0b00000101), (.pnot 1 3, 0b00000111), (.cmp 0 1 2 0, 0b00000101)].all
      (fun x => decide (seen x.1 nums (·.p) = some x.2)) = true := by decide +kernel

/-- R181 to R183: targets in words from the instruction's own address, links, counts and the rotation of VRB. -/
theorem test_transfers : [(Instr.br 2 (-2), 0xFFF8, 0), (.br 1 (-2), 0x10004, 0), (.brF 1 4, 0x10010, 0), (.brF 0 4, 0x10004, 0),
    (.jmp 0x20000, 0xFFFFFFFFFFF90000, 0), (.call 1, 0x10004, 0x10004), (.loopi 1 0x3FFF, 0x10004, 0x3FFF), (.loopb 1 (-1), 0xFFFC, 4)].all
      (fun x => decide (seen x.1 (regs base [(1, if x.1 = .loopb 1 (-1) then 5 else 0)]) (fun c => (c.pc, c.reg 1)) = some x.2)) = true := by
  decide +kernel

/-- R183: a loop that ends still rotates the names; R181: register targets; R182: a target in a window, and one off a word. -/
theorem test_transfers_by_register :
    seen (.loopb 1 (-1)) (regs base [(1, 1)]) (fun c => (c.pc, c.csr.vrb, c.reg 1)) = some (0x10004, 15, 0) ∧
    seen (.jr 3) (regs base [(3, 0x20000)]) (·.pc) = some 0x20000 ∧
    seen (.callr 1) (regs base [(1, 0x20000)]) (fun c => (c.pc, c.reg 1)) = some (0x20000, 0x10004) ∧
    seen .ret (regs base [(1, 0xFFFF800000000000)]) (·.pc) = some 0xFFFF800000000000 ∧
    trapAfter (.jr 3) (regs base [(3, 0x800000000000)]) = some (0x08, 0x800000000000, 0) ∧
    trapAfter (.jr 3) (regs base [(3, 0xFFFFF10000000000)]) = some (0x08, 0xFFFFF10000000000, 0) ∧
    trapAfter (.callr 3) (regs base [(3, 0x20002)]) = some (0x09, 0x20002, 0) := by decide +kernel

/-- A page for virtual addresses from 0x10000 on, at the same physical place, as placeWord lays it out. -/
def paged : State := { base.withFetchWord 32 0 with agenda := [] }

/-- R148, R149: limm 1 before addi 5 0 0 gives 512 with the pc 8 on; before add it traps ILLEGAL_INSTRUCTION with its own word. -/
theorem test_limm : seen (.limm 1) (words paged .dmem 0x10004 [0x004A0000]) (fun c => (c.reg 5, c.pc)) = some (512, 0x10008) ∧
    trapAfter (.limm 1) (words paged .dmem 0x10004 [0]) = some (0x01, 0x0FC00001, 0) := by decide +kernel

/-- The worked case of R199, on core 5: window bases, a private offset as a scratchpad pointer, and its window report. -/
def core5 : State := { State.reset.setCtx 20 ctx0 with cur := 20 }

theorem test_windows : seen (.wbase 5 2) core5 (·.reg 5) = some 0xFFFFF11400121000 ∧ seen (.wbase 6 1) core5 (·.reg 6) = some 0xFFFFF11400211000 ∧
    regAfter (.cvspaceOff 7 10) (regs core5 [(10, 0xFFFFF00000000080)]) 7 = some 0x80 ∧
    regAfter (.ispace 11 8) (regs core5 [(8, 0xFFFFF11400211080)]) 11 = some 2 ∧
    regAfter (.ispace 11 8) (regs base [(8, 0xFFFFF11400211080)]) 11 = some 0x22 ∧
    regAfter (.cvspacePrv 7 10) (regs core5 [(10, 0x80)]) 7 = some 0xFFFFF00000000080 ∧
    regAfter (.cvspaceScr 7 10) (regs core5 [(10, 0x121000)]) 7 = some 0xFFFFF11400121000 ∧
    regAfter (.cvspaceDsh 7 10) (regs core5 [(10, 0x40)]) 7 = some 0xFFFFF20000000040 ∧
    trapAfter (.cvspaceScr 7 10) (regs core5 [(10, 0x400000)]) = some (0x03, 0, 0) := by decide +kernel

/-- R196: lea scales its index; R204: a record in two halves. -/
theorem test_lea_shape : gives (regs base [(1, 0x1000), (2, 3)]) [(.lea1 9 1 2, 9, 0x1003), (.lea2 9 1 2, 9, 0x1006), (.lea4 9 1 2, 9, 0x100C),
      (.lea8 9 1 2, 9, 0x1018)] = true ∧
    seen (.shape 15 1 2) (regs base [(1, 0x1000), (2, 3)]) (fun c => c.shape 15) = some 0x00000000000000030000000000001000 ∧
    gives (me base (fun c => { c with shapes := c.shapes.set 4 0x00000000000000030000000000001000 })) [(.shrdLo 9 4, 9, 0x1000), (.shrdHi 9 4, 9, 3)]
      = true := by decide +kernel

/-- The scratchpad holds 0x80FF7F01 and 0x00000002 at its start; s1 points there, s2 to the core's private span. -/
def scr : State := regs (words base (.pool 0) 0x121000 [0x80FF7F01, 2]) [(1, 0xFFFFF10000121000), (2, 0xFFFFF00000000000), (3, 0x1122334455667788)]

/-- R184, R185: sizes, extensions, scaled offsets, the acquire load. -/
theorem test_loads : gives scr [(.ldB 9 1 3, 9, 0xFFFFFFFFFFFFFF80), (.ldBu 9 1 3, 9, 0x80), (.ldH 9 1 1, 9, 0xFFFFFFFFFFFF80FF), (.ldHu 9 1 1, 9, 0x80FF),
    (.ldW 9 1 0, 9, 0xFFFFFFFF80FF7F01), (.ldWu 9 1 0, 9, 0x80FF7F01), (.ldD 9 1 0, 9, 0x0000000280FF7F01), (.ldaq 9 1 2 2, 9, 0x80FF7F01),
    (.ldB 0 1 3, 0, 0)] = true := by decide +kernel

/-- The checks of R184 in their order: R107, FOREIGN_SCRATCH, bounds, alignment. -/
theorem test_load_traps : [((0x0000F10000000000 : Word), 0x08), (0xFFFFF10400121001, 0x0B), (0xFFFFF10000120FF9, 0x0A), (0xFFFFF10000121001, 0x09),
    (0xFFFFF00000010000, 0x0A), (0xFFFFF20000000000, 0x0A), (0x10001, 0x09), (0x10000, 0x0D)].all
      (fun x => decide (trapAfter (.ldD 9 1 0) (regs base [(1, x.1)]) = some (x.2, x.1, 0))) = true := by decide +kernel

/-- R184, R120: a store is seen by its own context at once and by memory when it is performed; a strl is buffered with its scope. -/
theorem test_stores : dev (.stW 3 1 1) scr (fun t => (bytesNat (viewBytes t 0 (.pool 0) 0x121000 8), t.readNat (.pool 0) 0x121000 8))
      = some (0x5566778880FF7F01, 0x0000000280FF7F01) ∧
    dev (.stB 3 2 (-0)) scr (fun t => (viewByte t 0 (.pool 0) 0x211000).val) = some 0x88 ∧
    dev (.stH 3 1 1) scr (fun t => bytesNat (viewBytes t 0 (.pool 0) 0x121000 4)) = some 0x77887F01 ∧
    dev (.stD 3 1 0) scr (fun t => bytesNat (viewBytes t 0 (.pool 0) 0x121000 8)) = some 0x1122334455667788 ∧
    dev (.strl 3 1 2 1) scr (fun t => (bytesNat (viewBytes t 0 (.pool 0) 0x121000 8), (t.ctx 0).sbuf.map (·.rel))) = some (0x0000000280FF7788, [some 1]) := by decide +kernel

/-- R186, R187: the old value, sign-extended, and the new one in memory; a failed cas writes nothing. -/
theorem test_atomics : [(Instr.amoSwap 3 1 0 0 0 0, 0x55667788), (.amoAdd 3 1 0 0 0 0, 0xD665F689), (.amoAnd 3 1 0 0 0 0, 0x667700),
    (.amoOr 3 1 0 0 0 0, 0xD5FF7F89), (.amoXor 3 1 0 0 0 0, 0xD5990889), (.amoMax 3 1 0 0 0 0, 0x55667788), (.amoMin 3 1 0 0 0 0, 0x80FF7F01),
    (.amoMaxu 3 1 0 0 0 0, 0x80FF7F01), (.amoMinu 3 1 0 0 1 0, 0x55667788), (.cas 3 1 2 0 0 0 0, 0x80FF7F01)].all
      (fun x => decide (dev x.1 scr (fun t => ((t.ctx 0).reg 3, t.readNat (.pool 0) 0x121000 8))
        = some (0xFFFFFFFF80FF7F01, 0x200000000 + x.2))) = true := by decide +kernel

theorem test_cas_hit : dev (.cas 3 1 2 0 1 1 3) (regs scr [(3, 0xABCD80FF7F01)]) (fun t => ((t.ctx 0).reg 3, t.readNat (.pool 0) 0x121000 4))
    = some (0xFFFFFFFF80FF7F01, 0) := by decide +kernel

/-! ## Numbers: the examples and limits of 03_numerics -/

/-- R70's example: two sums of 2^-24 on 1.0, plain and compensated, normalised and rounded to a frame. -/
theorem test_pairs : (add32 0x3F800000 0x33800000).1 = 0x3F800000 ∧
    (twosumAcc 0x3F800000 0 (num32 0x33800000)).1 = (0x3F800000, 0x33800000) ∧
    (twosumAcc 0x3F800000 0x33800000 (num32 0x33800000)).1 = (0x3F800000, 0x34000000) ∧
    pairNorm 0x3F800000 0x34000000 = ((0x3F800001, 0), 0) := by decide +kernel

/-- R59's example, an MXINT8 block whose largest magnitude is 7.96875. -/
theorem test_quantise_mxint8 : quantise 12 ([0x40FF0000, 0x40A00000, 0xBE99999A, 0x3DCCCCCD].map num32 ++ List.replicate 28 (num32 0))
    = (0x81, [127, 80, 0xFB, 2] ++ List.replicate 28 0, SA ||| NX) := by decide +kernel

/-- R59: a NaN makes the whole block NaN. -/
theorem test_quantise_nan : quantise 12 (num32 0x7FC00000 :: List.replicate 31 (num32 0x3F800000)) = (0xFF, List.replicate 32 0, NV) := by
  decide +kernel

/-- R81, R82: zeros, infinities, the saturated reciprocal, a subnormal result, one third, a negative root. -/
theorem test_vrcp_vrsq : vrcp32 0 = (0x7F800000, DZ) ∧ vrcp32 0x80000000 = (0xFF800000, DZ) ∧ vrcp32 0xFF800000 = (0x80000000, 0) ∧
    vrcp32 1 = (0x7F7FFFFF, OF ||| NX) ∧ vrcp32 0x7F000000 = (0x00400000, 0) ∧ vrcp32 0x40400000 = (0x3EAAAAAB, NX) ∧
    vrsq32 0x40800000 = (0x3F000000, 0) ∧ vrsq32 0xC0800000 = (0x7FC00000, NV) ∧ vrsq32 0x80000000 = (0xFF800000, DZ) := by decide +kernel

/-- R79: exact cases and limits of the table, with their flags. -/
theorem test_vsf_limits : vsf .exp2 0xC3150000 = (1, 0) ∧ vsf .exp2 0x42FE0000 = (0x7F000000, 0) ∧ vsf .exp2 0x43000000 = (0x7F800000, OF ||| NX) ∧
    vsf .exp 0x80000000 = (0x3F800000, 0) ∧ vsf .log2 0x41000000 = (0x40400000, 0) ∧ vsf .log2 0x80000000 = (0xFF800000, DZ) ∧
    vsf .ln 0xBF800000 = (0x7FC00000, NV) ∧ vsf .ln 0x3F800000 = (0, 0) ∧ vsf .sigmoid 0x42C80000 = (0x3F800000, NX) ∧
    vsf .tanh 0xFF800000 = (0xBF800000, 0) ∧ vsf .silu 0xC2E00000 = (0x80000000, UF ||| NX) ∧ vsf .softplus 0x42200000 = (0x42200000, NX) ∧
    vsf .sinpi 0xC0000000 = (0x80000000, 0) ∧ vsf .cospi 0x40400000 = (0xBF800000, 0) ∧ vsf .cospi 0x3F000000 = (0, 0) ∧
    vsf .sinpi 0x7F800000 = (0x7FC00000, NV) := by decide +kernel

/-- R79, R80: e and ln 2 rounded to nearest. -/
theorem test_vsf_rounded : vsf .exp 0x3F800000 = (0x402DF854, NX) ∧ vsf .ln 0x40000000 = (0x3F317218, NX) := by decide +kernel

/-- R77: a factor that fades, and the exact ones. -/
theorem test_fade : fade 0xC3160000 = (0, FD) ∧ fade 0 = (0x3F800000, 0) ∧ fade 0xBF800000 = (0x3F000000, 0) ∧ fade 0x7F800000 = (0x7FC00000, NV) := by
  decide +kernel

/-- R60: NaN gives 0, an infinity clamps with SA alone, a finite clamp sets NX too; INT32 lanes that saturate. -/
theorem test_to_integer : vcvtFn 0 true .rne 0x7FC00000 = (0, NV) ∧ vcvtFn 0 true .rne 0x7F800000 = (0x7FFFFFFF, SA) ∧
    vcvtFn 0 true .rne 0xCF800000 = (0x80000000, SA ||| NX) ∧ vcvtFn 0 true .rne 0x40200000 = (2, NX) ∧
    vcvtFn 1 true .rne 0x01000001 = (0x4B800000, NX) ∧ laneFn .addsI 0 0x7FFFFFFF 1 = (0x7FFFFFFF, SA) ∧
    laneFn .subsI 0 0x80000000 1 = (0x80000000, SA) := by decide +kernel

/-- R64: signed zeros, the order of minimum and maximum, and 0 x infinity. -/
theorem test_fp32 : add32 0x80000000 0x80000000 = (0x80000000, 0) ∧ add32 0x3F800000 0xBF800000 = (0, 0) ∧ min32 0 0x80000000 = 0x80000000 ∧
    mul32 0 0x7F800000 = (0x7FC00000, NV) ∧ mul32 0x7F7FFFFF 0x40000000 = (0x7F800000, OF ||| NX) ∧
    fma32 0x3F800001 0x3F7FFFFF 0xBF800000 = (0x337FFFFE, 0) := by decide +kernel

/-- R291 runs Philox 4x32 with 10 rounds; its published answers for the zero counter and key and for all ones. -/
theorem test_philox : philox 0 0 [0, 0, 0, 0] = [0x6627E8D5, 0xE169C58D, 0xBC57AC4C, 0x9B00DBD8] ∧
    philox 0xFFFFFFFF 0xFFFFFFFF [0xFFFFFFFF, 0xFFFFFFFF, 0xFFFFFFFF, 0xFFFFFFFF] = [0x408F276D, 0x41C83B0E, 0xA20BC7C6, 0x6D5451FD] := by
  decide +kernel

/-! ## Ordering, barriers, rings, special registers, traps and SYS -/

/-- A barrier object of R134 at the start of the scratchpad part, which s1 names; s2 = 4096. -/
def bar (n : Nat) : State := regs (base.write (.pool 0) 0x121000 (natBytes 8 n)) [(1, 0xFFFFF10000121000), (2, 4096)]

/-- R135: abarm keeps PHASE and arms EXPECT and PEND; 0 and 2^28 are refused; abinit writes 0. -/
theorem test_abarm : dev (.abarm 1 2) (bar 0x8000000000000000) (·.readNat (.pool 0) 0x121000 8) = some 0xA000010000001000 ∧
    dev (.abinit 1) (bar 0xA000010000001000) (·.readNat (.pool 0) 0x121000 8) = some 0 ∧
    trapAfter (.abarm 1 0) (bar 0) = some (0x03, 0, 0) ∧
    trapAfter (.abarm 1 2) (regs (bar 0) [(2, 0x10000000)]) = some (0x03, 0, 0) := by decide +kernel

/-- R137: the table by state and phase, and R136's arrivals at the boundary of PEND. -/
theorem test_abwait : seen (.abwait 1 1) (bar 0x8000000000000000) (fun c => (c.run, c.pc)) = some (.running, 0x10004) ∧
    seen (.abwait 1 1) (bar 0x2000010000001000) (·.run) = some (.waiting (.abwait 0xFFFFF10000121000 1)) ∧
    trapAfter (.abwait 1 1) (bar 0) = some (0x1D, 0xFFFFF10000121000, 0) ∧
    trapAfter (.abwait 1 0) (bar 0x4000000000000000) = some (0x1C, 0xFFFFF10000121000, 0) ∧
    trapAfter (.abwait 1 0) (bar 0x0100000000000000) = some (0x03, 0, 0) ∧
    (arrivalOn 0x2000010000001000 4095).toNat = 0x2000010000000001 ∧ (arrivalOn 0x2000010000001000 4096).toNat = 0xA000010000001000 ∧
    (arrivalOn 0x2000010000001000 4097).toNat = 0x4000010000000000 := by decide +kernel

/-- A ring of 4 slots of 64 bytes from scratchpad offset 0x1000 on (R138), with counters. -/
def ring (resv filled taken freed : Nat) : State :=
  regs (words base (.pool 0) 0x121000 [0x122000, 0, 64 + 2 ^ 22 * 2, 0, resv, filled, taken, freed]) [(1, 0xFFFFF10000121000), (2, 2), (3, 5)]

/-- R141: counting is modulo 2^32; a pop gives the slot's pointer; an empty ring waits; freeing what was not taken traps. -/
theorem test_ring : dev (.slpop 9 1) (ring 1 1 0xFFFFFFFF 0xFFFFFFFF) (fun t => ((t.ctx 0).reg 9, t.readNat (.pool 0) 0x121018 4))
      = some (0xFFFFF100001220C0, 0) ∧
    seen (.slpop 9 1) (ring 4 4 4 4) (·.run) = some (.waiting (.slpop 9 0xFFFFF10000121000)) ∧
    regAfter (.slwait 9 1 2) (ring 6 6 3 3) 9 = some 3 ∧ seen (.slwait 9 1 2) (ring 6 4 3 3) (·.run) = some (.waiting (.slwait 9 0xFFFFF10000121000 2)) ∧
    trapAfter (.slwait 9 1 3) (ring 6 6 3 3) = some (0x03, 0, 0) ∧
    dev (.slfree 1) (ring 6 6 3 2) (·.readNat (.pool 0) 0x12101C 4) = some 3 ∧
    trapAfter (.slfree 1) (ring 6 6 3 3) = some (0x1F, 0xFFFFF10000121000, 0) := by decide +kernel

/-- R129: a fence reports its bits and a count that saturates, and clears them; R34: qwait of empty queues; R190. -/
theorem test_fence_qwait_yield : seen (.fence 9 3) (me base (fun c => { c with fails := ⟨0b0110, 255⟩, lateFails := ⟨0b0001, 9⟩ }))
      (fun c => (c.reg 9, c.fails.count, c.pc)) = some (0xFF07, 0, 0x10004) ∧
    trapAfter (.fence 9 5) base = some (0x01, wordOf (.fence 9 5), 0) ∧ seen (.qwait 31) base (·.pc) = some 0x10004 ∧
    trapAfter (.qwait 0) base = some (0x01, wordOf (.qwait 0), 0) ∧ seen .yield base (·.pc) = some 0x10004 := by decide +kernel

/-- R35, R189: a gang of one; a member of a gang of two waits; R191. -/
theorem test_gang : seen .gbar base (·.pc) = some 0x10004 ∧
    seen .gbar (me base (fun c => { c with csr := { c.csr with gsize := 2 } })) (fun c => (c.run, c.arr)) = some (.waiting .gbar, true) ∧
    trapAfter (.gbarStep 3) base = some (0x01, wordOf (.gbarStep 3), 0) ∧ seen .yieldExit base (·.run) = some .finished := by decide +kernel

/-- R47, R104, R105, R365: field layouts of GANGPOS, ACCFREE, POOLB, UTVEC and QWDOG, and the clamp of QWDOG. -/
theorem test_csrs : seen (.rdcsr 9 1) (me core5 (fun c => { c with csr := { c.csr with gsize := 64, rank := 5 } })) (·.reg 9) = some 0x400514 ∧
    regAfter (.rdcsr 9 0xA) base 9 = some 0x100010008500 ∧
    seen (.wrcsr 1 0x18) (regs base [(1, 0x20003)]) (fun c => (c.csr.utvecBase, c.csr.utvecEn, c.csr.utvecAct)) = some (0x8000, true, false) ∧
    seen (.wrcsr 1 0x10) (regs (me base (fun c => { c with csr := { c.csr with nflag := 0x7F } })) [(1, 5)]) (·.csr.nflag) = some 0x7A ∧
    seen (.wrcsr 1 0x108) (regs (smode base) [(1, 5)]) (·.csr.qwdog) = some 0x10000 ∧
    trapAfter (.rdcsr 9 0x100) base = some (0x04, wordOf (.rdcsr 9 0x100), 0) ∧
    trapAfter (.rdcsr 9 0x00C) base = some (0x01, wordOf (.rdcsr 9 0x00C), 0) ∧
    regAfter (.rdts 9) { base with tsc := 77 } 9 = some 77 := by decide +kernel

/-- R361, R203: trap #n saves the pc, the code and the value, and goes to STVEC in S mode; R46: a designated trap goes to UTVEC. -/
theorem test_trap_entry :
    seen (.trap 0x5A) (me base (fun c => { c with csr := { c.csr with stvecBase := 0x8000 } }))
      (fun c => (c.pc, c.csr.sact, c.csr.sepc, c.csr.scauseCode, c.csr.stval)) = some (0x20000, true, 0x4000, 0x05, 0x5A) ∧
    seen (.ldD 9 1 0) (regs (me base (fun c => { c with csr := { c.csr with utvecBase := 0x8000, utvecEn := true } })) [(1, 0xFFFFF10400121000)])
      (fun c => (c.pc, c.csr.sact, c.csr.utvecAct, c.csr.uepc, c.csr.ucauseCode, c.csr.utval))
      = some (0x20000, false, true, 0x4000, 0x0B, 0xFFFFF10400121000) := by decide +kernel

/-- R360, R363: a trap in S mode escalates, with the record of R404. -/
theorem test_escalation : dev (.trap 1) (smode base) (fun t => ((t.ctx 0).run, (t.die 0).escRing.map (fun r => (r.code, r.smode, r.value, r.pc))))
      = some (.escalated (some .softwareTrap), [(0x05, true, 1, 0x10000)]) := by decide +kernel

theorem test_escal : dev (.escal 1) (regs (smode base) [(1, 0x77)]) (fun t => ((t.ctx 0).run, (t.ctx 0).pc, (t.die 0).escRing.map (fun r => (r.code, r.value))))
      = some (.escalated none, 0x10004, [(0, 0x77)]) := by decide +kernel

/-- R48, R362: the returns. -/
theorem test_returns :
    seen .utret (me base (fun c => { c with csr := { c.csr with utvecAct := true, uepc := 0x5000 } })) (fun c => (c.pc, c.csr.utvecAct)) = some (0x14000, false) ∧
    trapAfter .utret base = some (0x01, wordOf .utret, 0) ∧
    seen .sret (me (smode base) (fun c => { c with csr := { c.csr with sepc := 0x5000 } })) (fun c => (c.pc, c.csr.sact)) = some (0x14000, false) ∧
    trapAfter .sret base = some (0x04, wordOf .sret, 0) := by decide +kernel

/-- R175, R368: a poisoned source traps POISON_CONSUMED with value 0, and poisclr keeps the value. -/
def poisoned : State := me base (fun c => c.setRegP 1 42 true)

theorem test_poison : trapAfter (.add 2 1 1) poisoned = some (0x18, 0, 0) ∧
    seen (.poisclr 1) (smode poisoned) (fun c => (c.reg 1, c.regPoison 1)) = some (42, false) ∧
    seen (.fence 1 3) poisoned (fun c => (c.reg 1, c.regPoison 1)) = some (0, false) := by decide +kernel

/-- R368 to R371: tokset, qdrop, wfi, snaptrig, ochinv, parkdrop. -/
theorem test_sys : seen (.tokset 1 9) (regs (smode base) [(1, 8)]) (·.tokens[9]) = some 8 ∧
    trapAfter (.tokset 1 9) base = some (0x04, wordOf (.tokset 1 9), 0) ∧
    seen (.qdrop 8) (smode (me base (fun c => c.enqueue .vx 0 (plainOp .relay) 0))) (fun c => ((c.queue .vx).entries.length, c.pc))
      = some (0, 0x10004) ∧
    seen .wfi (smode base) (·.run) = some (.waiting .wfi) ∧
    seen .wfi (smode (me base (fun c => { c with csr := { c.csr with note := true } }))) (fun c => (c.pc, c.csr.note)) = some (0x10004, true) ∧
    dev .snaptrig { smode base with tsc := 9 } (fun t => (t.snapshot.ts, t.snapLast)) = some (9, some 9) ∧
    seen .ochinv (smode base) (·.pc) = some 0x10004 ∧ seen (.parkdrop 1 1) (smode base) (·.pc) = some 0x10004 := by decide +kernel

/-- R369, R427: tlbinv.va drops the page that holds the address, of the own partition only. -/
theorem test_tlbinv :
    let e : TlbEntry := { part := 0, lg := 16, vpn := 1, leaf := 0 }
    let s := regs ((smode base).setCore 0 { base.core 0 with tlb := [e, { e with vpn := 2 }, { e with part := 1 }] }) [(1, 0x1FFFF)]
    dev (.tlbinvVa 1 2) s (fun t => (t.core 0).tlb.map (fun x => (x.part, x.vpn))) = some [(0, 2), (1, 1)] ∧
    dev .tlbinvAll s (fun t => (t.core 0).tlb.length) = some 0 := by decide +kernel

/-- R312, R314: operands with a wrong die or reserved bits trap; a sent instruction is outstanding; gstat of another partition's automaton. -/
theorem test_madder : seen (.gadv 1 2) (regs base [(1, 5), (2, 9)]) (·.gops) = some [(.adv 5 9, 0)] ∧
    trapAfter (.gadv 1 2) (regs base [(1, 0x205), (2, 9)]) = some (0x03, 0, 0) ∧ trapAfter (.gsnap 1 2) (regs base [(1, 5), (2, 8)]) = some (0x03, 0, 0) ∧
    seen (.gbind 1 2) (regs base [(1, 5), (2, 0x40)]) (·.gops) = some [(.bind 5 0x40, 0)] ∧
    seen (.gsnap 1 2) (regs base [(1, 5), (2, 7)]) (·.gops) = some [(.snap 5 7, 0)] ∧ seen (.groll 1 2) (regs base [(1, 5), (2, 7)]) (·.gops) = some [(.roll 5 7, 0)] ∧
    seen (.gfork 1 2 3) (regs base [(1, 5), (2, 7), (3, 6)]) (·.gops) = some [(.fork 5 7 6, 0)] ∧
    seen (.gmask 1 2 0) (regs base [(1, 5), (2, 0xFFFFF10000121000)]) (·.gops) = some [(.mask 5 0x121000 none, 0)] ∧
    regAfter (.gstat 9 1) (regs base [(1, 5)]) 9 = some 0x4000000000 ∧
    regAfter (.gstat 9 1) (regs (base.setAut 0 5 { Automaton.unbound with
      part := some 0, bound := true, conf := { state := 3, stack := [1], fin := true }, rej := true }) [(1, 5)]) 9 = some 0x8C00010003 := by decide +kernel


/-! ## Engine entries: dispatched, started, retired -/

/-- Dispatch an engine instruction, then start and retire the head of its queue. -/
def through (i : Instr) (q : EngineQ) (s : State) : Option State := do
  let a ← after (exec i s)
  let b ← after (exec .evEntryStart { a with arg := { a.arg with ctx := s.cur, q := q } })
  after (exec .evEntryRetire b)

/-- A shape record by its fields (R92). -/
def record (ilv fmt space stride cols rows base : Nat) : ShapeRec :=
  BitVec.ofNat 128 (base + rows * 2 ^ 32 + cols * 2 ^ 47 + stride * 2 ^ 64 + space * 2 ^ 110 + fmt * 2 ^ 112 + ilv * 2 ^ 117)

/-- Shape records given to context 0. -/
def recs (s : State) (l : List (Reg4 × ShapeRec)) : State :=
  me s (fun c => l.foldl (fun c x => { c with shapes := c.shapes.set x.1.toNat x.2 (by omega) }) c)

/-- The worked case of 10_isa_vector, a tile reversed by columns with 63 and then by rows with 15: v6 and v8. R283's other moves. -/
theorem test_moves : moveFrom (.xchC 63) 0 1 = (0, 62) ∧ moveFrom (.xchR 15) 0 62 = (15, 62) ∧ moveFrom (.rotr 1) 3 63 = (3, 0) ∧
    moveFrom (.bcr 60) 3 1 = (3, 60) ∧ moveFrom (.rotc 1) 15 7 = (0, 7) ∧ moveFrom (.bcc 2) 15 7 = (2, 7) := by decide +kernel

/-- R282: a sum is rounded once; the greatest lane, with -0 below +0 and NaN lowest. -/
theorem test_reduce_lanes : let l := fun (b : List (BitVec 32)) => b.map (fun x => ({ bits := x, poison := false } : Lane))
    (reduce .add (l [0x3F800000, 0x33000000, 0x33000000])).1.bits = 0x3F800000 ∧ (reduce .add (l [0x4B800000, 0x3F800000, 0x3F800000])).1.bits = 0x4B800001 ∧
    (reduce .max (l [0x80000000, 0x7FC00000, 0])).1.bits = 0 ∧ (reduce .min (l [0, 0x80000000, 0x3F800000])).1.bits = 0x80000000 := by
  decide +kernel

/-- R276, R278: lane functions. -/
theorem test_lanes : laneFn .fmaF 0x3F800000 0x40000000 0x40400000 = (0x40E00000, 0) ∧ laneFn .addI 0 0x7FFFFFFF 1 = (0x80000000, 0) ∧
    laneFn .sraI 0 0x80000000 33 = (0xC0000000, 0) ∧ laneFn .fnmaF 0x3F800000 0x40000000 0x40400000 = (0xC0A00000, 0) := by decide +kernel

/-- R27, R31: an entry with SN set runs, pushes its token toward CO and leaves the queue. -/
theorem test_entry : (through (.mand 1 5 3 2 0) .vx (me base (fun c => { c with masks := (c.masks.set 3 0b110).set 2 0b011 }))).map
      (fun t => ((t.ctx 0).mask 5, (t.ctx 0).tokens.toList, ((t.ctx 0).queue .vx).entries.length, ((t.ctx 0).queue .vx).next))
    = some (0b010, [0, 0, 0, 1, 0, 0, 0, 0, 0, 0], 0, 1) := by decide +kernel

/-- R28, R30: an entry that waits for a token does not start without one, and pops it. -/
theorem test_entry_waits :
    let s := (after (exec (.mand 8 5 3 2 0) base)).map (fun t => { t with arg := { t.arg with q := .vx } })
    s.map (fun t => startable t 0 .vx == none) = some true ∧
    (s.bind (fun t => after (exec .evEntryStart (me t (fun c => { c with tokens := c.tokens.set 2 2 }))))).map
      (fun t => ((t.ctx 0).tokens.toList, ((t.ctx 0).queue .vx).entries.map (·.done))) = some ([0, 0, 1, 0, 0, 0, 0, 0, 0, 0], [true]) := by
  decide +kernel

/-- R241: bit p of element j of a plane-packed row is bit j mod 8 of byte 8 p + j / 8 of its segment. -/
theorem test_plane_packed :
    let m := (base.write (.pool 0) (0x121000 + 128 + 8 * 14 + 1) (natBytes 1 0x20)).emem 0
    let h := shapeFields (record 1 1 0 128 64 64 0)
    planeElem m h 0 0 1 13 = (0x4000, false) ∧ planeElem m h 0 0 1 12 = (0, false) := by decide +kernel

/-- R71: two groups of 32 products, rounded after each group. -/
theorem test_accumulate : accGroup false (0x4B800000, 0) [.fin false 1 0, .fin false 1 0] = (0x4B800001, 0) ∧
    accGroup false (0x4B800000, 0) [.fin false 1 0] = (0x4B800000, 0) ∧ accInt (0xFFFFFFFF, 0) [.fin false 3 0] = (2, 0) := by decide +kernel

/-- R64: an exact zero sum is -0 in RD and +0 in RNE; R76: a NaN in the decays' sums gives NaN with NV. -/
theorem test_zero_sum_and_decay : drainValue .rd 13 0xBF8000003F800000 0 = (.fin true 0 0, 0) ∧
    drainValue .rne 13 0xBF8000003F800000 0 = (.fin false 0 0, 0) ∧ sumDecay 0x7FC00000 0x3F800000 = (0x7FC00000, NV) := by decide +kernel

/-- 10_isa_vector, RMS over a row of 128: of the row whose elements are 3, the reciprocal root mean square is 1/3 rounded. -/
theorem test_rms : rmsRow 0x44900000 0 128 0 = (0x3EAAAAAB, NX) := by decide +kernel

/-- The image of 12_ochre's leaky gate, with NAME left 0. -/
def leaky : List Nat :=
  [0, 64, 0x00010103, 0, 0x3F020003, 0, 0, 0, 0x3F302001, 0, 0x3E000000, 0, 0x3F302004, 0, 0, 0, 0x20000107, 0, 0, 0]

/-- The leaky gate maps -256.0 to -32.0 and keeps 248.0; an image whose declared latency is 2 is refused. -/
theorem test_leaky :
    let b := pbytes false (leaky.flatMap (natBytes 4) |>.map (·.val))
    ((parseGraph b 3 1 1).map (fun g => ((evalGraph g [(0xC3800000, false)]).1, (evalGraph g [(0x43780000, false)]).1)))
      = some ((0xC2000000, false), (0x43780000, false)) ∧ parseGraph b 2 1 1 = none := by decide +kernel

/-- R325 to R330: an oload from the private span and the status of its slot. -/
theorem test_oload : (through (.oload 0 5 5 6) .vx (regs (words base (.pool 0) 0x211000 leaky) [(5, 0xFFFFF00000000000), (6, 0x00030101)])).map
      (fun t => ((t.ctx 0).oslots[5].cur, ((t.ctx 0).oslots[5].planes[0]).st, slotStatus (t.ctx 0).oslots[5], (t.ctx 0).csr.scauseCode))
    = some (0, .loaded, 0x80030101, 0) := by decide +kernel

/-- R264: FP32 elements to pairs. -/
theorem test_spair :
    let s := recs (words base (.pool 0) 0x121000 [0x3F800000, 0xC0000000])
      [(1, record 0 0 0 8 2 1 0), (2, record 0 13 0 16 2 1 0x100)]
    (through (.spairPair 0 2 1) .sq s).map (fun t => (t.readNat (.pool 0) 0x121100 8, t.readNat (.pool 0) 0x121108 8))
      = some (0x3F800000, 0xC0000000) := by decide +kernel

/-- R222: with 10 columns in groups of 4, the elements at positions 0 to 9. -/
theorem test_interleave : (List.range 10).map (ilvElem 4 10) = [0, 4, 8, 1, 5, 9, 2, 6, 3, 7] := by decide +kernel

/-! ## Copies -/

/-- Dispatch a copy, start it, move `n` granules, and end it. -/
def copied (i : Instr) (q : EngineQ) (n : Nat) (s : State) : Option State := do
  let a ← after (exec i s)
  let b ← after (exec .evEntryStart { a with arg := { a.arg with ctx := s.cur, q := q } })
  let c ← (List.range n).foldlM (fun s _ => after (exec .evCopyGranule s)) b
  after (exec .evCopyComplete c)

/-- R213, R216, R136: a fill of 12 bytes with an arrival of as many bytes at its barrier. -/
theorem test_fill :
    let s := regs (base.write (.pool 0) 0x122000 (natBytes 8 0x20000000C000000C))
      [(5, 0xFFFFF10000121004), (6, 0x1122334455667788), (8, 12), (9, 0xFFFFF10000122000)]
    let a := copied (.cfill 0 5 6 8 1) .ci 1 s
    a.map (fun t => (t.readNat (.pool 0) 0x121000 8, t.readNat (.pool 0) 0x121008 8, t.readNat (.pool 0) 0x122000 8))
      = some (0x5566778800000000, 0x5566778811223344, 0xA0000000C000000C) ∧
    a.map (fun t => ((t.ctx 0).queue .ci).entries.map (·.done)) = some [true] := by decide +kernel

/-- R225: element sums of a reducing copy. -/
theorem test_reduce : credElem .addf 0x3F800000 0x3F800000 = (0x40000000, 0) ∧ credElem .addi 0xFFFFFFFF 2 = (1, 0) ∧
    credElem .maxf 0xBF800000 0x3F800000 = (0x3F800000, 0) ∧ credElem .minf 0 0x80000000 = (0x80000000, 0) := by decide +kernel

/-- R140: a cstrm claims the slot of RESV; R211: a copy whose source is past the scratchpad part traps at dispatch. -/
theorem test_stream :
    let s := regs (words base (.pool 0) 0x121000 [0x122000, 0, 64 + 2 ^ 22 * 2, 0, 3, 3, 3, 0])
      [(5, 0xFFFFF10000121000), (6, 0xFFFFF10000130000), (8, 64)]
    let a := (after (exec (.cstrm 0 5 6 8) s)).bind (fun t => after (exec .evEntryStart { t with arg := { t.arg with ctx := 0, q := .co } }))
    (a.bind (fun t => after (exec .evStreamSlotClaim { t with arg := { t.arg with producer := .stream 0 } }))).map
      (fun t => (t.readNat (.pool 0) 0x121010 4, ((t.ctx 0).queue .co).entries.map (·.claim))) = some (4, [some 3]) ∧
    trapAfter (.cin 0 5 6 8 0) (regs s [(5, 0xFFFFF10000220FE0)]) = some (0x0A, 0xFFFFF10000220FE0, 0) := by decide +kernel

/-! ## Steps and events -/

/-- What an event with an argument leaves. -/
def event (i : Instr) (s : State) (f : Arg → Arg) : Option State := after (exec i { s with arg := f s.arg })

/-- A step from the word placed after reset: addi s5, s0, #-24. -/
theorem test_step : (after (step (State.reset.withFetchWord 32 0x004A01E8))).map (fun t => ((t.ctx 0).reg 5, (t.ctx 0).pc)) = some (-24, 0x10004) := by
  decide +kernel

/-- R429: PTROOT's ROOT and TEN; the partition's cached translations go, another's stay. -/
theorem test_ptroot :
    let e := fun (p : Fin 16) => ({ part := p, lg := 16, vpn := 1, leaf := 0x1F } : TlbEntry)
    (event .evPtrootWrite (State.reset.setCore 3 { State.reset.core 3 with tlb := [e 2, e 1] }) (fun a => { a with part := 1, word := 0x5001 })).map
      (fun t => ((t.part 1).root, (t.part 1).ten, (t.core 3).tlb)) = some (5, true, [e 2]) := by decide +kernel

/-- R366: a reserved code of ACCSPLIT is refused, and more than 32 slots. -/
theorem test_accsplit :
    (event .evAccsplitWrite State.reset (fun a => { a with core := 7, word := 0x004 })).map (fun t => (t.core 7).accsplit) = some 0x004 ∧
    (event .evAccsplitWrite State.reset (fun a => { a with core := 7, word := 0x005 })).map (fun t => (t.core 7).accsplit) = some 0x492 ∧
    (event .evAccsplitWrite State.reset (fun a => { a with core := 7, word := 0x00C })).map (fun t => (t.core 7).accsplit) = some 0x492 := by
  decide +kernel

/-- R410: LEN is held to 125 µs to 10 ms. -/
theorem test_period : (event .evPeriodWrite State.reset (fun a => { a with word := 0x700000001 })).map (fun t => (t.phase, t.len)) = some (7, 125000) := by
  decide +kernel

/-- R445 to R447: a flit in sequence lands in the window it names, one ahead asks for a replay from the number expected. -/
theorem test_flit :
    let s := State.reset.setBport 1 { State.reset.bport 1 with up := true, bwinSize := 1 }
    let f := fun n => ({ seq := n, addr := 0x20, bytes := List.replicate 8 0xAB, poison := 0, cred := none } : Flit)
    (event .evBlumusFlitRx s (fun a => { a with port := 1, flit := f 0 })).map (fun t => (t.readNat .dmem 0x20 8, (t.bport 1).rxSeq))
      = some (0xABABABABABABABAB, 1) ∧
    (event .evBlumusFlitRx s (fun a => { a with port := 1, flit := f 5 })).map (fun t => (t.readNat .dmem 0x20 8, (t.bport 1).replayFrom))
      = some (0, some 0) := by decide +kernel

/-- Firmware has set READY on both dies. -/
def barsUp : State := (State.reset.modDie 0 (fun x => { x with ready := true })).modDie 1 (fun x => { x with ready := true })

/-- The host keeps what it sees of the word at 0x40. -/
def hostFilled : State := (after (step { barsUp with agenda := [.hostFill 0x40] })).getD barsUp

/-- R443, R458: BAR 2 writes plain bytes, and a write with EP poisons its whole granule. -/
theorem test_bar2 :
    (event .evBar2Write barsUp (fun a => { a with n := 0x44, bytes := [1, 2, 3, 4] })).map (fun t => (t.readNat .dmem 0x40 8, t.dmem.poison))
      = some (0x0403020100000000, []) ∧
    (event .evBar2Write barsUp (fun a => { a with n := 0x44, bytes := [1, 2, 3, 4], flag := true })).map (fun t => t.dmem.poison)
      = some ((List.range 32).map (0x40 + ·)) ∧
    (event .evBar2Write State.reset (fun a => { a with n := 0x44, bytes := [1] })).map (fun t => t.dmem.cells) = some [] := by decide +kernel

/-- R460: with no key fused a die halts with cause 1; R467: a module reset keeps the counter. -/
theorem test_boot :
    let s := (after (exec .evModuleReset { State.reset with tsc := 9 }))
    s.map (fun t => (t.tsc, (t.die 0).bootStage, t.measured)) = some (9, 0, false) ∧
    (s.bind (fun t => event .evBootRomStep t (fun a => { a with die := 1 }))).map (fun t => ((t.die 1).bootStage, (t.die 1).failcode, (t.die 0).bootStage))
      = some (15, 1, 0) ∧
    (event .evBootRomStep { State.reset.modDie 0 (fun x => { x with bootStage := 1 }) with arg := { State.reset.arg with flag := true } } id).map
      (fun t => (t.die 0).failcode) = some 8 := by decide +kernel

/-- R453: an entry for a partition without FH is refused, one for its own core stands. -/
theorem test_steering :
    let e : SteerEntry := { SteerEntry.zero with valid := true, part := 1, core := 2, symm := 14 }
    let s := State.reset.setPart 1 { State.reset.part 1 with cores := 4, fh := true, en := true }
    (event .evSteeringEntryWrite s (fun a => { a with steer := 5, entry := e })).map (fun t => t.steering.map (·.1)) = some [5] ∧
    (event .evSteeringEntryWrite State.reset (fun a => { a with steer := 5, entry := e })).map (fun t => t.steering.length) = some 0 := by
  decide +kernel

/-! ## Host queues: a queue of partition 0 on a ring of 64 words at virtual address 0x10000 -/

/-- Page 0x10000 of partition 0 is held in the second-level TLB of die 0, and in no table. -/
def mapped : State :=
  (State.reset.setPart 0 { State.reset.part 0 with ten := true }).modDie 0
    (fun x => { x with l2tlb := [{ part := 0, lg := 16, vpn := 1, leaf := 0x1001F }] })

/-- Words of a ring are 8 bytes. -/
def queued (l : List Nat) : State :=
  let s := ((mapped.write .dmem 0x10000 (l.flatMap (natBytes 8))).modDie 0 (fun x => { x with ready := true })).modDie 1 (fun x => { x with ready := true })
  s.setHq 2 { HQueue.unmapped with
    map := some { part := 0, rings := 1, bases := Vector.replicate 8 0x10000, sizeLog := 6, status := 0x18000, vec := 0 } }

/-- The doorbell of ring 0 rung for `n` words, then an event of the queue's thread. -/
def rung (n : Nat) (l : List Nat) (i : Instr) : Option State := do
  let a ← event .evDoorbell (queued l) (fun a => { a with hq := 2, ring := 0, word := BitVec.ofNat 64 n })
  after (exec i a)

/-- Context 0 has read a word of the shared pool ahead, and context 1 of its core has stored 2 over the 1 it found. -/
def aheadOf : State :=
  (readAhead (regs (words base (.pool 0) 0x121000 [1, 0]) [(1, 0xFFFFF10000121000)]) 0 (.pool 0) 0x121000).writeBy { who := .fe 1, since := 0 }
    (.pool 0) 0x121000 (natBytes 8 2)

/-- R117, R120, R121: a later load may still find the old value; an acquire at CTX scope does not reach the other context's store, one
at CORE scope ends what was read ahead. -/
theorem test_read_ahead : regAfter (.ldD 5 1 0) aheadOf 5 = some 1 ∧ regAfter (.ldD 5 1 0) (acquire aheadOf 0 0 []) 5 = some 1 ∧
    regAfter (.ldD 5 1 0) (acquire aheadOf 0 1 []) 5 = some 2 := by decide +kernel

/-- R386, R388, R390 to R393: a NOP is consumed; a SIGNAL adds to its word; a WAIT whose condition fails blocks the thread; an unknown
type stops the queue, which is unmapped with its status record. -/
theorem test_packets :
    (rung 1 [0x00010000] .evNop).map (fun t => (((t.hq 2).thread 0).consumed[0], (t.hq 2).map.isSome)) = some (1, true) ∧
    (rung 3 [0x00030103, 0x18100, 5] .evSignal).map (fun t => t.readNat .dmem 0x18100 8) = some 5 ∧
    (rung 3 [0x00030002, 0x18100, 5] .evWait).map (fun t => (t.hq 2).block) = some (.wait 0x18100 0 5) ∧
    (rung 1 [0x00010008] .evNop).map (fun t => ((t.hq 2).map.isSome)) = some false := by decide +kernel

/-! ## Witnesses for the statements: concrete states and operands that meet the hypotheses of each clause, at boundary values.
`okAnd r p` says that `r` answers some `x` with `p x`; `errs r` that it answers an error. -/

/-- `r` is `.ok x` for an `x` with `p x`. -/
def okAnd {ε α : Type} (r : Except ε α) (p : α → Bool) : Bool := match r with | .ok x => p x | .error _ => false
/-- `r` is `.error x` for an `x`. -/
def errs {ε α : Type} (r : Except ε α) : Bool := match r with | .ok _ => false | .error _ => true

/-- `r` is `.ok x`. -/
def okIs {ε α : Type} [DecidableEq α] (r : Except ε α) (x : α) : Bool := okAnd r (fun y => decide (y = x))

theorem okIs_eq {ε α : Type} [DecidableEq α] {r : Except ε α} {x : α} (h : okIs r x = true) : r = .ok x := by
  match r, h with
  | .ok y, h => exact congrArg _ (of_decide_eq_true h)

theorem okAnd_exists {ε α : Type} {r : Except ε α} {p : α → Bool} (h : okAnd r p = true) : ∃ x, r = .ok x ∧ p x = true := by
  match r, h with
  | .ok x, h => exact ⟨x, rfl, h⟩

/-- The word at the context's pc in `s` is fetched and decodes to `i`. -/
def fetches (s : State) (k : CtxId) (pc : Word) (i : Instr) : Bool := okAnd (fetchWord s k pc) (fun x => okIs (decode x.2) i)

/-- The same with an instruction that the decoder refuses. -/
def fetchesBad (s : State) (k : CtxId) (pc : Word) : Bool := okAnd (fetchWord s k pc) (fun x => errs (decode x.2))

theorem wit_DecodesSpecWords : majOf 0x03C00000 ∈ [0x0F, 0x16, 0x17, 0x1F, 0x27, 0x3A, 0x3B, 0x3E] ∧
    queueOfMaj (majOf 0x104A01E8) = none ∧ fld (0x104A01E8 : IWord) 28 4 ≠ 0 := by decide +kernel

theorem wit_DecodeOfEncode : (Instr.addi 5 0 0x1E8).wf = true ∧ encode (.addi 5 0 0x1E8) = some 0x004A01E8 := by decide +kernel

theorem wit_EncodeOfDecode : okIs (decode 0x9A651800) (.vaddF 9 18 17 16 0) = true := by decide +kernel

theorem wit_StepRunsDecoded :
    let s := State.reset.withFetchWord 32 0x004A01E8
    (s.agenda = [.issue 0] ∧ ready { s with agenda := [] } 0 = true ∧ fetches { s with agenda := [] } 0 (s.ctx 0).pc (.addi 5 0 0x1E8) = true) ∧
    (encode .evPpsEdge = none ∧ (State.reset.die 0).bootStage = 8 ∧ (State.reset.die 1).bootStage = 8) := by decide +kernel

theorem wit_ArbiterPicksLongestWaiting : paged.agenda = [] ∧ arbiterPick paged (coreOf paged.cur) = some 0 ∧
    fetches paged 0 (paged.ctx 0).pc (.add 0 0 0) = true := by decide +kernel

theorem wit_UndecodableWordTraps :
    let s := State.reset.withFetchWord 32 0x0F40000F
    let t := State.reset.withFetchWord 32 0x03C00000
    (s.agenda = [.issue 0] ∧ ready { s with agenda := [] } 0 = true ∧ fetchesBad { s with agenda := [] } 0 (s.ctx 0).pc = true ∧
      majOf 0x0F40000F = 0x3D ∧ (s.ctx 0).csr.sact = false) ∧
    (t.agenda = [.issue 0] ∧ ready { t with agenda := [] } 0 = true ∧ fetchesBad { t with agenda := [] } 0 (t.ctx 0).pc = true ∧
      queueOfMaj (majOf 0x03C00000) = none ∧ majOf 0x03C00000 ≠ 0x3D) := by decide +kernel

/-- Every form of MAJ 0x00, 0x01, 0x02, 0x03, 0x04, 0x05, 0x0B that has a result or a transfer. -/
def aluAll : List Instr := [.add 9 4 2, .sub 9 7 2, .and 9 5 6, .or 9 2 6, .xor 9 4 2, .andn 9 6 2, .sll 9 2 6, .srl 9 3 6, .sra 9 3 6,
  .addw 9 5 7, .subw 9 7 2, .min 9 1 2, .max 9 1 2, .minu 9 1 2, .maxu 9 1 2, .clz 9 5, .ctz 9 3, .popc 9 5, .add 0 31 31]
def immAll : List Instr := [.addi 9 2 0x1E8, .andi 9 1 0x1F0, .ori 9 2 1, .xori 9 2 0x1FF, .slli 9 2 63, .srli 9 3 63, .srai 9 3 0, .addiw 9 5 0]
def mulAll : List Instr := [.mul 9 1 2, .mulh 9 4 4, .mulhu 9 4 4, .mulhsu 9 4 4, .div 9 1 2, .divu 9 1 7, .rem 9 3 4, .remu 9 4 2, .mulw 9 5 2,
  .divw 9 5 4, .remw 9 5 7]
def predAll : List Instr := (List.range 10).flatMap (fun c => [.cmp 2 1 2 (BitVec.ofNat 4 c), .cmpi 7 1 0x1F (BitVec.ofNat 4 c)]) ++
  [.pand 1 0 2, .por 2 1 3, .pxor 1 0 2, .pnot 0 3]
def leaAll : List Instr := [.lea1 9 1 2, .lea2 9 1 2, .lea4 9 1 2, .lea8 9 1 2]

theorem wit_IntegerResults : (∀ i ∈ aluAll, ∃ x, aluClaim nums.val i = some x ∧ ∀ r ∈ x.2.1, nums.me.regPoison r = false) ∧
    (∀ i ∈ immAll, ∃ x, immClaim none nums.val i = some x ∧ badShift none i = false ∧ nums.me.regPoison x.2.1 = false) ∧
    (∀ i ∈ [Instr.slli 9 2 64, .srli 9 2 0x1FF, .srai 9 2 64], badShift none i = true) ∧
    (∀ i ∈ mulAll, ∃ x, mulClaim nums.val i = some x ∧ ∀ r ∈ x.2.1, nums.me.regPoison r = false) := by
  refine ⟨?_, ?_, by decide +kernel, ?_⟩ <;> intro i h <;>
    simp only [aluAll, immAll, mulAll, List.mem_cons, List.not_mem_nil, or_false] at h <;>
    rcases h with rfl | rfl | rfl | rfl | rfl | rfl | rfl | rfl | rfl | rfl | rfl | rfl | rfl | rfl | rfl | rfl | rfl | rfl | rfl <;>
    exact ⟨_, rfl, by decide +kernel⟩

theorem wit_PredicateResults : (∀ i ∈ predAll, ∃ x, predClaim nums i = some x ∧ ∀ r ∈ x.2.1, nums.me.regPoison r = false) ∧
    9 < (10 : BitVec 4).toNat := by
  refine ⟨?_, by decide⟩
  intro i h
  simp only [predAll, List.range, List.range.loop, List.flatMap_cons, List.flatMap_nil, List.append_nil, List.cons_append, List.nil_append, List.mem_cons,
    List.not_mem_nil, or_false] at h
  rcases h with rfl | rfl | rfl | rfl | rfl | rfl | rfl | rfl | rfl | rfl | rfl | rfl | rfl | rfl | rfl | rfl | rfl | rfl | rfl | rfl | rfl | rfl |
    rfl | rfl <;> exact ⟨_, rfl, by decide +kernel⟩

theorem wit_ResultFrames : ∀ i ∈ aluAll ++ immAll ++ mulAll ++ leaAll ++ predAll, (after (exec i nums)).isSome = true := by decide +kernel

/-- Pointers to the first and to an odd place of each window, and one outside the 48-bit range. -/
def pointers : State := regs base [(1, 0xFFFFF00000000000), (2, 0xFFFFF10000121008), (3, 0xFFFFF20000000000), (4, 0x123456), (5, 0x800000000000),
  (6, 0xFFFFFF), (7, 0x1000000), (8, 0xFFFFF2800000000F)]

theorem wit_AddressAndTransferForms_address : (∀ i ∈ leaAll, ∃ x, leaClaim nums.val i = some x ∧ ∀ r ∈ x.2.1, nums.me.regPoison r = false) ∧
    (∀ r : Reg5, pointers.me.regPoison r = false) ∧ (pointers.val 6).toNat < 2 ^ 24 ∧ ¬ (pointers.val 7).toNat < 2 ^ 24 ∧
    (∀ r ∈ [(1 : Reg5), 2, 3, 4, 6, 7, 8], (-(2 ^ 47) ≤ (pointers.val r).toInt ∧ (pointers.val r).toInt < 2 ^ 47)) ∧
    2 ^ 47 ≤ (pointers.val 5).toInt := by
  refine ⟨?_, by decide +kernel, by decide +kernel, by decide +kernel, by decide +kernel, by decide +kernel⟩
  intro i h
  simp only [leaAll, List.mem_cons, List.not_mem_nil, or_false] at h
  rcases h with rfl | rfl | rfl | rfl <;> exact ⟨_, rfl, by decide +kernel⟩

/-- s1 = 0x20000 in `turn`, so loopb turns; 1 in `overState`. -/
def turn : State := regs base [(1, 0x20000)]
def overState : State := regs base [(1, 1)]

theorem wit_AddressAndTransferForms_transfer :
    (∀ i ∈ [Instr.br 0 1, .brF 1 (-1), .jmp 1, .call (-1), .jr 1, .callr 1, .ret, .loopb 1 (-1)],
      ∃ x t, i.wf = true ∧ transferClaim turn i = some x ∧ x.target = some t ∧ targetFault x.fromReg t = none ∧
        ∀ r ∈ x.sources, turn.me.regPoison r = false) ∧
    (∀ i ∈ [Instr.br 1 1, .brF 0 1, .loopi 3 0x3FFF, .loopb 1 (-1)],
      ∃ x, i.wf = true ∧ transferClaim overState i = some x ∧ x.target = none ∧ ∀ r ∈ x.sources, overState.me.regPoison r = false) ∧
    (∃ x t, transferClaim overState (.jr 1) = some x ∧ x.target = some t ∧ targetFault x.fromReg t = some .misaligned ∧
      ∀ r ∈ x.sources, overState.me.regPoison r = false) := by
  refine ⟨?_, ?_, ⟨_, _, rfl, rfl, by decide +kernel, by decide +kernel⟩⟩ <;> intro i h <;>
    simp only [List.mem_cons, List.not_mem_nil, or_false] at h
  · rcases h with rfl | rfl | rfl | rfl | rfl | rfl | rfl | rfl <;>
      exact ⟨_, _, rfl, rfl, by rfl, by decide +kernel, by decide +kernel⟩
  · rcases h with rfl | rfl | rfl | rfl <;> exact ⟨_, rfl, rfl, by decide +kernel, by decide +kernel⟩

/-- The second instruction of a LIMM pair, behind the pc of `paged`; s1 points into the scratchpad part. -/
def paired (i : Instr) : State := regs (words paged .dmem 0x10004 [((encode i).getD 0).toNat]) [(1, 0xFFFFF10000121000)]

/-- The state that the fetch of a pair's second word leaves. -/
def second (s : State) : State := match fetchWord s s.cur (s.me.pc + 4) with | .ok x => x.1 | .error _ => s

def limmImm : List Instr := [.addi 5 1 0x1FF, .andi 5 1 0, .ori 5 1 1, .xori 5 1 1, .slli 5 1 63, .srli 5 1 63, .srai 5 1 0, .addiw 5 1 0]
def limmOffset : List Instr := [.br 0 1, .br 1 1, .brF 1 (-1), .jmp 1, .call 1, .loopi 5 0x3FFF, .loopb 1 1]
def limmLoads : List Instr := [.ldB 5 1 0, .ldH 5 1 0, .ldW 5 1 0, .ldD 5 1 0, .ldBu 5 1 0, .ldHu 5 1 0, .ldWu 5 1 0]
def limmStores : List Instr := [.stB 5 1 0, .stH 5 1 0, .stW 5 1 0, .stD 5 1 0]

theorem wit_LimmPairs_fetched : ∀ i ∈ limmImm ++ limmOffset ++ limmLoads ++ limmStores ++ [.cmpi 2 1 0x1F 9, .cmpi 2 1 0 15, .loopi 0 1, .add 5 1 1],
    fetches (paired i) (paired i).cur ((paired i).me.pc + 4) i = true ∧ (second (paired i)).me.regPoison 1 = false := by decide +kernel

theorem wit_PredicateResults_limm_and_fields :
    (fetches (paired (.cmpi 2 1 0x1F 9)) (paired (.cmpi 2 1 0x1F 9)).cur ((paired (.cmpi 2 1 0x1F 9)).me.pc + 4) (.cmpi 2 1 0x1F 9) = true ∧
      ∃ x, cmpiClaim (some 0) (second (paired (.cmpi 2 1 0x1F 9))) (.cmpi 2 1 0x1F 9) = some x) ∧
    decodes [(0x00C94402, .pand 1 5 2), (0x00C94403, .por 1 5 2), (0x00C94404, .pxor 1 5 2), (0x00C94005, .pnot 1 5)] = true := by
  refine ⟨⟨by decide +kernel, ⟨_, rfl⟩⟩, by decide +kernel⟩

theorem wit_LimmPairs_values :
    (∀ i ∈ limmImm, (immClaim (some 0) (second (paired i)).val i).isSome = true ∧ badShift (some 0) i = false) ∧
    (∀ i ∈ [Instr.slli 5 1 63, .srli 5 1 63, .srai 5 1 0], badShift (some 1) i = true) ∧
    (∃ x, cmpiClaim (some 1) (second (paired (.cmpi 2 1 0x1F 9))) (.cmpi 2 1 0x1F 9) = some x) ∧ 9 < (15 : BitVec 4).toNat ∧ badLoop (.loopi 0 1) = true := by
  refine ⟨by decide +kernel, by decide +kernel, ⟨_, rfl⟩, by decide, by decide⟩

/-- A context whose pc lies below the end of the positive half of the address range. -/
def highPc : State :=
  let s := (words base .dmem 0x10004 [((encode (.jmp 1)).getD 0).toNat]).setPart 0 { base.part 0 with ten := true }
  me (s.setCore 0 { s.core 0 with tlb := [{ part := 0, lg := 16, vpn := 0x7FFFFFFF, leaf := 0x1001F }] }) (fun c => { c with pc := 0x7FFFFFFF0000 })

theorem wit_LimmPairs_offsets :
    (∀ i ∈ limmOffset, badLoop i = false ∧
      (offsetClaim (some 0) (second (paired i)) i).map (fun x => (x.target.map (targetFault x.fromReg)).getD none) = some none) ∧
    (fetches highPc highPc.cur (highPc.me.pc + 4) (.jmp 1) = true ∧
      (offsetClaim (some 0x1FFFFF) (second highPc) (.jmp 1)).map (fun x => x.target.map (targetFault x.fromReg)) = some (some (some .addressInvalid))) ∧
    (fetches (me (paired (.loopb 1 1)) (fun c => c.setRegP 1 5 true)) 0 0x10004 (.loopb 1 1) = true) := by
  refine ⟨?_, by decide +kernel, by decide +kernel⟩
  intro i h
  simp only [limmOffset, List.mem_cons, List.not_mem_nil, or_false] at h
  rcases h with rfl | rfl | rfl | rfl | rfl | rfl | rfl <;> exact ⟨by decide, by decide +kernel⟩

theorem wit_LimmPairs_memory :
    (∀ i ∈ limmLoads, ∃ x, plainLoad (some 0) (second (paired i)) i = some x ∧
      okAnd (feReach (second (paired i)) x.addr x.size accLoad) (fun _ => true) = true) ∧
    (∃ x, plainLoad (some 0x200000) (second (paired (.ldD 5 1 0))) (.ldD 5 1 0) = some x ∧
      errs (feReach (second (paired (.ldD 5 1 0))) x.addr x.size accLoad) = true) ∧
    (∀ i ∈ limmStores, ∃ x, plainStore (some 0) (second (paired i)) i = some x ∧
      okAnd (feReach (second (paired i)) x.addr x.size accStore) (fun _ => true) = true) ∧
    (∃ x, plainStore (some 0x200000) (second (paired (.stD 5 1 0))) (.stD 5 1 0) = some x ∧
      errs (feReach (second (paired (.stD 5 1 0))) x.addr x.size accStore) = true) := by
  refine ⟨?_, ⟨_, rfl, by decide +kernel⟩, ?_, ⟨_, rfl, by decide +kernel⟩⟩ <;> intro i h <;>
    simp only [limmLoads, limmStores, List.mem_cons, List.not_mem_nil, or_false] at h
  · rcases h with rfl | rfl | rfl | rfl | rfl | rfl | rfl <;> exact ⟨_, rfl, by decide +kernel⟩
  · rcases h with rfl | rfl | rfl | rfl <;> exact ⟨_, rfl, by decide +kernel⟩

/-- What takes no prefix, a second word that is no instruction, and one that cannot be fetched. -/
theorem wit_LimmPairs_refused : (immClaim (some 0) base.val (.add 5 1 1)).isNone = true ∧ (offsetClaim (some 0) base (.add 5 1 1)).isNone = true ∧
    (plainLoad (some 0) base (.add 5 1 1)).isNone = true ∧ (plainStore (some 0) base (.add 5 1 1)).isNone = true ∧
    fetchesBad (words paged .dmem 0x10004 [0x03C00000]) 0 0x10004 = true ∧ errs (fetchWord base 0 0x10004) = true := by
  refine ⟨rfl, rfl, rfl, rfl, by decide +kernel, by decide +kernel⟩

theorem wit_MemoryReadsWhatWasWritten : base.memWf = true ∧ (pbytes true [1, 2, 3]).length = 3 := by decide +kernel

theorem wit_WindowAccessChecks : (8 : Nat) ∈ [1, 2, 4, 8] ∧ malformedPtr 0x800000000000 ∧
    ((0xFFFFF00000000000 : Word) = privAt 0 ∧ (0xFFFFF00000FFFFFF : Word) = privAt 0xFFFFFF) ∧
    ((0xFFFFF10000000000 : Word) = scrAt 0 0 ∧ (0xFFFFF1FC003FFFFF : Word) = scrAt 63 0x3FFFFF) ∧
    ((0xFFFFF20000000000 : Word) = dshAt 0 0 ∧ (0xFFFFF280003FFFFF : Word) = dshAt 1 0x3FFFFF) ∧
    (¬ malformedPtr 0x1001 ∧ (0x1001 : Word).toNat / 2 ^ 40 % 256 < 0xF0 ∧ (0x1001 : Word).toNat % 8 ≠ 0) := by
  unfold malformedPtr; decide +kernel

/-- A leaf for page 0x10000, readable or not. -/
def leafOf (word : Word) : TlbEntry := { part := 0, lg := 16, vpn := 1, leaf := word }

/-- A leaf from a walk, from the core's TLB, from the second-level TLB; and one that is walked again, for a cached leaf denies. -/
theorem wit_NoAccessWithoutPermission :
    let own := paged.setCore 0 { paged.core 0 with tlb := [leafOf 0x1001F] }
    let die := paged.modDie 0 (fun d => { d with l2tlb := [leafOf 0x1001F] })
    let old := paged.setCore 0 { paged.core 0 with tlb := [leafOf 0x10001] }
    okAnd (translate paged 0 (some 0) 0 false accLoad 0x10000) (fun _ => true) = true ∧
    (okAnd (translate own 0 (some 0) 0 false accLoad 0x10000) (fun _ => true) = true ∧ coreLeaf own (some 0) 0 0x10000 = some (leafOf 0x1001F)) ∧
    (okAnd (translate die 0 none 0 false accLoad 0x10000) (fun _ => true) = true ∧ dieLeaf die 0 0 0x10000 = some (leafOf 0x1001F)) ∧
    (okAnd (translate old 0 (some 0) 0 false accLoad 0x10000) (fun _ => true) = true ∧
      (leafAnswer (old.part 0) false accLoad (leafOf 0x10001) 0x10000).isOk = false) := by decide +kernel

/-- Page 0x10000 of `paged` becomes a page of host memory. -/
def hostPage : State :=
  let s := words paged .dmem 0x4008 [0x1005F]
  s.setPart 0 { s.part 0 with hostw := true }

/-- s1 points to the start of the scratchpad part; in `far` to the host page. -/
def near : State := regs base [(1, 0xFFFFF10000121000), (2, 0x1122334455667788)]
def far : State := regs hostPage [(1, 0x10000), (2, 0x1122334455667788)]

/-- A store to the host that is not accepted yet. -/
def posting : State := me base (fun c => { c with posted := [{ space := .host, addr := 0x10000, bytes := [1], poison := false, stamp := 0, rel := none }] })

def loadAll : List Instr := [.ldB 9 1 0, .ldH 9 1 0, .ldW 9 1 0, .ldD 9 1 0, .ldBu 9 1 0xFF, .ldHu 9 1 0, .ldWu 9 1 0, .ldaq 9 1 4 3]
def storeAll : List Instr := [.stB 2 1 0, .stH 2 1 0, .stW 2 1 0, .stD 2 1 0xFF, .strl 2 1 4 3]
def atomicAll : List Instr := [.amoSwap 2 1 0 0 0 0, .amoAdd 2 1 1 0 1 4, .amoAnd 2 1 0 0 0 0, .amoOr 2 1 0 0 0 0, .amoXor 2 1 0 0 0 0,
  .amoMax 2 1 0 0 0 0, .amoMin 2 1 0 0 0 0, .amoMaxu 2 1 0 0 0 0, .amoMinu 2 1 0 0 0 0, .cas 2 1 3 1 0 1 4]

theorem wit_LoadResults :
    (∀ i ∈ loadAll, ∃ x, i.wf = true ∧ loadClaim near i = some x ∧ near.me.regPoison x.b = false ∧
      okAnd (feReach near x.addr x.size accLoad) (fun y => decide (y.2.1 ≠ .host)) = true) ∧
    (∃ x, loadClaim far (.ldD 9 1 0) = some x ∧ okAnd (feReach far x.addr x.size accLoad) (fun y => decide (y.2.1 = .host)) = true) := by
  refine ⟨?_, ⟨_, rfl, by decide +kernel⟩⟩
  intro i h
  simp only [loadAll, List.mem_cons, List.not_mem_nil, or_false] at h
  rcases h with rfl | rfl | rfl | rfl | rfl | rfl | rfl | rfl <;> exact ⟨_, rfl, rfl, by decide +kernel, by decide +kernel⟩

theorem wit_StoreResults : near.memWf = true ∧ far.memWf = true ∧
    (∀ i ∈ storeAll, ∃ x, i.wf = true ∧ storeClaim near i = some x ∧ near.me.regPoison x.b = false ∧
      okAnd (feReach near x.addr x.size accStore) (fun y => decide (y.2.1 ≠ .host)) = true) ∧
    (releaseScope (.strl 2 1 4 3) = some 4 ∧ releaseScope (.stD 2 1 0) = none ∧ acquireScope (.ldaq 9 1 4 3) = some 4 ∧ near.me.abroad = false ∧
      posting.me.abroad = true) ∧
    (∃ x, storeClaim far (.stD 2 1 0) = some x ∧ okAnd (feReach far x.addr x.size accStore) (fun y => decide (y.2.1 = .host)) = true) := by
  refine ⟨by decide +kernel, by decide +kernel, ?_, by decide, ⟨_, rfl, by decide +kernel⟩⟩
  intro i h
  simp only [storeAll, List.mem_cons, List.not_mem_nil, or_false] at h
  rcases h with rfl | rfl | rfl | rfl | rfl <;> exact ⟨_, rfl, rfl, by decide +kernel, by decide +kernel⟩

/-- The bytes at s1 are poisoned. -/
def nearPoison : State := near.write (.pool 0) 0x121000 (pbytes true [1, 2, 3, 4, 5, 6, 7, 8])

theorem wit_AtomicResults :
    (∀ i ∈ atomicAll, ∃ x, i.wf = true ∧ atomicClaim near i = some x ∧ (∀ r ∈ x.sources, near.me.regPoison r = false) ∧
      okAnd (feReach near (near.val x.addr) x.n accAtomic) (fun y => !anyPoison (viewBytes (atomicSees y.1 near.cur y.2.1 y.2.2 x.n (atomScope near x)) near.cur y.2.1 y.2.2 x.n)) = true) ∧
    (∃ x, atomicClaim nearPoison (.amoSwap 2 1 0 0 0 0) = some x ∧ (∀ r ∈ x.sources, nearPoison.me.regPoison r = false) ∧
      okAnd (feReach nearPoison (nearPoison.val x.addr) x.n accAtomic)
        (fun y => anyPoison (viewBytes (atomicSees y.1 nearPoison.cur y.2.1 y.2.2 x.n (atomScope nearPoison x)) nearPoison.cur y.2.1 y.2.2 x.n)) = true) := by
  refine ⟨?_, ⟨_, rfl, by decide +kernel, by decide +kernel⟩⟩
  intro i h
  simp only [atomicAll, List.mem_cons, List.not_mem_nil, or_false] at h
  rcases h with rfl | rfl | rfl | rfl | rfl | rfl | rfl | rfl | rfl | rfl <;> exact ⟨_, rfl, rfl, by decide +kernel, by decide +kernel⟩

/-- s1 holds the address 0, which nothing maps; in `tainted` s1 is poisoned. -/
def tainted : State := me base (fun c => c.setRegP 1 0 true)

theorem wit_AccessTraps :
    ((loadClaim base (.ldD 9 1 0)).map (fun x => (x.d, x.b, x.addr, x.size, x.signed)) = some (9, 1, 0, 8, true) ∧ base.me.regPoison 1 = false ∧
      errs (feReach base 0 8 accLoad) = true) ∧
    ((storeClaim base (.stD 9 1 0)).map (fun x => (x.r, x.b, x.addr, x.size)) = some (9, 1, 0, 8) ∧ errs (feReach base 0 8 accStore) = true) ∧
    (∃ x, atomicClaim base (.amoAdd 2 1 1 0 1 4) = some x ∧ (∀ r ∈ x.sources, base.me.regPoison r = false) ∧
      errs (feReach base (base.val x.addr) x.n accAtomic) = true) ∧
    tainted.me.regPoison 1 = true ∧ 4 < (5 : BitVec 3).toNat := by
  refine ⟨by decide +kernel, by decide +kernel, ⟨_, rfl, by decide +kernel, by decide +kernel⟩, by decide +kernel, by decide⟩

/-- An entry in the VX queue. -/
def queuedVx : State := (after (exec (.mand 0 5 3 2 0) base)).getD base

theorem wit_FenceQwaitYield : (4 : BitVec 3).toNat ≤ 4 ∧ base.me.posted = [] ∧ posting.me.posted ≠ [] ∧ (8 : BitVec 5) ≠ 0 ∧
    (base.me.queue .vx).entries = [] ∧ (8 : BitVec 5).getLsbD EngineQ.vx.idx.val = true ∧ (queuedVx.me.queue .vx).entries ≠ [] := by decide +kernel

/-- The context waits. -/
def waits (w : Wait) (s : State) : State := me s (fun c => { c with run := .waiting w })

theorem wit_WaitsEnd : ((waits (.qwait 1) base).ctx base.arg.ctx).run = .waiting (.qwait 1) ∧
    ((waits (.fence 9 4) posting).ctx base.arg.ctx).run = .waiting (.fence 9 4) ∧ ((waits .wfi base).ctx base.arg.ctx).run = .waiting .wfi ∧
    okIs (objectAt (waits (.abwait 0xFFFFF10000121000 1) (bar 0)) 0 0xFFFFF10000121000 8) 0x121000 = true ∧
    okAnd (ringAtPtr (waits (.slwait 9 0xFFFFF10000121000 2) (ring 6 6 3 3)) 0 0xFFFFF10000121000) (fun x => decide (2 ≤ (x.2.filled - x.2.taken).toNat)) = true ∧
    okAnd (ringAtPtr (waits (.slpop 9 0xFFFFF10000121000) (ring 6 3 3 3)) 0 0xFFFFF10000121000) (fun x => decide (x.2.filled = x.2.taken)) = true ∧
    okAnd (ringAtPtr (waits (.slpop 9 0xFFFFF10000121000) (ring 6 4 3 3)) 0 0xFFFFF10000121000) (fun x => decide (x.2.filled ≠ x.2.taken)) = true := by
  decide +kernel

/-- A task whose members are contexts 0 of cores 0 and 1. -/
def pairTask : Task :=
  { q := 0, taskid := 7, part := 0, ctx := 0, gsize := 2, start := none, imgtab := 0, savetab := 0, at_ := 0, deadline := 0, compl := 0,
    complval := 0, vec := 0, irq := false, ptok := 0, dlc := false, stepp := false, preload := false, warm := false, warmed := false, obase := 0, orow := 0,
    chunk := 1, rowlim := 64, maxslots := 2, srank := 0, stamp := 0, st := .released, first := 0, release := 0, gen := 0, gens := [], mixed := [],
    endReq := false, ended := false, steps := 0, slotBuf := [none, none], want := none, killReq := false, saved := false, kept := [], badField := false, badSegment := false,
    orphan := false, level := 0, ring := 0, whereAt := 0, reason := 0, reclaimed := false }

/-- The gang of `t` (two members, of a step program or not) with context 0 running and context 4 as given. -/
def gang (t : Task) (f : Ctx → Ctx) : State :=
  let put := fun (c : Ctx) (r : BitVec 6) => { c with task := some 0, csr := { c.csr with gsize := BitVec.ofNat 7 t.gsize, rank := r } }
  let s := (State.reset.setCtx 0 (put ctx0 0)).setCtx 4 (f (put ctx0 1))
  { s with tasks := [t] }

def arrivedAt (c : Ctx) : Ctx := { c with arr := true, run := .waiting .gbar }
def arrivedStep (c : Ctx) : Ctx := { c with arr := true, arrStep := true, run := .waiting (.gbarStep 9) }

theorem wit_GangBarriers_alone : base.me.arrDone = false ∧ base.me.arr = false ∧ base.me.quiet = true ∧ base.me.sbuf = [] ∧
    base.me.csr.gsize.toNat ≤ 1 ∧ base.taskOf base.cur = none ∧ base.inStepGang base.cur = false := by decide +kernel

theorem wit_GangBarriers_one : let s := gang { pairTask with gsize := 1 } id
    s.me.quiet = true ∧ s.me.sbuf = [] ∧ s.me.arr = false ∧ s.me.arrDone = false ∧ s.taskOf s.cur = some (0, { pairTask with gsize := 1 }) ∧
    s.me.csr.gsize.toNat ≤ 1 := by decide +kernel

theorem wit_GangBarriers_pair : let s := gang pairTask arrivedAt
    s.me.quiet = true ∧ s.me.sbuf = [] ∧ s.me.arr = false ∧ s.me.arrDone = false ∧ s.taskOf s.cur = some (0, pairTask) ∧
    1 < s.me.csr.gsize.toNat ∧ pairTask.mixed.contains s.cur = false ∧
    (∀ m ∈ pairTask.members, m ≠ s.cur → (s.ctx m).arr = true → (s.ctx m).arrStep = false) := by decide +kernel

theorem wit_GangBarriers_step : let s := gang { pairTask with stepp := true } arrivedStep
    s.inStepGang s.cur = true ∧ s.me.ended = false ∧
    (∀ m ∈ pairTask.members, m ≠ s.cur → (s.ctx m).arr = true → (s.ctx m).arrStep = true) ∧
    (me s (fun c => { c with ended := true })).me.ended = true := by decide +kernel

theorem wit_GangBarriers_release : let s := gang pairTask arrivedAt
    let t := s.setCtx 0 { s.ctx 0 with run := .finished }
    t.taskAt t.arg.task = some pairTask ∧ pairTask.st = .released ∧ pairTask.members.Nodup ∧
    (∀ m ∈ pairTask.members, ((t.ctx m).arr = true ∧ (t.ctx m).arrStep = false ∧ (t.ctx m).run = .waiting .gbar) ∨
       ((t.ctx m).arr = false ∧ (t.ctx m).run = .finished)) ∧
    (∃ m ∈ pairTask.members, (t.ctx m).arr = true) := by decide +kernel

theorem wit_BarrierAndRingForms : (bar 0).me.regPoison 1 = false ∧ (bar 0).me.regPoison 2 = false ∧
    okIs (objectAt (bar 0) 0 ((bar 0).val 1) 8) 0x121000 = true ∧ 1 ≤ ((bar 0).val 2).toNat ∧ ((bar 0).val 2).toNat ≤ 2 ^ 28 - 1 ∧
    okAnd (ringAtPtr (ring 6 6 3 3) 0 ((ring 6 6 3 3).val 1)) (fun x => decide (1 ≤ ((ring 6 6 3 3).val 2).toNat ∧ ((ring 6 6 3 3).val 2).toNat ≤ 2 ^ x.2.lgn ∧
      ((ring 6 6 3 3).val 2).toNat ≤ (x.2.filled - x.2.taken).toNat ∧ 2 ^ x.2.lgn < ((ring 6 6 3 3).val 3).toNat ∧ x.2.filled ≠ x.2.taken ∧ x.2.freed = x.2.taken)) = true ∧
    okAnd (ringAtPtr (ring 6 3 3 2) 0 ((ring 6 3 3 2).val 1)) (fun x => decide (x.2.filled = x.2.taken ∧ x.2.freed ≠ x.2.taken)) = true := by
  decide +kernel

theorem wit_ArrivalAndWaitTables : (2 ^ 28 - 1 : Nat) < 2 ^ 28 ∧ (4095 : Nat) < 4096 ∧ (4096 : Nat) < 2 ^ 28 := by decide

def csrNumbers : List (BitVec 9) := [0, 1, 2, 3, 4, 5, 8, 9, 0xA, 0xB, 0x10, 0x11, 0x12, 0x13, 0x18, 0x19, 0x1A, 0x1B,
  0x100, 0x101, 0x102, 0x103, 0x104, 0x105, 0x108, 0x109, 0x10A, 0x10B]

theorem wit_CsrAccess : (∀ n ∈ csrNumbers, (csrClaim (smode base) n.toNat).isSome = true) ∧ (smode base).me.csr.sact = true ∧
    (csrClaim base 0x1B).isSome = true ∧ (smode base).me.regPoison 31 = false ∧
    (0x100 ≤ (0x1FF : BitVec 9).toNat ∧ base.me.csr.sact = false) ∧ csrClaim base 0x0FF = none ∧ csrClaim (smode base) 0x1FF = none := by decide +kernel

def run (r : Run) (s : State) : State := me s (fun c => { c with run := r })
def utvec (s : State) : State := me s (fun c => { c with csr := { c.csr with utvecEn := true } })
def inHandler (s : State) : State := me s (fun c => { c with csr := { c.csr with utvecAct := true } })

theorem wit_TrapDelivery : (queuedVx.ctx 0).drainedOut = false ∧ (base.ctx 0).drainedOut = true ∧ (smode base).me.csr.sact = true ∧
    (base.ctx 0).csr.sact = false ∧ TrapCode.arithInvalid.designated = true ∧ TrapCode.arithInvalid ≠ .opidMismatch ∧
    (utvec base).me.csr.utvecEn = true ∧ (utvec base).me.csr.utvecAct = false ∧ TrapCode.pageFault.designated = false := by decide +kernel

theorem wit_DrainEvents :
    let e : Trap := { code := .arithInvalid, value := 5, queue := 4, seq := 9 }
    let s := run (.draining (.trap e)) base
    (s.me.run = .draining (.trap e) ∧ s.me.drainedOut = true ∧ heldNow s 0 = false ∧ s.arg.ctx = 0) ∧
    ((run (.drained (.trap e)) (utvec base)).me.csr.sact = false ∧ e.code ≠ .opidMismatch ∧ e.code.designated = true) ∧
    (run (.drained (.trap e)) base).me.csr.utvecEn = false ∧ (run (.drained (.trap e)) (smode base)).me.csr.sact = true ∧
    ((run (.draining .preempt) queuedVx).me.drainedOut = false ∧ heldNow (me base (fun c => { c with csr := { c.csr with hold := true } })) 0 = true) ∧
    (let t := me s (fun c => { c with drainIdle := 0x100000 })
     t.me.run = .draining (.trap e) ∧ t.me.csr.qwdog.toNat ≤ t.me.drainIdle ∧ heldNow t 0 = false ∧ t.me.copyEnds .ci = false ∧ t.me.copyEnds .co = false ∧
       s.me.drainIdle < s.me.csr.qwdog.toNat) ∧
    (let t := me queuedVx (fun c => { c with watchdog := 0x100000 })
     t.me.run = .running ∧ t.me.csr.qwdog.toNat ≤ t.me.watchdog ∧ t.me.stallRaised = false ∧ queuedVx.me.watchdog < queuedVx.me.csr.qwdog.toNat) := by
  decide +kernel

/-- A report that has had to wait (R45). -/
def aReport : Trap := { code := .arithInvalid, value := 0, queue := 4, seq := 3 }
def reported (s : State) : State := me s (fun c => { c with heldReports := [aReport] })

theorem wit_Returns : ((inHandler base).me.csr.sact = false ∧ (inHandler base).me.csr.utvecAct = true ∧ (inHandler base).me.heldReports = []) ∧
    ((reported (inHandler base)).me.heldReports = [aReport] ∧ (reported (inHandler base)).me.run = .running) ∧
    ((reported (smode base)).me.heldReports = [aReport] ∧ (smode queuedVx).me.drainedOut = false) ∧ base.me.csr.utvecAct = false ∧
    ((smode base).me.csr.sact = true ∧ (smode base).me.regPoison 1 = false ∧ (smode base).me.drainedOut = true) := by decide +kernel

def sysAll : List Instr := [.sret, .escal 1, .tlbinvVa 1 3, .tlbinvTen 2, .tlbinvAll, .qdrop 1, .tokset 1 9, .parkdrop 1 0, .wfi, .ochinv, .poisclr 1,
  .snaptrig, .rdcsr 1 0x100, .wrcsr 1 0x1FF]

theorem wit_PrivilegedInUMode : (∀ i ∈ sysAll, needsSMode i = true) ∧ base.me.csr.sact = false := by decide +kernel

theorem wit_SysContextForms : (smode base).me.csr.sact = true ∧ (1 : Reg5) ≠ 0 ∧ (smode base).me.regPoison 31 = false ∧
    ((smode (regs base [(1, 8)])).val 1).toNat ≤ 8 ∧ (9 : BitVec 4).toNat < 10 ∧ (smode base).me.maskRuns (fifoQueues 9) = false ∧
    (31 : BitVec 5) ≠ 0 ∧ (smode base).me.maskRuns 31 = false ∧ (1 : BitVec 1) ≠ 0 ∧ ochinvBlocked (smode base) 0 = false ∧
    (smode base).snapLast = none ∧ (smode base).snapArmed = true := by decide +kernel

theorem wit_TlbInvalidation : (smode base).me.csr.sact = true ∧ (smode base).me.regPoison 1 = false ∧
    tlbBlocked (smode base) (ctxsOf (diesIn (smode base).cur 2)) = false := by decide +kernel

/-- s1 = automaton 511 of die 0, s2 = 7, s3 a scratchpad pointer, s4 a grammar's address. -/
def gRegs : State := regs base [(1, 511), (2, 7), (3, 0xFFFFF10000121000), (4, 0x20000)]
def madderAll : List Instr := [.gbind 1 4, .gadv 1 2, .gmask 1 3 3, .gmask 1 3 0, .gsnap 1 2, .gfork 1 2 1, .groll 1 2]

theorem wit_MadderForms :
    (∀ i ∈ madderAll, ∃ x, madderClaim gRegs i = some x ∧ (∀ r ∈ x.1, gRegs.me.regPoison r = false) ∧ x.2.1) ∧ gRegs.me.gops.length < 16 ∧
    (me gRegs (fun c => { c with gops := List.replicate 16 (.adv 0 0, 0) })).me.gops.length = 16 ∧
    (me gRegs (fun c => c.setRegP 1 0 true)).me.regPoison 1 = true ∧ automatonIn gRegs (gRegs.val 1) ∧
    (gRegs.aut 0 511).part ≠ some gRegs.me.csr.partn ∧
    ((gRegs.setAut 0 511 { Automaton.unbound with part := some 0 }).aut 0 511).part = some gRegs.me.csr.partn ∧
    (Automaton.unbound.conf.state < 2 ^ 16 ∧ Automaton.unbound.conf.stack.length < 2 ^ 8) := by
  refine ⟨?_, by decide +kernel, by decide +kernel, by decide +kernel, by unfold automatonIn; decide +kernel, by decide +kernel, by decide +kernel,
    by decide +kernel⟩
  intro i h
  simp only [madderAll, List.mem_cons, List.not_mem_nil, or_false] at h
  rcases h with rfl | rfl | rfl | rfl | rfl | rfl | rfl <;>
    exact ⟨_, rfl, by decide +kernel, by dsimp only [automatonIn, malformedPtr]; decide +kernel⟩

/-- A request of one row in slot 0 of task 0. -/
def oneReq : ReqEntry :=
  { record := { reqid := 5, gen := 0, state := 2, prio := 0, ffmt := 0, flags := 0, draft := 7, stopr := 0, gctx := 0xFFFF, deadline := 0, pos := 10,
                frame := 0, kvpl := 0, kvpn := 0, maxlen := 100, stopset := 0, seed := 0, temp := 0, topp := 0, topk := 0, lgb := 0, fcode := 0,
                scnt := 0, fpos := 0, grammar := 0, tokbuf := 0, mgen := 0, plen := 11, mhash := 0 },
    addr := 0x18000, task := 0, map := { ffmt := 0, sreg := 0, bufsz := 0, gseg := 0, slices := [] }, slot := some 0, ntok := 1, roff := 0,
    posDone := false, posStart := 10, stopMark := false, faultMark := false, cancelled := false, readyAt := 0, since := 0, buf := 0, stops := [],
    pendingWb := 0, wb := none, leave := false }

/-- A member of a step gang of one with that request, changed by `f`; s1 = 0 names the slot, s2 the field, s3 the value. -/
def withReq (f : ReqEntry → ReqEntry) (a b : Word) : State :=
  let s := gang { pairTask with stepp := true, gsize := 1 } id
  let s := me s (fun c => { c with csr := { c.csr with nslots := 1 } })
  regs (s.modDie 0 (fun d => { d with table := [f oneReq] })) [(2, a), (3, b)]

theorem wit_RequestForms : let s := withReq id 24 11
    (s.taskOf s.cur = some (0, { pairTask with stepp := true, gsize := 1 }) ∧ (∀ r : Reg5, s.me.regPoison r = false) ∧
      (s.val 1).toNat < s.me.csr.nslots.toNat ∧ s.slotReq 0 0 = some (0, 0, oneReq)) ∧
    ((recordField oneReq.record 24).isSome = true ∧ (s.val 2).toNat = 24 ∧ oneReq.faultMark = false ∧ oneReq.posDone = false ∧
      oneReq.record.pos.toNat < (s.val 3).toNat ∧ (s.val 3).toNat ≤ oneReq.record.pos.toNat + oneReq.ntok) ∧
    (((withReq id 12 7).val 2).toNat = 12 ∧ ((withReq id 12 7).val 3).toNat ≤ 7) ∧
    (((withReq id 48 0xFFFFFFFF).val 2).toNat = 48 ∧ ((withReq id 48 0xFFFFFFFF).val 3).toNat < 2 ^ 32) ∧
    (withReq (fun e => { e with faultMark := true }) 24 11).slotReq 0 0 = some (0, 0, { oneReq with faultMark := true }) ∧
    ((withReq id 0x1FFFFFFFFFF 0).val 2).toNat / 2 ^ 41 = 0 ∧
    (1 ≤ ((withReq id 0x100000007 0).val 2).toNat / 2 ^ 32 % 2 ^ 8 ∧ ((withReq id 0x100000007 0).val 2).toNat / 2 ^ 32 % 2 ^ 8 ≤ oneReq.ntok) ∧
    (((withReq id 1 0).val 2).toNat = 1 ∧ ((withReq id 4 0).val 2).toNat = 4 ∧ ((withReq id 0x80 0).val 2).toNat = 0x80 ∧
      ((withReq id 0xFF 0).val 2).toNat = 0xFF) := by decide +kernel

/-! ### Dispatch -/

theorem passed {s : State} {x : Extent} {f : Bool} (h : okAnd (copyPointer s x f) (fun _ => true) = true) : ∃ w, passes s x f w :=
  let ⟨w, h, _⟩ := okAnd_exists h
  ⟨w, h⟩

theorem placed {s : State} {x : Extent} {f : Bool} {bar : Option Word} {g : Window → CoreId}
    (h : okAnd (copyPointer s x f) (fun w => okIs (barPointer s bar (g w)) ()) = true) : ∃ w, passes s x f w ∧ barPointer s bar (g w) = .ok () :=
  let ⟨w, h, hb⟩ := okAnd_exists h
  ⟨w, h, okIs_eq hb⟩

/-- Records, registers and views with which every engine form below can be dispatched. -/
def eng : State :=
  let s := recs base [(1, record 0 0 0 256 64 16 0), (2, record 0 8 0 0 256 1 0x1000), (3, record 0 0 1 0 64 64 0), (4, record 0 1 0 128 64 64 0x2000),
    (5, record 1 1 0 128 64 64 0x4000), (6, record 0 1 0 128 64 64 0x6000), (7, record 0 13 0 8 1 64 0x8000), (8, record 0 0 0 268 67 1 0x9000),
    (9, record 0 0 0 256 64 1 0xA000), (10, record 0 13 0 8 1 65 0xB000), (11, record 0 14 0 4 1 4 0xC000), (12, record 0 0 0 4 1 4 0xC100),
    (13, record 0 13 0 8 1 4 0xC200), (14, record 2 1 0 64 8 4 0xC300), (15, record 0 0 0 4 1 1 0xC500)]
  let s := regs s [(1, 0xFFFFF10000121000), (2, 0xFFFFF10000141000), (3, 64), (4, 0xFFFFF10000161000), (5, 0x800000000), (6, 0x8000000000), (7, 1),
    (8, 0x100), (10, 0xFFFFF00000000000), (11, 0x00030101), (12, 0x10100), (13, 0x40), (14, 0x408000)]
  me s (fun c => { c with
    csr := { c.csr with parkocc := 1 }
    mview := { active := some 1, shadow := none, scales := 2, mxcfg := 0, sqcfg := 0x10100 }
    oview := c.oview.set 5 { loaded := true, cur := 0, nin := 1, nout := 1 } })

def laneAll : List Instr := [.vaddF 0 31 30 29 7, .vsubF 15 1 2 3 0, .vmulF 0 1 2 3 0, .vfmaF 0 1 2 3 0, .vfnmaF 0 1 2 3 0, .vminF 0 1 2 3 0,
  .vmaxF 0 1 2 3 0, .vabsF 0 1 2 0, .vnegF 0 1 2 0, .vcadd 0 1 2 3 0, .vcmul 0 1 2 3 0, .vaddI 0 1 2 3 0, .vsubI 0 1 2 3 0, .vmulI 0 1 2 3 0,
  .vand 0 1 2 3 0, .vor 0 1 2 3 0, .vxor 0 1 2 3 0, .vsll 0 1 2 3 0, .vsrl 0 1 2 3 0, .vsra 0 1 2 3 0, .vminI 0 1 2 3 0, .vmaxI 0 1 2 3 0,
  .vaddsI 0 1 2 3 0, .vsubsI 0 1 2 3 0]
def laneAll2 : List Instr := [.vcmpEqF 0 1 2 3 0, .vcmpLtF 0 1 2 3 0, .vcmpLeF 0 1 2 3 0, .vcmpUnF 0 1 2 3 0, .vcmpEqI 0 1 2 3 0, .vcmpLtI 0 1 2 3 0,
  .vcmpLtuI 0 7 31 0 7, .vsel 0 1 2 3 0, .mand 0 1 2 3 0, .mor 0 1 2 3 0, .mxor 0 1 2 3 0, .mnot 0 1 2 0, .vsfExp2 0 1 2 0, .vsfExp 0 1 2 0,
  .vsfLog2 0 1 2 0, .vsfLn 0 1 2 0, .vsfSigmoid 0 1 2 0, .vsfTanh 0 1 2 0, .vsfSilu 0 1 2 0, .vsfSoftplus 0 1 2 0, .vsfSinpi 0 1 2 0,
  .vsfCospi 0 1 2 0, .vrcp 0 1 2 0, .vrsq 0 1 2 0, .vrmsPart 0 1 2, .vcvt 0 1 2 8 0 1 3, .vqmx 0 30 2 3, .vredrAdd 0 1 2 0, .vredrMax 0 1 2 0,
  .vredrMin 0 1 2 0, .vredcAdd 0 1 2 0, .vredcMax 0 1 2 0, .vredcMin 0 1 2 0]

theorem wit_VectorUnitDispatch_lane : eng.me.qFull .vx = false ∧ ∀ i ∈ laneAll, ∃ x, laneClaim eng i = some x ∧ x.q = .vx ∧ x.ok := by
  refine ⟨by decide +kernel, fun i h => ?_⟩
  simp only [laneAll, List.mem_cons, List.not_mem_nil, or_false] at h
  rcases h with rfl | rfl | rfl | rfl | rfl | rfl | rfl | rfl | rfl | rfl | rfl | rfl | rfl | rfl | rfl | rfl | rfl | rfl | rfl | rfl | rfl | rfl |
    rfl | rfl <;> exact ⟨_, rfl, rfl, by first | exact True.intro | (dsimp only [tilesIn]; decide +kernel)⟩

theorem wit_VectorUnitDispatch_lane2 : ∀ i ∈ laneAll2, ∃ x, laneClaim eng i = some x ∧ x.q = .vx ∧ x.ok := by
  intro i h
  simp only [laneAll2, List.mem_cons, List.not_mem_nil, or_false] at h
  rcases h with rfl | rfl | rfl | rfl | rfl | rfl | rfl | rfl | rfl | rfl | rfl | rfl | rfl | rfl | rfl | rfl | rfl | rfl | rfl | rfl | rfl | rfl |
    rfl | rfl | rfl | rfl | rfl | rfl | rfl | rfl | rfl | rfl | rfl <;> exact ⟨_, rfl, rfl, by first | exact True.intro | (dsimp only [tilesIn]; decide +kernel)⟩

def vectorAll : List Instr := [.vld 0 1 1 0 0, .vst 0 1 1 0 0 1 3, .vrotr 0 1 2 3 0, .vbcr 0 1 2 7 0, .vrotc 0 1 2 3 0, .vbcc 0 1 2 7 0, .vxchC 0 1 2 7 0,
  .vxchR 0 1 2 7 0, .vslice 0 1 30 13 0, .vins 0 1 2 7 7, .vext 0 1 2 8 7, .vrms 0 1 2 6, .vbkt 0 2 1 5 0, .vmsk 0 1 2 1 0, .vrand 0 1 2 3 0,
  .vpark 0 15 1, .vunpark 0 1 0]

theorem wit_VectorUnitDispatch_vector : ∀ i ∈ vectorAll, ∃ x, vectorClaim eng i = some x ∧ x.q = .vx ∧ x.ok := by
  intro i h
  simp only [vectorAll, List.mem_cons, List.not_mem_nil, or_false] at h
  rcases h with rfl | rfl | rfl | rfl | rfl | rfl | rfl | rfl | rfl | rfl | rfl | rfl | rfl | rfl | rfl | rfl | rfl <;>
    exact ⟨_, rfl, rfl, by first | exact True.intro | (dsimp only [tilesIn, State.clean, recordIn, vectorRecord, originIn]; decide +kernel)⟩

theorem wit_VectorUnitDispatch_ochre : ∀ i ∈ [Instr.ox 0 2 1 0 0 5, .oload 0 6 10 11, .ounld 0 5, .ounld 0 6, .ostat 0 31],
    ∃ x, ochreClaim eng i = some x ∧ x.q = .vx ∧ x.ok := by
  intro i h
  simp only [List.mem_cons, List.not_mem_nil, or_false] at h
  rcases h with rfl | rfl | rfl | rfl | rfl <;>
    exact ⟨_, rfl, rfl, by first | exact True.intro | (dsimp only [tilesIn, State.clean, oxExtra]; decide +kernel)⟩

def matrixAll : List Instr := [.mcfg 0 0, .mcfg 0 8, .mwld 0 5 0, .mwswap 0, .msclA 0 1 7, .msclW 0 1, .mma 0 3 4 0 0, .mma 0 3 4 7 0, .mzero 0 3,
  .mdrain 0 6 3 0 0 1 3, .mdrain 0 6 3 5 1 0 0]

theorem wit_MatrixScanDispatch_matrix : eng.me.qFull .mx = false ∧ ∀ i ∈ matrixAll, ∃ x, matrixClaim eng i = some x ∧ x.q = .mx ∧ x.ok := by
  refine ⟨by decide +kernel, fun i h => ?_⟩
  simp only [matrixAll, List.mem_cons, List.not_mem_nil, or_false] at h
  rcases h with rfl | rfl | rfl | rfl | rfl | rfl | rfl | rfl | rfl | rfl | rfl <;>
    exact ⟨_, rfl, rfl, by first | exact True.intro | (dsimp only [State.clean, recordIn, linearRec]; decide +kernel)⟩

def scanAll : List Instr := [.scfg 0 12, .scfg 0 14, .sdecay 0 11 12 8, .schunk 0 7 8 9, .sstep 0 7 8 9, .sout 0 7 15 9, .spairBf16 0 6 4, .spairFp32 0 12 13,
  .spairPair 0 13 12]

theorem wit_MatrixScanDispatch_scan : eng.me.qFull .sq = false ∧
    ∀ i ∈ scanAll, ∃ x, scanClaim eng i = some x ∧ x.q = .sq ∧ x.ok := by
  refine ⟨by decide +kernel, fun i h => ?_⟩
  simp only [scanAll, List.mem_cons, List.not_mem_nil, or_false] at h
  rcases h with rfl | rfl | rfl | rfl | rfl | rfl | rfl | rfl | rfl <;>
    exact ⟨_, rfl, rfl, by first | exact True.intro | (dsimp only [State.clean, recordIn, linearRec, stateRec, inputRec, outputRec]; decide +kernel)⟩

theorem wit_MatrixScanDispatch_versions : ∀ i ∈ [Instr.ssnap 0 10 7 0, .sfork 0 10 7 0, .sroll 0 10 7 0, .scommit 0 10],
    ∃ x, scanClaim eng i = some x ∧ x.q = .sq ∧ x.ok := by
  intro i h
  simp only [List.mem_cons, List.not_mem_nil, or_false] at h
  rcases h with rfl | rfl | rfl | rfl
  · exact ⟨_, rfl, rfl, show eng.me.regPoison 0 = false by decide +kernel, by dsimp only [recordIn]; decide +kernel, by dsimp only [recordIn]; decide +kernel, by decide +kernel,
      ⟨1, by dsimp only [storeRec, linearRec]; decide +kernel, by decide +kernel⟩, by decide +kernel, by dsimp only [stateRec]; decide +kernel, by decide +kernel⟩
  · exact ⟨_, rfl, rfl, show eng.me.regPoison 0 = false by decide +kernel, by dsimp only [recordIn]; decide +kernel, by dsimp only [recordIn]; decide +kernel, by decide +kernel,
      ⟨1, by dsimp only [storeRec, linearRec]; decide +kernel, by decide +kernel⟩, by decide +kernel, by dsimp only [stateRec]; decide +kernel, by decide +kernel⟩
  · exact ⟨_, rfl, rfl, show eng.me.regPoison 0 = false by decide +kernel, by dsimp only [recordIn]; decide +kernel, by dsimp only [recordIn]; decide +kernel, by decide +kernel,
      ⟨1, by dsimp only [storeRec, linearRec]; decide +kernel, by decide +kernel⟩, by decide +kernel, by dsimp only [stateRec]; decide +kernel, by decide +kernel⟩
  · exact ⟨_, rfl, rfl, by dsimp only [recordIn]; decide +kernel, 1, by first | exact True.intro | (dsimp only [storeRec, linearRec]; decide +kernel)⟩

/-- Registers for the copy forms: s17 a gather descriptor, s18 its barrier, s19 and s20 a scratchpad pointer and the mask of core 0. -/
def copyRegs : State := regs eng [(17, 0x1000400000), (18, 0xFFFFF10000161000), (19, 0xFFFFF10000121000), (20, 1), (21, 0xFFFFF10000181000)]

theorem wit_CopyFormsDispatch_linear : copyRegs.me.qFull .ci = false ∧ copyRegs.me.qFull .co = false ∧
    ∀ i ∈ [Instr.cin 0 1 2 3 1, .cin 0 1 2 3 0, .cout 0 1 2 3 1, .credAddf 0 1 2 3 1, .credAddbf 0 1 2 3 0, .credAddi 0 1 2 3 0, .credMaxf 0 1 2 3 0,
      .credMinf 0 1 2 3 0], ∃ x, copyClaim copyRegs i = some x ∧ (x.q = .ci ∨ x.q = .co) ∧ x.ok := by
  refine ⟨by decide +kernel, by decide +kernel, fun i h => ?_⟩
  simp only [List.mem_cons, List.not_mem_nil, or_false] at h
  rcases h with rfl | rfl | rfl | rfl | rfl | rfl | rfl | rfl
  all_goals
    refine ⟨_, rfl, by decide, ?_⟩
    first
      | exact ⟨by dsimp only [copySources, State.clean]; decide +kernel, by unfold countIn; decide +kernel,
          placed (by decide +kernel), passed (by decide +kernel), by decide +kernel⟩
      | exact ⟨by dsimp only [copySources, State.clean]; decide +kernel, by unfold countIn; decide +kernel,
          by unfold ownWindow malformedPtr; decide +kernel, placed (by decide +kernel), passed (by decide +kernel), by decide +kernel⟩

theorem wit_CopyFormsDispatch_other :
    ∀ i ∈ [Instr.cfill 0 1 2 3 1, .cnestL 0 7 3 3 5, .cnestoL 0 7 3 3 0, .cnestGo 0 1 2 7 0, .cnestoGo 0 1 2 7 0, .cgath 0 1 2 17 1, .cpack 0 14 21 3 1,
      .cunpk 0 14 21 3 0, .cmcast 0 19 2 3 1, .cstrm 0 1 2 3], ∃ x, copyClaim copyRegs i = some x ∧ (x.q = .ci ∨ x.q = .co) ∧ x.ok := by
  intro i h
  simp only [List.mem_cons, List.not_mem_nil, or_false] at h
  rcases h with rfl | rfl | rfl | rfl | rfl | rfl | rfl | rfl | rfl | rfl
  all_goals refine ⟨_, rfl, by decide, ?_⟩
  · exact ⟨by dsimp only [copySources, State.clean]; decide +kernel, by unfold countIn; decide +kernel, placed (by decide +kernel)⟩
  · dsimp only [State.clean]; decide +kernel
  · dsimp only [State.clean]; decide +kernel
  · exact ⟨by dsimp only [copySources, State.clean]; decide +kernel, by decide +kernel, by decide +kernel, by decide +kernel,
      placed (by decide +kernel), passed (by decide +kernel), by decide +kernel⟩
  · exact ⟨by dsimp only [copySources, State.clean]; decide +kernel, by decide +kernel, by decide +kernel, by decide +kernel,
      placed (by decide +kernel), passed (by decide +kernel), by decide +kernel⟩
  · exact ⟨by dsimp only [copySources, State.clean]; decide +kernel, by decide +kernel, passed (by decide +kernel), placed (by decide +kernel)⟩
  · exact ⟨by dsimp only [copySources, State.clean]; decide +kernel, by dsimp only [recordIn]; decide +kernel, by decide +kernel, by decide +kernel,
      by decide +kernel, by decide +kernel, by decide +kernel, by decide +kernel, placed (by decide +kernel), by decide +kernel⟩
  · exact ⟨by dsimp only [copySources, State.clean]; decide +kernel, by dsimp only [recordIn]; decide +kernel, by decide +kernel, by decide +kernel,
      by decide +kernel, by decide +kernel, by decide +kernel, by decide +kernel, placed (by decide +kernel), by decide +kernel⟩
  · exact ⟨by decide, by dsimp only [copySources, State.clean]; decide +kernel, by unfold countIn; decide +kernel, by unfold malformedPtr; decide +kernel,
      by decide +kernel, passed (by decide +kernel), passed (by decide +kernel), okIs_eq (by decide +kernel), by decide +kernel⟩
  · exact ⟨by dsimp only [State.clean]; decide +kernel, by decide +kernel, by decide +kernel, by unfold malformedPtr; decide +kernel, by decide +kernel,
      by decide +kernel, passed (by decide +kernel), passed (by decide +kernel)⟩

/-- The VX queue holds 16 entries. -/
def fullVx : State := me queuedVx (fun c => c.setEntries .vx (List.replicate 16 (((c.queue .vx).entries.head?).getD (newEntry c .vx 0 (plainOp .relay)))))

theorem wit_DispatchAppends : (fullVx.me.queue .vx).entries.length = 16 ∧ (laneClaim eng (.mand 0 1 2 3 0)).isSome = true := by decide +kernel

/-- A dispatched entry at the head of the VX queue; one that waits for a token there is none of; one that has run. -/
def atVx (s : State) : State := { s with arg := { s.arg with ctx := 0, q := .vx } }
def waitingVx : State := atVx ((after (exec (.mand 0xC 5 3 2 0) base)).getD base)
def ranVx (e : Dep) : State := atVx ((after (exec .evEntryStart (atVx ((after (exec (.mand e 5 3 2 0) base)).getD base)))).getD base)

/-- Two pairs that are written apart: their groups are still to be written. -/
def apartSq : State :=
  let s := recs (words base (.pool 0) 0x121000 [0x3F800000, 0xC0000000]) [(1, record 0 0 0 8 2 1 0), (2, record 0 13 0 16 2 1 0x100)]
  let t := (after (exec (.spairPair 0 2 1) s)).getD s
  { (after (exec .evEntryStart { t with arg := { t.arg with q := .sq, flag := true } })).getD base with agenda := [.engineWrite 0 .sq 1] }

theorem wit_EntryStarts : (startable (atVx queuedVx) 0 .vx).isSome = true ∧ enginePick (atVx queuedVx) 0 .vx = some 0 ∧
    ((waitingVx.ctx 0).queue .vx).entries.head?.map (fun e => (e.dep.getLsbD 3, e.dep.getLsbD 2)) = some (true, true) ∧
    (waitingVx.ctx 0).tok (fifoWP .vx) = 0 ∧ (waitingVx.ctx 0).tok (fifoWN .vx) = 0 := by decide +kernel

/-- A deadline-class head beside an ordinary one that could start too: only the first has its turn. -/
def twoHeads : State := queuedVx.setCtx 1 { queuedVx.me with run := .waiting .gbar, csr := { queuedVx.me.csr with dlc := true } }

theorem wit_EntryStarts_order : (startable (atVx twoHeads) 0 .vx).isSome = true ∧ enginePick (atVx twoHeads) 0 .vx = some 1 ∧
    wantsEngine (atVx twoHeads) 0 .vx = true := by decide +kernel

theorem wit_EntryStarts_write : apartSq.agenda = [.engineWrite 0 .sq 1] ∧
    ((apartSq.ctx 0).head .sq).map (fun e => (e.todo.length, e.done)) = some (2, false) ∧ apartSq.memWf = true ∧ apartSq.late = false ∧
    (base.emem 0).pool.wf = true ∧ (base.emem 0).acc.wf = true := by decide +kernel

theorem wit_EntryRetires : ((ranVx 3).ctx 0).run = .running ∧
    (((ranVx 3).ctx 0).queue .vx).entries.map (fun e => e.done && !e.parked && e.pushP && e.pushN && e.report.isNone && (arithTrap e.flags e.nctl).isNone)
      = [true] ∧ ((ranVx 3).ctx 0).tok (fifoSP .vx) < 8 ∧ ((ranVx 3).ctx 0).tok (fifoSN .vx) < 8 := by decide +kernel

/-- The FIFO toward SQ is full. -/
def fullFifo : State := me (ranVx 2) (fun c => { c with tokens := c.tokens.set 7 8 })

theorem wit_EntryRetires_full : (((fullFifo.ctx 0).queue .vx).entries.map (fun e => e.done && !e.parked && e.pushP && !e.pushN)) = [true] ∧
    (fullFifo.ctx 0).run = .running ∧ 8 ≤ (fullFifo.ctx 0).tok (fifoSP .vx) := by decide +kernel

theorem wit_EntryRetires_fence : (me (ranVx 3) (fun c => { c with run := .waiting (.fence 9 4) })).me.run = .waiting (.fence 9 4) ∧
    (me (ranVx 3) (fun c => { c with run := .waiting (.fence 9 4) })).me.enginesRun = true ∧ (run (.draining (.escal 5)) base).me.run = .draining (.escal 5) := by
  decide +kernel

/-! ### What the entries write -/

theorem wit_VectorResults_integer : (31 : Nat) < 32 ∧
    ∀ op ∈ [LaneOp.addI, .subI, .mulI, .andI, .orI, .xorI, .sllI, .srlI, .sraI, .minI, .maxI, .addsI, .subsI],
      ∀ x y, (laneValue op x y).isSome = true := by
  refine ⟨by decide, fun op h x y => ?_⟩
  simp only [List.mem_cons, List.not_mem_nil, or_false] at h
  rcases h with rfl | rfl | rfl | rfl | rfl | rfl | rfl | rfl | rfl | rfl | rfl | rfl | rfl <;> rfl

theorem wit_VectorResults_float : ∀ op ∈ [LaneOp.addF, .subF, .mulF, .fmaF, .fnmaF, .minF, .maxF, .absF, .negF],
    ∃ f : BitVec 32 → BitVec 32 → BitVec 32 → BitVec 32 × Flags, ∀ u v w, floatLane op u v w = some (f u v w) := by
  intro op h
  simp only [List.mem_cons, List.not_mem_nil, or_false] at h
  rcases h with rfl | rfl | rfl | rfl | rfl | rfl | rfl | rfl | rfl <;> exact ⟨_, fun _ _ _ => rfl⟩

/-- A dispatched entry of any operation, with the highest names. -/
def entryOf (op : EngineOp) : Entry := newEntry ctx0 .vx 0 (plainOp op)
theorem wit_VectorResults_entry : (∀ op, (entryOf op).op = op) ∧ (31 : Nat) < 32 ∧ (7 : Nat) < 8 ∧ (63 : Nat) < 64 ∧ (15 : Nat) < 16 ∧ (1023 : Nat) < 1024 ∧
    (30 : Nat) ≠ 31 := ⟨fun _ => rfl, by decide⟩

/-- A record of `eng`. -/
def shp (i : Reg4) : Shape := shapeFields (eng.me.shape i)

theorem wit_VectorResults_records : (eng.emem 0).pool.wf = true ∧ (eng.emem 0).acc.wf = true ∧
    (shapeTrap (shp 1) true eng.me = none ∧ (shp 1).ilv = 0 ∧ fmtBits (shp 1).fmt ≠ 4) ∧
    (shapeTrap (shp 2) true eng.me = none ∧ (shp 2).linear = true ∧ (shp 2).fmt = 8 ∧ (shp 2).rows = 1 ∧ (shp 2).cols = 2 ^ 8 ∧
      4294966272 ≤ 4294966272) := by decide +kernel

/-- The leaky gate is loaded in slot 5, or the words of an image lie there that is none. -/
def gateImage : State := words base (.pool 0) 0x211000 leaky
def gated : Ctx := (runOload 0 (gateImage.emem 0) gateImage.me 5 0 0xF0000 3 1 1).ctx

theorem wit_VectorResults_ochre : ((gated.slot 5).planes[0].st = .loaded ∧ (gated.slot 5).planes[0].stamp = opidOf 0 gated) ∧
    (gated.slot 6).planes[0].st ≠ .loaded ∧ (gated.slot 5).planes[0].stamp ≠ opidOf 1 gated ∧
    (imageAt (gateImage.emem 0) gateImage.me 0xF0000 3 1 1).isSome = true ∧ imageAt (gateImage.emem 0) gateImage.me 0xF0000 2 1 1 = none := by decide +kernel

/-- Records of integer products, of pairs and of MXINT8 blocks. -/
def intAcc : Shape := shapeFields (record 0 7 1 0 64 64 0)
def intAct : Shape := shapeFields (record 0 6 0 64 64 64 0x2000)
def pairOut : Shape := shapeFields (record 0 13 0 512 64 64 0x6000)
def blockOut : Shape := shapeFields (record 0 12 0 64 64 64 0x6000)

theorem wit_MatrixResults : (eng.emem 0).pool.wf = true ∧ (eng.emem 0).acc.wf = true ∧
    (let u := List.replicate 64 (⟨1, false⟩ : PByte); u.length = 64 ∧ fmtBits 9 ≤ 16 ∧ fmtBits 12 ≤ 16) ∧
    ((shp 3).space = 1 ∧ shapeTrap (shp 3) true eng.me = none) ∧ ((shp 4).space = 0 ∧ 64 ≤ (shp 3).rows) ∧
    (intAcc.space = 1 ∧ shapeTrap intAcc true eng.me = none ∧ intAct.space = 0 ∧ intAct.fmt = 6 ∧ intAcc.fmt = 7 ∧ intAct.cols ≤ 64) := by decide +kernel

theorem wit_MatrixResults_drain : (linearRec (shp 6) ∧ shapeTrap (shp 6) true eng.me = none ∧ (shp 6).rows = (shp 3).rows ∧ (shp 6).cols = (shp 3).cols ∧
      (shp 6).fmt ≠ 12 ∧ (shp 6).fmt ≠ 13 ∧ fmtBits (shp 6).fmt ≠ 4) ∧
    (linearRec pairOut ∧ shapeTrap pairOut true eng.me = none ∧ pairOut.rows = 64 ∧ pairOut.cols = 64 ∧ pairOut.fmt = 13) ∧
    (linearRec blockOut ∧ shapeTrap blockOut true eng.me = none ∧ blockOut.rows = 64 ∧ blockOut.cols % 32 = 0 ∧ blockOut.fmt = 12) ∧
    (∀ x, blockOut.covers x → x < 0x20000 ∨ 0x20000 + blockOut.rows * (blockOut.cols / 32) ≤ x) := by
  refine ⟨by unfold linearRec; decide +kernel, by unfold linearRec; decide +kernel, by unfold linearRec; decide +kernel, ?_⟩
  intro x ⟨i, hi, _, h⟩
  rw [show blockOut.spans = (0x6000, 64, 64, 64) by decide +kernel] at hi h
  left; simp only at hi h; omega

/-- A context with the gate in slot 5 and the records of `eng`. -/
def epilogued : Ctx := { eng.me with oslots := gated.oslots }
theorem wit_MatrixResults_epilogue : ((epilogued.slot 5).planes[0].st = .loaded ∧ (epilogued.slot 5).planes[0].stamp = opidOf 0 epilogued) ∧
    (epilogued.slot 6).planes[0].st ≠ .loaded ∧ (epilogued.slot 5).planes[0].stamp ≠ opidOf 1 epilogued ∧
    shapeTrap (shp 6) true epilogued = none := by decide +kernel

/-- A record that ends before another begins shares no byte with it. -/
theorem apart_of {a b : Shape} {x y : Nat × Nat × Nat × Nat} (ha : a.spans = x) (hb : b.spans = y)
    (h : x.1 + x.2.2.1 * x.2.1 + x.2.2.2 ≤ y.1 ∨ y.1 + y.2.2.1 * y.2.1 + y.2.2.2 ≤ x.1) : Apart a b := by
  subst ha hb
  refine .inr fun n ⟨i, hi, h1, h2⟩ ⟨j, hj, h3, h4⟩ => ?_
  have u : i * a.spans.2.1 ≤ a.spans.2.2.1 * a.spans.2.1 := Nat.mul_le_mul_right _ (Nat.le_of_lt hi)
  have v : j * b.spans.2.1 ≤ b.spans.2.2.1 * b.spans.2.1 := Nat.mul_le_mul_right _ (Nat.le_of_lt hj)
  omega

theorem wit_ScanResults_decay : linearRec (shp 11) ∧ (shp 11).fmt = 14 ∧ (shp 11).cols = 1 ∧ (shp 12).rows = (shp 11).rows ∧
    shapeTrap (shp 11) true eng.me = none ∧ shapeTrap (shp 12) false eng.me = none ∧ Apart (shp 11) (shp 12) := by
  unfold linearRec
  exact ⟨by decide +kernel, by decide +kernel, by decide +kernel, by decide +kernel, by decide +kernel, by decide +kernel,
    apart_of (x := (0xC000, 4, 4, 4)) (y := (0xC100, 4, 4, 4)) (by decide +kernel) (by decide +kernel) (by decide)⟩

theorem wit_ScanResults_outputs : ((shp 9).rows = (shp 15).rows ∧ (shp 9).cols = 64 ∧ (shp 9).fmt = 0 ∧ (shp 9).ilv = 0 ∧ shapeTrap (shp 9) true eng.me = none) ∧
    stateRec (shp 7) (shp 7).cols ∧ outputRec (shp 9) (shp 8).rows ∧ (shp 8).cols = 65 + 2 * (shp 7).cols ∧ shapeTrap (shp 7) true eng.me = none ∧
    shapeTrap (shp 8) false eng.me = none ∧ 0 < (shp 8).rows ∧ Apart (shp 9) (shp 7) ∧ Apart (shp 9) (shp 8) := by
  unfold stateRec outputRec
  exact ⟨by decide +kernel, by decide +kernel, by decide +kernel, by decide +kernel, by decide +kernel, by decide +kernel, by decide +kernel,
    apart_of (x := (0xA000, 256, 1, 256)) (y := (0x8000, 8, 64, 8)) (by decide +kernel) (by decide +kernel) (by decide),
    apart_of (x := (0xA000, 256, 1, 256)) (y := (0x9000, 268, 1, 268)) (by decide +kernel) (by decide +kernel) (by decide)⟩

/-- A store of one version whose version is valid, and the empty one. -/
def valid1 : EMem := (words eng (.pool 0) (0x121000 + 0xB000) [1, 0]).emem 0

theorem wit_ScanResults_versions : storeRec (shp 10) 1 ∧ 0 < 1 ∧ stateRec (shp 7) (shp 10).cols ∧
    (shapeTrap (shp 10) true eng.me = none ∧ shapeTrap (shp 7) false eng.me = none ∧ shapeTrap (shp 7) true eng.me = none ∧
      shapeTrap (shp 10) false eng.me = none) ∧ Apart (shp 7) (shp 10) ∧
    ((valid1.pool.get (valid1.scr + (shp 10).base)).val.getLsbD 0 = true ∧
      (∀ i, 1 ≤ i → i < 8 → (valid1.pool.get (valid1.scr + (shp 10).base + i)).val = 0)) ∧
    ((eng.emem 0).pool.get ((eng.emem 0).scr + (shp 10).base)).val.getLsbD 0 = false := by
  unfold storeRec stateRec linearRec
  refine ⟨by decide +kernel, by decide, by decide +kernel, by decide +kernel,
    apart_of (x := (0x8000, 8, 64, 8)) (y := (0xB000, 8, 65, 8)) (by decide +kernel) (by decide +kernel) (by decide), ⟨by decide +kernel, ?_⟩, by decide +kernel⟩
  have h : ∀ i : Fin 8, 1 ≤ i.val → (valid1.pool.get (valid1.scr + (shp 10).base + i.val)).val = 0 := by decide +kernel
  exact fun i h1 h8 => h ⟨i, h8⟩ h1

theorem wit_ScanResults_pairs :
    (∀ x ∈ [(shp 6, shp 4, 1), (shp 12, shp 13, 0), (shp 13, shp 12, 13)], x.1.rows = x.2.1.rows ∧ x.1.cols = x.2.1.cols ∧ x.1.ilv = 0 ∧ x.1.fmt = x.2.2 ∧
      shapeTrap x.1 true eng.me = none ∧ shapeTrap x.2.1 false eng.me = none) ∧
    Apart (shp 6) (shp 4) ∧ Apart (shp 12) (shp 13) ∧ Apart (shp 13) (shp 12) := by
  exact ⟨by decide +kernel,
    apart_of (x := (0x6000, 128, 64, 128)) (y := (0x2000, 128, 64, 128)) (by decide +kernel) (by decide +kernel) (by decide),
    apart_of (x := (0xC100, 4, 4, 4)) (y := (0xC200, 8, 4, 8)) (by decide +kernel) (by decide +kernel) (by decide),
    apart_of (x := (0xC200, 8, 4, 8)) (y := (0xC100, 4, 4, 4)) (by decide +kernel) (by decide +kernel) (by decide)⟩

/-- An argument with a word. -/
def argWord (w : Word) (s : State) : State := { s with arg := { s.arg with word := w } }
def argReg (r : FwReg) (s : State) : State := { s with arg := { s.arg with reg := r } }

theorem wit_FirmwareRegisterWrites : anyTaskHeld State.reset = false ∧
    (anyTaskHeld (gang pairTask id) = true ∧ ((argWord 1 (gang pairTask id)).die 0).dscarve.toNat ≠ min 64 (1 % 2 ^ 7)) ∧
    splitOk 0x492 = true ∧ (∀ k, coreOf k = State.reset.arg.core → (State.reset.ctx k).run = .idle) ∧ splitOk 0xFFF = false ∧
    (∀ x : CoreId, (State.reset.part 0).cores.getLsbD x.val = true → (0 : Word).getLsbD x.val = false → partOn State.reset 0 x = false) ∧
    (let s := (gang pairTask id).setPart 0 { State.reset.part 0 with cores := 3 }
     ∃ x : CoreId, (s.part 0).cores.getLsbD x.val = true ∧ (0 : Word).getLsbD x.val = false ∧ partOn s 0 x = true) ∧
    ((argReg .preempt State.reset).arg.reg = .preempt ∧ (argReg (.coalw 255) barsUp).arg.reg = .coalw 255 ∧ barsRespond barsUp = true ∧
      (argReg (.bwin 3) State.reset).arg.reg = .bwin 3 ∧ (argReg .snapat State.reset).arg.reg = .snapat ∧
      (argReg .snapRearm State.reset).arg.reg = .snapRearm) := by decide +kernel

theorem wit_FirmwareRegisterWrites_more : posting.me.abroad = true ∧ (∀ k, (State.reset.ctx k).abroad = false) ∧
    ((argReg (.fhPort 3) State.reset).arg.reg = .fhPort 3 ∧ (argReg (.msixAddr 255) barsUp).arg.reg = .msixAddr 255 ∧
      (argReg (.msixData 0) barsUp).arg.reg = .msixData 0 ∧ (argReg (.msixMask 7) barsUp).arg.reg = .msixMask 7 ∧ barsUp.msixPending.getLsbD 7 = false) ∧
    (({ State.reset with agenda := [.regRead .tsctl] }).agenda = [.regRead .tsctl] ∧ State.reset.late = false) := by decide +kernel

def argBudget (b : Budget) (s : State) : State := { s with arg := { s.arg with budget := b } }

theorem wit_BudgetAndTimeEvents :
    ((argBudget (.cbud 0) base).arg.budget = .cbud 0 ∧ base.taskOf 0 = none) ∧
    ((gang { pairTask with dlc := true } id).taskOf 0 = some (0, { pairTask with dlc := true }) ∧ State.reset.limits.issfloor < 2 ^ 32) ∧
    ((argBudget (.link 15) base).arg.budget = .link 15 ∧ (argBudget (.fh 15) base).arg.budget = .fh 15 ∧ (argBudget (.dmem 15) base).arg.budget = .dmem 15 ∧
      (15 : Fin 16) ≠ 0 ∧ State.reset.limits.tenmax ≤ 256) ∧
    periodAt { State.reset with period := 1 } = 1 ∧ periodAt State.reset ≠ State.reset.period ∧
    ((0x7FFFFFFFFFFFFFFF : Word).toNat < 2 ^ 63 ∧ 2 ^ 63 ≤ (0x8000000000000000 : Word).toNat) ∧
    (State.reset.snapLast = none ∧ State.reset.snapArmed = true) ∧
    ((let s := { State.reset with tsc := 100, snapLast := some 0 }; ∀ x, s.snapLast = some x → (s.tsc - x).toNat ≤ 100) ∧
      (let s := { State.reset with tsc := 101, snapLast := some 0 }; ∀ x, s.snapLast = some x → 100 < (s.tsc - x).toNat)) ∧
    State.reset.snapat = 0 ∧ (base.ctx base.arg.ctx).run ≠ .idle := by
  refine ⟨by decide +kernel, by decide +kernel, by decide +kernel, by decide +kernel, by decide +kernel, by decide +kernel, by decide +kernel,
    ⟨fun x h => ?_, fun x h => ?_⟩, by decide +kernel, by decide +kernel⟩ <;> (cases h; decide)

/-- Port 1 is up with one GiB from 0 on, and the flit is at hand. -/
def flitAt (seq : BitVec 12) (addr : Nat) : State :=
  let s := State.reset.setBport 1 { State.reset.bport 1 with up := true, bwinSize := 1 }
  { s with arg := { s.arg with port := 1, flit := { seq := seq, addr := addr, bytes := List.replicate 8 0xAB, poison := 0, cred := none } } }

theorem wit_LinkAndFronthaulEvents :
    (State.reset.bport 0).up = false ∧ (flitAt 2047 0).arg.flit.seq.toNat < 2048 ∧ ((flitAt 1 0).bport 1).up = true ∧
    2048 ≤ ((flitAt 2048 0).arg.flit.seq - ((flitAt 2048 0).bport 1).rxSeq).toNat ∧
    ((flitAt 0 0).bport 1).accepts 0x20 8 = true ∧ ((flitAt 0 0).bport 1).accepts 0x40000000000 8 = false ∧ (flitAt 0 0).memWf = true ∧
    (let e : SteerEntry := { SteerEntry.zero with valid := true, part := 1, core := 2, symm := 14 }
     let s := State.reset.setPart 1 { State.reset.part 1 with cores := 4, fh := true, en := true }
     e.part.toNat < 16 ∧ e.core.toNat < 64 ∧ e.ctx.toNat < 4 ∧ (s.part (Fin.ofNat 16 e.part.toNat)).fh = true ∧
       (s.part (Fin.ofNat 16 e.part.toNat)).cores.getLsbD e.core.toNat = true ∧ (bindings (steerPut 5 e s.steering)).length ≤ 512) ∧
    SteerEntry.zero.valid = false := by decide +kernel

/-- Port 1 is up with the flit 7 of the first entry of context 0's CO queue sent, and 16 replays of it have failed. -/
def dyingLink : State :=
  let s := base.setBport 1 { State.reset.bport 1 with up := true, unacked := [{ seq := 7, owner := .copy 0 .co 0 }], replays := 16 }
  me { s with arg := { s.arg with port := 1 } } (fun c => c.enqueue .co 0 (plainOp .relay) 0)

theorem wit_LinkAndFronthaulEvents_dead : (dyingLink.bport 1).up = true ∧ 16 ≤ (dyingLink.bport 1).replays ∧
    (dyingLink.ctx 0).running .co = none ∧ (∀ k, ∀ q ∈ [EngineQ.ci, .mx, .sq, .vx, .co], (State.reset.ctx k).running q = none) ∧
    (((dyingLink.ctx 0).queue .co).entries[0]?.map (fun e => (e.seq, e.done))) = some (0, false) ∧
    ¬ ((State.reset.bport 1).replays ≥ 16 ∨ (State.reset.bport 1).unacked ≠ [] ∨ State.reset.arg.flag = true) := by decide +kernel

/-- A frame that is no eCPRI message on port 2, which runs at 25 Gb/s. -/
def framed (ms : List Mark) : State :=
  { State.reset with fhSpeed := State.reset.fhSpeed.set 2 25, marks := ms,
                     arg := { State.reset.arg with port := 2, frame := { State.reset.arg.frame with port := 2, fcsOk := true } } }

theorem wit_LinkAndFronthaulEvents_frames : ((framed []).arg.frame.fcsOk = true ∧ (framed []).fhSpeed[2] ≠ 0 ∧ (framed []).arg.frame.ecpri = false) ∧
    State.reset.arg.frame.fcsOk = false ∧ State.reset.fhSpeed[2] = 0 ∧
    (∃ m ∈ (framed [⟨.steering, 0, 3⟩]).marks, m.obj = .steering ∧ m.at_ = State.reset.tsc ∧ 2 < m.src) := by
  refine ⟨by decide +kernel, by decide +kernel, by decide +kernel, ⟨_, List.mem_cons_self, by decide +kernel⟩⟩

/-- A load from the host is on its way. -/
def loading : State := me base (fun c => { c with hostLoads := [{ acq := false, d := 9, addr := 0, size := 8, signed := true }] })

theorem wit_HostAccessEvents : barsRespond State.reset = false ∧ barsRespond barsUp = true ∧ barsUp.memWf = true ∧
    (63999999996 + [(1 : Byte), 2, 3, 4].length ≤ 64000000000 ∧ 63999999996 % 4 = 0) ∧ barsUp.stale = [] ∧
    ((2 ^ 36 + 63999999996) / 2 ^ 36 = 1 ∧ (2 ^ 36 + 63999999996) % 2 ^ 36 + 4 = 64000000000 ∧ 64000000000 ≤ 64000000000 % 2 ^ 36 ∧
      2 ≤ 2 ^ 37 / 2 ^ 36) ∧
    (heldWord none 0x40 hostFilled.stale).map (·.bytes) = some (hostFilled.word8 .dmem 0x40) ∧ (hostFilled.word8 .dmem 0x40).length = 8 ∧
    ((loading.ctx 0).hostLoads.map (fun l => (l.acq, l.size)) = [(false, 8)] ∧ loading.arg.flag = false) ∧
    (posting.me.posted.map (·.poison)) = [false] := by decide +kernel

theorem wit_MemoryErrorsAndWalks : (validDev 0 = true ∧ validDev (2 ^ 40) = false) ∧ State.reset.memWf = true ∧
    (let s := State.reset.write .dmem 0x20 (pbytes true [1]); ∃ i, i < 32 ∧ (s.dmem.get (0x20 + i)).poison = true) ∧
    (∀ i, i < 32 → (State.reset.dmem.get i).poison = false) ∧ (State.reset.part 0).ten = false := by decide +kernel

/-! ### Host queues, copies, Madder, Firkin, Bushel, tasks, boot -/

/-- The next packet of queue 2 after the doorbell of ring 0 for the words of `l`. -/
def packetIs (l : List Nat) (f : State → Packet → Bool) : Bool :=
  match event .evDoorbell (queued l) (fun a => { a with hq := 2, ring := 0, word := BitVec.ofNat 64 l.length }) with
  | some t => (match takePacket t t.arg.hq t.arg.die with
      | .packet p th _ _ => p.good && decide ((t.hq t.arg.hq).acted < th.taken) && f t p
      | _ => false)
  | none => false

theorem wit_QueuePackets_doorbell : let s := queued [0x00010000]
    ((s.hq 2).map.isSome = true ∧ barsRespond s = true ∧ ((64 : BitVec 32) - (s.hq 2).published[0]).toNat ≤ 2 ^ 6) := by decide +kernel

theorem wit_QueuePackets_nop : packetIs [0x00010000] (fun _ p => p.type == 0) = true := by decide +kernel
theorem wit_QueuePackets_launch : packetIs [0x00080001, 0, 0, 0x00FF0001, 0, 0, 0, 0] (fun _ p => p.type == 1 && !p.isWarm) = true := by decide +kernel
theorem wit_QueuePackets_warm : packetIs [0x00080001, 0, 0, 0x100000000, 0, 0, 0, 0] (fun _ p => p.type == 1 && p.isWarm) = true := by decide +kernel
theorem wit_QueuePackets_wait : packetIs [0x00030102, 0x18100, 0] (fun t p => p.type == 2 && waitOver t 2 (p.word 1) (BitVec.ofNat 2 p.flags) (p.word 2)) = true ∧
    packetIs [0x00030202, 0x18100, 0] (fun t p => p.type == 2 && !waitOver t 2 (p.word 1) (BitVec.ofNat 2 p.flags) (p.word 2)) = true := by decide +kernel
theorem wit_QueuePackets_signal : packetIs [0x00030003, 0x18100, 5] (fun _ p => p.type == 3 && p.flags == 0) = true ∧
    packetIs [0x00030103, 0x18100, 5] (fun t p => p.type == 3 && p.flags == 1 && (unitWord t 0 (t.qpart 2) (p.word 1)).isSome) = true ∧
    packetIs [0xFF00030203, 0x18100, 5] (fun _ p => p.type == 3 && p.flags == 2) = true ∧
    packetIs [0xFF00030303, 0x18100, 5] (fun t p => p.type == 3 && p.flags == 3 && (unitWord t 0 (t.qpart 2) (p.word 1)).isSome) = true := by decide +kernel
theorem wit_QueuePackets_indirect : packetIs [0x100020004, 0x18200]
    (fun t p => p.type == 4 && decide (p.place.level < 4) && !overlapsStack (p.word 1) p.arg.toNat ((t.hq 2).thread 0).stack) = true := by decide +kernel
theorem wit_QueuePackets_fence : packetIs [0x00010006] (fun t p => p.type == 6 && fenceOver t 2) = true := by decide +kernel

/-- Packets that need more state: the words lie in a buffer that an INDIRECT has opened, at 0x18200. -/
def nested (l : List Nat) : State :=
  let s := queued []
  let b : PBuf := { base := 0x18200, words := l.length, pos := 0, ring := 0, stamp := 0 }
  let s := s.setHq 2 { s.hq 2 with threads := (s.hq 2).threads.set 0 { QThread.fresh with stack := [b] } }
  { s.write .dmem 0x18200 (l.flatMap (natBytes 8)) with arg := { s.arg with hq := 2 } }

def nestedIs (s : State) (f : Packet → Bool) : Bool := 
  match takePacket s 2 0 with | .packet p th _ _ => p.good && decide ((s.hq 2).acted < th.taken) && f p | _ => false

theorem wit_QueuePackets_loop : nestedIs (nested [0x400020004, 0x18208, 0, 0])
    (fun p => p.type == 4 && overlapsStack (p.word 1) p.arg.toNat [{ base := 0x18200, words := 4, pos := 2, ring := 0, stamp := 0 }]) = true := by decide +kernel
theorem wit_QueuePackets_fence_waits : let s := { nested [0x00010006] with tasks := [{ pairTask with q := 2 }] }
    nestedIs s (fun p => p.type == 6) = true ∧ fenceOver s 2 = false := by decide +kernel
theorem wit_QueuePackets_stop : (match takePacket (nested [0x00030002]) 2 0 with | .stop _ _ _ => true | _ => false) = true := by decide +kernel

/-- The other thread reads a packet that has acted. -/
theorem wit_QueuePackets_second : (let s := nested [0x00010000]
      match takePacket (s.setHq 2 { s.hq 2 with acted := 1 }) 2 0 with | .packet p th _ _ => p.good && decide (th.taken ≤ 1) | _ => false) = true := by decide +kernel

theorem wit_QueueWaitsEnd :
    let x := fun (b : QBlock) => (queued []).setHq 2 { (queued []).hq 2 with block := b }
    (waitOver (x (.wait 0x18100 1 0)) 2 0x18100 1 0 = true ∧ waitOver (x (.wait 0x18100 2 0)) 2 0x18100 2 0 = false) ∧
    (∀ t ∈ (x .fence).tasks, t.q = 2 → t.orphan = false → t.st = .completed ∨ t.st = .killed ∨ t.st = .refused) ∧
    (let s := { x .fence with tasks := [{ pairTask with q := 2 }] }
     ∃ t ∈ s.tasks, t.q = 2 ∧ t.orphan = false ∧ ¬ (t.st = .completed ∨ t.st = .killed ∨ t.st = .refused)) := by
  refine ⟨by decide +kernel, fun t h => ?_, ⟨_, List.mem_cons_self, by decide⟩⟩
  exact absurd h (List.not_mem_nil)

theorem wit_QueueWaitsEnd_window :
    let s := { State.reset with tsc := 1000, msi := State.reset.msi.set 0 { win := 1, evcnt := 1, openUntil := some 1000, count := 1 } }
    (s.msiOf s.arg.vec).openUntil = some 1000 ∧ (1000 : Word).toNat ≤ s.tsc.toNat ∧
    ({ s with tsc := 999 }).tsc.toNat < (1000 : Word).toNat ∧ (s.msixOf s.arg.vec).mask = true ∧
    (({ s with msix := s.msix.set 0 { addr := 0, data := 0, mask := false } }).msixOf s.arg.vec).mask = false := by decide +kernel

/-- A copy that runs at the head of a queue of context 0. -/
def inFlight (i : Instr) (q : EngineQ) (s : State) : State :=
  let a := (after (exec i s)).getD s
  (after (exec .evEntryStart { a with arg := { a.arg with ctx := 0, q := q } })).getD a

def flies (s : State) (q : EngineQ) (f : Entry → CopyOp → Bool) : Bool := match (s.ctx 0).running q with | some (e, op) => f e op | none => false

def armed : State := base.write (.pool 0) 0x122000 (natBytes 8 0x20000000C000000C)
def filling : State := inFlight (.cfill 0 5 6 8 1) .ci
  (regs armed [(5, 0xFFFFF10000121004), (6, 0x1122334455667788), (8, 12), (9, 0xFFFFF10000122000)])
def copyingIn : State := inFlight (.cin 0 5 6 8 0) .ci
  (regs (base.modDie 0 (fun d => { d with dscarve := 1 })) [(5, 0xFFFFF10000121004), (6, 0xFFFFF20000000000), (8, 12)])

theorem wit_CopyStreamEvents_granule : filling.memWf = true ∧
    flies filling .ci (fun e op => e.onEngine && op.kind == .cfill && op.ra == scrAt 0 0x121004 && decide (0x121004 + op.total ≤ 2 ^ 22) && !e.dead && !e.drop &&
      e.zeroFrom.isNone && decide (256 * e.goff < op.total)) = true ∧
    (flies (me filling (fun c => { c with queues := c.queues.set 0 { (c.queue .ci) with entries := (c.queue .ci).entries.map (fun e => { e with onEngine := false }) } }))
      .ci (fun e _ => !e.onEngine)) = true ∧ enginePick filling 0 .ci = none ∧
    flies copyingIn .ci (fun e op => op.kind == .cin && op.ra == scrAt 0 0x121004 && op.rb == dshAt 0 0 && decide (0 + op.total ≤ 2 ^ 22) && !e.dead &&
      !e.drop && e.zeroFrom.isNone && decide (256 * e.goff < op.total)) = true := by decide +kernel

theorem wit_CopyStreamEvents_complete :
    (match after (exec .evCopyGranule filling) with
     | some t => t.memWf && flies t .ci (fun e op => (foreignCores 0 op).isEmpty && decide (op.kind ≠ .cstrm ∧ op.kind ≠ .cmcast) && !e.drop &&
         e.claim.isNone && decide (op.total ≤ 256 * e.goff) && decide (0 < e.delivered) && (op.bar == some 0xFFFFF10000122000) && okIs (objectAt t 0 0xFFFFF10000122000 8) 0x122000)
     | none => false) = true ∧
    (match after (exec .evCopyGranule copyingIn) with
     | some t => flies t .ci (fun e op => op.bar.isNone && (foreignCores 0 op).isEmpty && decide (op.total ≤ 256 * e.goff))
     | none => false) = true := by decide +kernel

theorem wit_CopyStreamEvents_unacked : ((dyingLink.bport 1).unacked.any (fun u => u.owner == .copy 0 .co 0)) = true := by decide +kernel

/-- A cstrm of 64 bytes into the ring `r`, and one of 128 bytes, which no slot holds. -/
def streaming (r : State) (n : Word) : State :=
  let s := inFlight (.cstrm 0 5 6 8) .co (regs r [(5, 0xFFFFF10000121000), (6, 0xFFFFF10000130000), (8, n)])
  { s with arg := { s.arg with producer := .stream 0 } }

theorem wit_CopyStreamEvents_claim : (streaming (ring 3 3 3 0) 64).memWf = true ∧ ((streaming (ring 3 3 3 0) 64).ctx 0).enginesRun = true ∧
    flies (streaming (ring 3 3 3 0) 64) .co (fun e op => op.kind == .cstrm && e.claim.isNone && e.slot.isNone && !e.dead && !e.drop &&
      !engineBusy (streaming (ring 3 3 3 0) 64) 0 .co &&
      (match producerRing (streaming (ring 3 3 3 0) 64) 0 (scrCore op.ra) (scrOff op.ra) with
       | some r => decide (op.total ≤ r.slotsz) && decide ((r.resv - r.freed).toNat < 2 ^ r.lgn) | none => false)) = true ∧
    flies (streaming (ring 4 4 4 0) 64) .co (fun _ op =>
      (match producerRing (streaming (ring 4 4 4 0) 64) 0 (scrCore op.ra) (scrOff op.ra) with
       | some r => decide (op.total ≤ r.slotsz) && decide (2 ^ r.lgn ≤ (r.resv - r.freed).toNat) | none => false)) = true ∧
    flies (streaming base 64) .co (fun e op => e.claim.isNone && (producerRing (streaming base 64) 0 (scrCore op.ra) (scrOff op.ra)).isNone) = true := by
  decide +kernel

theorem wit_CopyStreamEvents_publish :
    (match (after (exec .evStreamSlotClaim (streaming (ring 3 3 3 0) 64))).bind (fun t => after (exec .evCopyGranule { t with arg := { t.arg with q := .co } })) with
     | some t => flies t .co (fun e op => (e.claim == some 3) && e.slot.isSome && (e.ring == 0xFFFFF10000121000) && decide (op.total ≤ 256 * e.goff) &&
         destOk t 0 (scrCore e.ring) (scrOff e.ring) 32 && engineBusy t 0 .co &&
         decide ((ringOf (t.read (.pool 0) 0x121000 32)).filled = 3))
     | none => false) = true ∧ (ringOf ((ring 4 2 2 0).read (.pool 0) 0x121000 32)).filled ≠ 3 := by decide +kernel

/-- A grammar of two states at 0x10100: token 1 is the byte 0x61, which leads from state 0 to the accepting state 1; token 0 has no
bytes; token 2 names a node that is not there. -/
def grammar : List Nat :=
  [0x47474245, 0x00010001, 2, 3, 0, 0xFFFFFFFF, 64, 0, 80, 0, 96, 0, 140, 0, 1, 2, 0, 1, 0, 0x10000, 0xFFFF6161, 1, 0, 0, 0xFFFFFFFF, 1, 0, 0,
   0, 0, 0, 0x161, 0, 1, 7]

def graphed : State := words (mapped.setCtx 0 ctx0) .dmem 0x10100 grammar

/-- Automaton 5 of partition 0, bound to it or not, with a snapshot in place 7; automaton 6 belongs to partition 0 too. -/
def automatic (bound : Bool) (g : GOp) : State :=
  let h := (readHeader graphed 0 0 0x10100).getD Automaton.unbound.header
  let u : Automaton := { Automaton.unbound with
    part := some 0, bound := bound, grammar := 0x10100, header := h
    snaps := (Vector.replicate 8 none).set 7 (some { state := 1, stack := [], fin := false }) }
  me ((graphed.setAut 0 5 u).setAut 0 6 u) (fun c => { c with gops := [(g, 0)] })

theorem wit_MadderPerforms :
    let s := automatic true (.adv 5 1)
    (s.me.gops = [(.adv 5 1, 0)] ∧ gWaits s 0 (.adv 5 1) 0 = false ∧ (s.aut 0 5).part = some s.me.csr.partn ∧ (s.aut 0 5).bound = true) ∧
    okIs (walkToken s ((s.aut 0 5).image 0 0) (s.aut 0 5).conf 1) { state := 1, stack := [], fin := false } = true ∧
    (match walkToken s ((s.aut 0 5).image 0 0) (s.aut 0 5).conf 0 with | .error .dead => true | _ => false) = true ∧
    (match walkToken s ((s.aut 0 5).image 0 0) (s.aut 0 5).conf 2 with | .error (.malformed _) => true | _ => false) = true ∧
    (readHeader s 0 0 0x10100).isSome = true ∧ (s.aut 0 5).snaps[7] = some { state := 1, stack := [], fin := false } ∧
    (s.aut 0 6).bound = true ∧ (s.aut 0 7).part ≠ some s.me.csr.partn ∧ (0x121000 : Word).toNat + 128 ≤ (s.ctx 0).scrStop ∧ s.memWf = true ∧
    ((automatic false (.adv 5 1)).aut 0 5).bound = false := by decide +kernel

/-- A restore of the automaton runs; another context of the die has sent for it earlier. -/
theorem wit_MadderPerforms_waits :
    (((automatic true (.adv 5 1)).setAut 0 5 { (automatic true (.adv 5 1)).aut 0 5 with restoring := true }).aut 0 5).restoring = true ∧
    (let s := me ((automatic true (.adv 5 1)).setCtx 4 { ctx0 with gops := [(.adv 5 1, 0)] }) (fun c => { c with gops := [(.adv 5 1, 1)] })
     dieOf (coreOf 4) = 0 ∧ ((GOp.adv 5 1), (0 : Word)) ∈ (s.ctx 4).gops ∧ 5 ∈ (GOp.adv 5 1).reaches ∧ (0 : Word).toNat < (1 : Word).toNat) := by decide +kernel

/-- A move of the request `oneReq`: 64 BF16 elements stored at 0x10200 for rank 0, buffer at pool offset 0x121000. -/
def oneMap : FrameMap := { ffmt := 0, sreg := 0, bufsz := 576, gseg := 0x10400, slices := [{ addr := 0x10200, rank := 0, elems := 64, offset := 0 }] }
def oneMove (load : Bool) (member : Option (Nat × CtxId)) : Move :=
  { load := load, reqid := 5, task := 0, slot := 0, base := 0x121000, map := oneMap, part := 0, member := member, seg := pbytes false (List.replicate 512 0),
    aut := 5, pos := 0, ord := 3, discarded := false }
def moving (load : Bool) (member : Option (Nat × CtxId)) : State := (mapped.setCtx 0 ctx0).modDie 0 (fun d => { d with moves := [oneMove load member] })

/-- The state in which a move of `cnt` bytes at an address reads or writes them, and whether the budgets stop it. -/
def moved (s : State) (acc : Access) (va : Word) (cnt : Nat) : State × Bool :=
  let r := frameCost s 0 0 acc va cnt
  (touchRange (countMoved (charge s 0 r.1 r.2) 0 cnt) 0 0 acc va cnt, moveStops s 0 r.2)

theorem wit_FrameEngine_slice :
    let s := moving true (some (0, 0))
    ((s.die 0).moves[1]? = none ∧ (s.die 0).moves[0]? = some (oneMove true (some (0, 0))) ∧ loadWaits s 0 (oneMove true (some (0, 0))) = false ∧
      s.memWf = true ∧ sliceAt oneMap.ffmt (oneMap.ofRank 0) 0 = oneMap.slices.head?.map (fun x => (x, 0)) ∧
      (sliceAt oneMap.ffmt (oneMap.ofRank 0) 256).isNone = true) ∧
    (let x := moved s accUnitRead 0x10200 256
     x.2 = false ∧ okAnd (frameRead x.1 0 0 0x10200 256) (fun _ => true) = true) := by decide +kernel

/-- A write-back that ends well, and one whose first pairs were poisoned at the boundary. -/
theorem wit_FrameEngine_writeback :
    let s := moving false (some (0, 0))
    let m := oneMove false (some (0, 0))
    let b := (m.seg.drop 0).take (8 * (256 / frameBytes 0))
    let x := moved s accUnitWrite 0x10200 256
    (s.die 0).moves[0]? = some m ∧ x.2 = false ∧ anyPoison b = false ∧
    okAnd (frameWrite x.1 0 (m.flits 0) 0 0x10200 (compress 0 b (256 / frameBytes 0))) (fun _ => true) = true ∧
    anyPoison ((pbytes true (List.replicate 512 0)).take 8) = true ∧ errs (frameWrite State.reset 0 (m.flits 0) 0 0x10200 (pbytes false [0])) = true := by decide +kernel

theorem wit_FrameEngine_waits : let s := (mapped.setCtx 0 ctx0).modDie 0 (fun d =>
      { d with moves := [{ oneMove true (some (0, 0)) with ord := 4 }, oneMove false (some (0, 0))] })
    loadWaits s 0 { oneMove true (some (0, 0)) with ord := 4 } = true ∧ (s.die 0).moves[0]? = some { oneMove true (some (0, 0)) with ord := 4 } := by
  decide +kernel

/-- The move reads or writes its first 256 bytes at an address, within the budgets. -/
def reads (s : State) (va : Word) : Bool :=
  let x := moved s accUnitRead va 256
  !x.2 && okAnd (frameRead x.1 0 0 va 256) (fun _ => true)
def writes (s : State) (va : Word) : Bool :=
  let x := moved s accUnitWrite va 256
  !x.2 && okAnd (frameWrite x.1 0 ((oneMove false none).flits 0) 0 va (pbytes false (List.replicate 256 0))) (fun _ => true)

/-- The first and the last 256 bytes of a segment's restore and of its store. -/
theorem wit_FrameEngine_segment : loadWaits (moving true none) 0 (oneMove true none) = false ∧
    loadWaits (moving true none) 0 { oneMove true none with pos := 1792 } = false ∧ 0 + 256 < 2048 ∧ 2048 ≤ 1792 + 256 := by decide +kernel
theorem wit_FrameEngine_segment_read : reads (moving true none) 0x10400 = true ∧ reads (moving true none) 0x10B00 = true := by decide +kernel
theorem wit_FrameEngine_segment_write : writes (moving false none) 0x10400 = true ∧ writes (moving false none) 0x10B00 = true := by decide +kernel

theorem wit_FrameEngine_ends : let s := { moving false (some (0, 0)) with tasks := [pairTask] }
    let t := s.modDie 0 (fun d => { d with table := [{ oneReq with pendingWb := 1 }] })
    t.findReq (fun e => e.task == 0 && e.record.reqid == 5) = some (0, 0, { oneReq with pendingWb := 1 }) := by decide +kernel

theorem wit_FrameEngine_record :
    let s := { graphed.modDie 0 (fun d => { d with table := [{ oneReq with wb := some oneReq.record }] }) with tasks := [pairTask] }
    (s.die 0).table[0]? = some { oneReq with wb := some oneReq.record } ∧ oneReq.pendingWb = 0 ∧ s.taskAt oneReq.task = some pairTask ∧ oneReq.wb = none := by
  decide +kernel

/-- Both members wait at gbar.step for the end of a step; `t` is the task, `l` the table. -/
def stepping (t : Task) (l : List ReqEntry) : State :=
  let s := gang t arrivedStep
  (s.setCtx 0 (arrivedStep (s.ctx 0))).modDie 0 (fun d => { d with table := l })
def stepTask : Task := { pairTask with stepp := true }

theorem wit_StepBoundaries_waits : let s := gang stepTask arrivedStep
    s.taskAt s.arg.task = some stepTask ∧ stepTask.stepp = true ∧ stepTask.st = .released ∧ stepTask.gsize ≤ 64 ∧
    ∃ m ∈ stepTask.members, (s.ctx m).arr = false ∨ (s.ctx m).arrStep = false := by decide +kernel

theorem wit_StepBoundaries_end : let t := { stepTask with endReq := true }
    (stepping t []).taskAt 0 = some t ∧ (∀ m ∈ t.members, ((stepping t []).ctx m).arr = true ∧ ((stepping t []).ctx m).arrStep = true) ∧
    (∀ m ∈ t.members, ((stepping t []).ctx m).run = .waiting (.gbarStep 9)) := by decide +kernel

theorem wit_StepBoundaries_goes_on : let s := stepping stepTask [oneReq]
    stepTask.endReq = false ∧ (admittedOf s 0 0).length = 1 ∧
    (∀ x ∈ admittedOf s 0 0, x.2.faultMark = false ∧ x.2.stopMark = false ∧ x.2.cancelled = false) ∧
    rowsOf stepTask (admittedOf s 0 0) ≤ stepTask.rowlim ∧ (∀ x ∈ reqsOf s 0 0, x.2.slot = none → x.2.record.state ≠ 1) ∧
    (∀ x ∈ admittedOf s 0 0, ∀ i ∈ x.2.slot, i ≤ 0) ∧ (∃ x ∈ admittedOf s 0 0, x.2.slot = some 0) ∧ (s.ctx 0).ended = false ∧
    admittedOf (stepping stepTask []) 0 0 = [] := by decide +kernel

/-- A STEP packet of queue 2 for the task 7 (`t`), with the table `l`. -/
def stepPkt (flags w1 w2 : Nat) (t : Task) (l : List ReqEntry) : State :=
  { (nested [0x700030005 + 256 * flags, w1, w2]).modDie 0 (fun d => { d with table := l }) with tasks := [t] }
def qTask : Task := { stepTask with q := 2 }

/-- The packet is taken, keeps R390, and what `f` says of it holds. -/
def steps (s : State) (f : Packet → Bool) : Bool := nestedIs s (fun p => p.type == 5 && f p)

theorem wit_StepPackets : (∀ n ∈ [0, 1, 2, 3, 4], steps (stepPkt n 0 5 qTask [oneReq]) (fun p => p.flags == n) = true) ∧
    stepTaskOf (stepPkt 1 0 5 qTask [oneReq]) 2 7 = some (0, qTask) ∧
    (stepPkt 1 0 5 qTask [oneReq]).findReq (fun e => e.task == 0 && e.record.reqid == 5 && !e.leave) = some (0, 0, oneReq) ∧
    stepTaskOf (stepPkt 1 0 5 stepTask []) 2 7 = none ∧ steps (stepPkt 5 0 0 qTask []) (fun p => decide (5 ≤ p.flags)) = true := by decide +kernel

/-- The states of a record and the lengths that the forms ask for: READY of 11 tokens on an idle or stopped record at position 10 of 100. -/
theorem wit_StepPackets_forms :
    steps (stepPkt 1 0 0xB00000005 qTask []) (fun p => decide (oneReq.record.pos.toNat < (BitVec.ofNat 32 ((p.word 2).toNat / 2 ^ 32)).toNat ∧
      (BitVec.ofNat 32 ((p.word 2).toNat / 2 ^ 32)).toNat ≤ oneReq.record.maxlen.toNat)) = true ∧
    steps (stepPkt 1 0 0xA00000005 qTask []) (fun p => decide ((BitVec.ofNat 32 ((p.word 2).toNat / 2 ^ 32)).toNat ≤ oneReq.record.pos.toNat)) = true ∧
    (oneReq.record.state = 2 ∧ oneReq.pendingWb = 0) := by decide +kernel

theorem wit_StepPackets_destroy : nestedIs (nested [0x00010007]) (fun p => p.type == 7 && decide (p.place.level ≠ 0)) = true ∧
    packetIs [0x00010007] (fun t p => p.type == 7 && decide (p.place.level = 0) && t.tasks.isEmpty) = true := by decide +kernel

/-- A LAUNCH of queue 2 that is due: one clean image with 8 tiles at 0x10800, named by a table at 0x10400. -/
def imageHdr : List Nat := [0x49474245, 0x01010001, 0x08000000, 0, 0x10000, 0, 0x00102400, 0, 0, 0, 0x8000, 0, 0x11000, 0, 0x12000, 0, 0x12000, 0,
  0x22000, 0, 0x23100, 0]
def launched (t : Task) : State :=
  let s := words (words mapped .dmem 0x10400 [0x10800, 0]) .dmem 0x10800 imageHdr
  { s with tasks := [t], tsc := 1500 }
def newTask : Task := { pairTask with q := 2, gsize := 1, imgtab := 0x10400, st := .deciding }

/-- A record at 0x10C00 with a frame map of one slice at 0x10D00, for a task of one member with the image above. -/
def creatable : State :=
  let t := { qTask with gsize := 1, imgtab := 0x10400 }
  let s := words (words (stepPkt 0 0x10C00 0 t []) .dmem 0x10400 [0x10800, 0]) .dmem 0x10800 imageHdr
  words (words s .dmem 0x10C00 [5, 0, 0, 0, 0, 0, 0, 0, 0x10D00, 0, 0, 0, 0, 100, 0, 0, 0, 0, 0, 0x3F800000, 1])
    .dmem 0x10D00 [0x46474245, 0x00010001, 0, 0, 128, 0, 0, 0, 0, 0, 0, 0, 0, 0, 0, 0, 0x10E00, 0, 0, 8, 0]

theorem wit_StepPackets_create : let t := { qTask with gsize := 1, imgtab := 0x10400 }
    nestedIs creatable (fun p => p.type == 5 && p.flags == 0 && p.word 1 == 0x10C00) = true ∧ stepTaskOf creatable 2 7 = some (0, t) ∧
    (createReq creatable 0 t 0x10C00).isSome = true := by decide +kernel

theorem wit_LaunchEvents_decision : dueLaunch (launched newTask) = some (0, newTask) ∧ (launched newTask).taskAt 0 = some newTask ∧ newTask.warm = false ∧
    launchReason (touchHeaders (launched newTask) newTask) 0 newTask = none ∧
    launchReason (touchHeaders (launched { newTask with imgtab := 0 }) { newTask with imgtab := 0 }) 0 { newTask with imgtab := 0 } = some 1 ∧
    dueLaunch (launched { newTask with imgtab := 0 }) = some (0, { newTask with imgtab := 0 }) ∧
    dueLaunch (launched { newTask with warm := true, badField := true }) = some (0, { newTask with warm := true, badField := true }) ∧
    dueLaunch State.reset = none := by decide +kernel

theorem wit_LaunchEvents_placement_refused :
    taskHeaders (launched { newTask with st := .chosen, imgtab := 0 }) { newTask with st := .chosen, imgtab := 0 } = none ∧
    (taskHeaders (launched { newTask with st := .chosen }) { newTask with st := .chosen }).map
      (fun hs => segmentReason { launched { newTask with st := .chosen } with
        cores := (launched newTask).cores.set 0 { Core.reset with accsplit := 0 } } { newTask with st := .chosen } 0
        (hs.map (fun h => (h.1, { h.2 with dslots := 1 })))) = some (some 2) := by decide +kernel

/-- The image above is cut down to a gang of no members here, so that the kernel has no 140 KiB of areas to read: the hypotheses hold
with no header. -/
theorem wit_LaunchEvents_placement : let t := { newTask with gsize := 0, st := .chosen }
    (launched t).taskAt 0 = some t ∧ taskHeaders (launched t) t = some [] ∧ segmentReason (launched t) t 0 [] = none ∧ regionsOk (launched t) t [] [] = true ∧
    ((List.range 0).zip []).foldl (placeMember 0 t []) (some (launched t, t.gens)) = some (launched t, []) ∧ t.saved = false := by
  refine ⟨by decide +kernel, by decide +kernel, by decide +kernel, by decide +kernel, rfl, rfl⟩

/-- The same image on a member of die 0 when the thread of die 1 comes to it: nothing is its own to restore. -/
theorem wit_LaunchEvents_placement_half : let t := { newTask with st := .chosen }
    (launched t).taskAt 0 = some t ∧ (taskHeaders (launched t) t).map (·.length) = some 1 ∧
    (taskHeaders (launched t) t).map (segmentReason (launched t) t 0) = some none ∧
    dieOf (coreOf (memberAt t t.first 0)) ≠ 1 ∧ ((launched t).ctx 0).task ≠ some 0 := by decide +kernel

theorem wit_LaunchEvents_release : let t := { pairTask with st := .placed, at_ := 1500 }
    let s := { gang t id with tsc := 1500 }
    s.taskAt 0 = some t ∧ t.killReq = false ∧ max t.at_.toNat (t.release.toNat + 200) ≤ s.tsc.toNat ∧
    ({ s with tsc := 1499 }).tsc.toNat < max t.at_.toNat (t.release.toNat + 200) ∧ t.preload = false ∧ t.dlc = false ∧ t.members.Nodup ∧
    (∀ m ∈ t.members, (s.ctx m).heldReports = [] ∧ (s.ctx m).heldEscs = []) ∧
    ((reported base).me.heldReports = [aReport] ∧ (reported base).me.preHeld = false ∧ (reported base).me.csr.sact = false) := by decide +kernel

def finished (t : Task) : State :=
  let s := gang t (fun c => { c with run := .finished })
  s.setCtx 0 { s.ctx 0 with run := .finished }

theorem wit_TaskEndEvents : (finished pairTask).taskAt 0 = some pairTask ∧ pairTask.st = .released ∧
    (∀ m ∈ pairTask.members, ((finished pairTask).ctx m).run = .finished ∧ ((finished pairTask).ctx m).posted = [] ∧
      ((finished pairTask).ctx m).hostLoads = []) ∧ pairTask.stepp = false ∧
    (∃ m ∈ pairTask.members, ((gang pairTask id).ctx m).run ≠ .finished) ∧
    (finished { pairTask with killReq := true }).taskAt 0 = some { pairTask with killReq := true } ∧
    (∀ m ∈ pairTask.members, ((finished { pairTask with killReq := true }).ctx m).task = some 0) := by decide +kernel

theorem wit_TaskEndEvents_preempt :
    let t := { pairTask with st := .preempting }
    let busy := fun (c : Ctx) => c.setEntries .vx (queuedVx.me.queue .vx).entries
    let s := gang t busy
    let s := s.setCtx 0 (busy (s.ctx 0))
    s.taskAt 0 = some t ∧ t.killReq = false ∧ t.members ≠ [] ∧ t.members.Nodup ∧
    ∀ m ∈ t.members, (s.ctx m).run = .running ∧ (s.ctx m).drainedOut = false := by decide +kernel

theorem wit_TaskEndEvents_escalated : let s := (gang pairTask id).setCtx 0 { (gang pairTask id).ctx 0 with run := .escalated none }
    (s.ctx s.arg.ctx).run = .escalated none ∧ (s.ctx s.arg.ctx).task = some 0 ∧ s.taskAt 0 = some pairTask ∧ (0 : CtxId) ∈ pairTask.members ∧
    (s.ctx 0).doomed = false ∧ (s.ctx 0).heldReports = [] ∧ (s.ctx 0).heldEscs = [] ∧ (me s (fun c => { c with doomed := true })).me.doomed = true := by
  decide +kernel

/-- Context 3 of core 0 is of the deadline class; context 0 borrows the core. -/
def lent : State := base.setCtx 3 { ctx0 with csr := { ctx0.csr with dlc := true } }

theorem wit_LentCoreEvents : dlcOf lent lent.arg.core = some 3 ∧ 
    (∀ j ∈ borrowers lent 0, (lent.ctx j).copyHolds .ci = false ∧ (lent.ctx j).copyHolds .co = false ∧ (lent.ctx j).stillWrites = false) ∧ (lent.ctx 3).run = .running ∧
    couldIssue lent 3 = true ∧ borrowers lent 0 = [0] ∧ dlcOf base base.arg.core = none ∧ (base.core 0).savedSplit = none ∧
    (({ base with cores := base.cores.set 0 { Core.reset with savedSplit := some 0x492 } }).core 0).savedSplit = some 0x492 := by decide +kernel

/-- Die 0 before a step of its boot ROM, die 1 before another. -/
def booting (a b : Nat) : State := (State.reset.modDie 0 (fun d => { d with bootStage := a })).modDie 1 (fun d => { d with bootStage := b })

theorem wit_BootAndAttestation :
    (let s := { booting 0 0 with fuses := List.replicate 80 1 }
     (s.die s.arg.die).bootStage = 0 ∧ s.arg.flag = false ∧ (∃ b ∈ fuseEKH s, b ≠ 0) ∧ ∃ b ∈ fuseLKH s, b ≠ 0) ∧
    (∀ b ∈ fuseEKH (booting 0 0), b = 0) ∧ (∀ n ∈ [1, 2, 3, 4, 5, 6, 7], ((booting n 5).die 0).bootStage = n) ∧ State.reset.dmem.wf = true ∧
    ((booting 4 4).die 0).bootDigest = none ∧ verifyCopy (booting 4 4) (booting 4 4).flash[1] = some 7 ∧
    (((booting 4 4).modDie 0 (fun d => { d with bootDigest := some [1] })).die 0).bootDigest ≠ none := by decide +kernel

theorem wit_BootAndAttestation_agree :
    let s := ((booting 5 5).modDie 0 (fun d => { d with bootDigest := some [1] })).modDie 1 (fun d => { d with bootDigest := some [1] })
    let r := s.modDie 1 (fun d => { d with copyB := true })
    (5 ≤ (s.die 1).bootStage ∧ (s.die 1).bootStage ≠ 15 ∧ (s.die 0).copyB = (s.die 1).copyB ∧ (s.die 0).bootDigest ≠ none ∧
      (s.die 0).bootDigest = (s.die 1).bootDigest) ∧ (r.die 0).copyB ≠ (r.die 1).copyB ∧
    ((booting 6 6).die 0).bootStage = 6 ∧ ({ booting 6 6 with measured := false }).measured = false := by decide +kernel

theorem wit_BootAndAttestation_requests : State.reset.measured = true ∧ ({ State.reset with measured := false }).measured = false ∧
    State.reset.arg.n = 0 ∧ ({ State.reset.arg with n := 4 }).n = 4 ∧ ({ State.reset.arg with flag := true }).flag = true := by decide +kernel

theorem wit_StepKeepsMemoriesCanonical : (State.reset.withFetchWord 32 0x004A01E8).memWf = true ∧
    (after (step (State.reset.withFetchWord 32 0x004A01E8))).isSome = true := by decide +kernel

/-! ### The forms of a statement that ask for a state of their own: refusals, waits, traps, late accesses -/

/-- Sixteen entries in the VX queue of the current context. -/
def vxFull (s : State) : State := me s (fun c => (List.range 16).foldl (fun c _ => c.enqueue .vx 0 (plainOp .relay) 0) c)

/-- A reserved word of VX's major, where the queue has room and where it is full. -/
theorem wit_UndecodableWordTraps_engine :
    let s := State.reset.withFetchWord 32 0x9BD5103F
    (s.agenda = [.issue 0] ∧ ready { s with agenda := [] } 0 = true ∧ fetchesBad { s with agenda := [] } 0 (s.ctx 0).pc = true ∧
      queueOfMaj (majOf 0x9BD5103F) = some .vx ∧ (s.ctx 0).qFull .vx = false) ∧
    fetchesBad (vxFull s) 0 ((vxFull s).ctx 0).pc = true ∧ ((vxFull s).ctx 0).qFull .vx = true := by decide +kernel

/-- s1 is poisoned. -/
def taintedNums : State := me nums (fun c => c.setRegP 1 0 true)

theorem wit_ResultFrames_poison : taintedNums.me.regPoison 1 = true ∧ (∃ v, aluClaim taintedNums.val (.add 9 1 2) = some (9, [1, 2], v)) ∧
    (∃ v, mulClaim taintedNums.val (.mul 9 1 2) = some (9, [1, 2], v)) ∧ (∃ v, leaClaim taintedNums.val (.lea1 9 1 2) = some (9, [1, 2], v)) ∧
    (∃ v, immClaim none taintedNums.val (.addi 9 1 0) = some (9, 1, v)) ∧ badShift none (.addi 9 1 0) = false ∧
    (∃ x, predClaim taintedNums (.cmp 2 1 2 0) = some (2, [1, 2], x)) ∧ (∃ x, transferClaim taintedNums (.jr 1) = some x ∧ x.sources = [1]) :=
  ⟨by decide +kernel, ⟨_, rfl⟩, ⟨_, rfl⟩, ⟨_, rfl⟩, ⟨_, rfl⟩, by decide, ⟨_, rfl⟩, ⟨_, rfl, rfl⟩⟩

/-- Nothing of the past is held, and nothing is still to be performed. -/
theorem wit_LoadResults_plain : near.me.defers = false ∧ near.me.sbuf = [] ∧ near.me.lateLoads = [] ∧ near.posts = [] ∧ near.early = [] ∧ near.stale = [] ∧
    (∃ x, loadClaim far (.ldaq 9 1 4 3) = some x ∧ okAnd (feReach far x.addr x.size accLoad) (fun y => decide (y.2.1 = .host)) = true) ∧
    (4 : BitVec 3).toNat ≤ 4 := ⟨by decide +kernel, by decide +kernel, by decide +kernel, by decide +kernel, by decide +kernel, by decide +kernel,
      ⟨_, rfl, by decide +kernel⟩, by decide⟩

/-- A store with a release, to device memory and to the host. -/
def releasing (sp : Space) : Pending := { space := sp, addr := 0x10000, bytes := [1], poison := false, stamp := 5, rel := some 4 }

theorem wit_StoreResults_release :
    (∃ x, storeClaim far (.strl 2 1 4 3) = some x ∧ okAnd (feReach far x.addr x.size accStore) (fun y => decide (y.2.1 = .host)) = true) ∧
    noLateLoad near (.pool 0) 0x121000 8 ∧ near.posts = [] ∧ (releasing .dmem).rel = some 4 ∧ (releasing .dmem).space ≠ .host ∧
    (releasing .host).space = .host ∧ (releasing .host).rel ≠ none := by
  refine ⟨⟨_, rfl, by decide +kernel⟩, ?_, by decide +kernel, rfl, by decide, rfl, by decide⟩
  intro l h
  rw [show near.me.lateLoads = [] by decide +kernel] at h
  exact absurd h List.not_mem_nil

/-- Context 0 in a gang of two: it goes on from a released generation, owes a mismatch, has arrived before, has entries and an access to the
host outstanding; in a step gang, with entries in its queues, and with its step ended. -/
theorem wit_GangBarriers_forms :
    let s := gang pairTask arrivedAt
    let m := gang { pairTask with mixed := [0] } arrivedAt
    let v := gang { pairTask with stepp := true } arrivedStep
    (s.me.abroad = false ∧ (me s (fun c => { c with arrDone := true })).me.arrDone = true ∧ (me s arrivedAt).me.arr = true ∧
      (vxFull s).me.quiet = false ∧ (me s (fun _ => posting.me)).me.abroad = true) ∧
    (m.taskOf m.cur = some (0, { pairTask with mixed := [0] }) ∧ ({ pairTask with mixed := [0] } : Task).mixed.contains m.cur = true) ∧
    (v.inStepGang v.cur = true ∧ v.me.arr = false ∧ v.me.arrDone = false ∧ v.me.quiet = true ∧ v.me.abroad = false ∧ pairTask.mixed.contains v.cur = false) ∧
    ((vxFull v).inStepGang (vxFull v).cur = true ∧ (vxFull v).me.quiet = false ∧ (vxFull v).me.arr = false) ∧ (vxFull base).me.quiet = false := by
  decide +kernel

theorem wit_GangBarriers_stepForms :
    let v := gang { pairTask with stepp := true, mixed := [0] } arrivedStep
    let w := gang { pairTask with stepp := true } arrivedStep
    let x : State := me v (fun c => { c with arr := true, arrStep := true })
    let y : State := me w (fun c => { c with arr := true, arrStep := true })
    let z : State := me w (fun c => { c with arrDone := true })
    (v.inStepGang v.cur = true ∧ v.me.arrDone = false ∧ v.me.quiet = true ∧ v.me.abroad = false ∧
      v.taskOf v.cur = some (0, { pairTask with stepp := true, mixed := [0] })) ∧
    (x.inStepGang x.cur = true ∧ x.me.arrDone = false ∧ x.me.arr = true ∧ ({ pairTask with mixed := [0] } : Task).mixed.contains x.cur = true) ∧
    (y.inStepGang y.cur = true ∧ y.me.arrDone = false ∧ y.me.arr = true ∧ y.taskOf y.cur = some (0, { pairTask with stepp := true }) ∧
      pairTask.mixed.contains y.cur = false) ∧ (z.inStepGang z.cur = true ∧ z.me.arrDone = true) := by decide +kernel

theorem wit_TrapDelivery_drained : (base.ctx 0).lateLoads = [] ∧ base.me.lateLoads = [] ∧ base.me.drainedOut = true := by decide +kernel

/-- A drain that has lasted QWDOG's cycles, without and with an entry that has still to write. -/
theorem wit_DrainEvents_writes :
    let t := me (run (.draining (.trap { code := .arithInvalid, value := 5, queue := 4, seq := 9 })) base) (fun c => { c with drainIdle := 0x100000 })
    t.me.stillWrites = false ∧ (apartSq.ctx 0).stillWrites = true := by decide +kernel

theorem wit_SysContextForms_waits : (smode apartSq).me.csr.sact = true ∧ (smode apartSq).me.maskRuns 31 = true ∧ (9 : BitVec 4).toNat < 10 ∧
    (smode apartSq).me.maskRuns (fifoQueues 2) = true ∧ ((smode (regs base [(1, 8)])).val 1).toNat ≤ 8 ∧
    10 ≤ (10 : BitVec 4).toNat ∧ (smode tainted).me.regPoison 1 = true ∧ 8 < ((smode (regs base [(1, 9)])).val 1).toNat := by decide +kernel

/-- An ox on slot 5 has been dispatched, so the slot is in use. -/
def usesSlot : State := smode ((after (exec (.ox 0 2 1 0 0 5) eng)).getD base)

theorem wit_SysContextForms_ochinv : usesSlot.me.csr.sact = true ∧ ochinvBlocked usesSlot usesSlot.cur = true := by decide +kernel

theorem wit_TlbInvalidation_waits :
    (∀ k ∈ (List.finRange 4).map (ctxAt (coreOf (smode base).cur)), ((smode base).ctx k).abroad = false) ∧
    (∃ k ∈ (List.finRange 4).map (ctxAt (coreOf (smode posting).cur)), ((smode posting).ctx k).abroad = true) ∧
    ((1 : BitVec 3) ≠ 2 ∧ (1 : BitVec 3) ≠ 3) ∧ (smode tainted).me.regPoison 1 = true ∧ (smode tainted).me.csr.sact = true ∧
    tlbBlocked (smode posting) (ctxsOf (diesIn (smode posting).cur 2)) = true := by decide +kernel

/-- Context 4 of the die has sent a gadv of automaton 511 before. -/
def earlierSent : State := gRegs.setCtx 4 { ctx0 with gops := [(.adv 511 0, 0)] }

theorem wit_MadderForms_waits : let s := { earlierSent with tsc := 1 }
    (4 : CtxId) ≠ s.cur ∧ dieOf (coreOf 4) = dieOf (coreOf s.cur) ∧ ((GOp.adv 511 0), (0 : Word)) ∈ (s.ctx 4).gops ∧
    automatonNo (s.val 1) ∈ (GOp.adv 511 0).reaches ∧ (0 : Word).toNat < s.tsc.toNat ∧ s.me.gops = [] ∧
    (∀ j, ∀ x ∈ (gRegs.ctx j).gops, j = gRegs.cur) ∧ (gRegs.aut 0 511).restoring = false := by decide +kernel

/-- Forms of each family with an operand or a record that fails a check. -/
theorem wit_DispatchAppends_checks :
    (∃ x, laneClaim base (.vcvt 0 1 2 9 0 1 3) = some x ∧ ¬ x.ok ∧ base.me.qFull x.q = false) ∧
    (∃ x, laneClaim (me eng (fun c => { c with csr := { c.csr with tiles := 8 } })) (.vaddF 0 31 30 29 7) = some x ∧ ¬ x.ok) ∧
    (∃ x, vectorClaim base (.vld 0 1 1 0 0) = some x ∧ ¬ x.ok) ∧ (∃ x, matrixClaim base (.mma 0 3 4 0 0) = some x ∧ ¬ x.ok) ∧
    (∃ x, copyClaim (regs base [(3, 3)]) (.cin 0 1 2 3 1) = some x ∧ ¬ x.ok) := by
  refine ⟨⟨_, rfl, ?_, by decide +kernel⟩, ⟨_, rfl, ?_⟩, ⟨_, rfl, ?_⟩, ⟨_, rfl, ?_⟩, ⟨_, rfl, ?_⟩⟩
  · dsimp only [tilesIn]; decide +kernel
  · dsimp only [tilesIn]; decide +kernel
  · dsimp only [tilesIn, State.clean, recordIn, vectorRecord, originIn]; decide +kernel
  · dsimp only [State.clean, recordIn, linearRec]; decide +kernel
  · rintro ⟨-, h, -⟩; revert h; dsimp only [countIn]; decide +kernel

/-- The head of VX has run and owes an arithmetic trap; at this moment an entry of CO, or of CI, has raised one. -/
def owing (y : BitVec 3) : State :=
  let s := me (ranVx 3) (fun c => { c with
    queues := c.queues.set 3 { c.queue .vx with entries := (c.queue .vx).entries.map (fun e => { e with flags := 1, nctl := 1 }) }
    lastArith := some ((ranVx 3).clock, { code := .arithInvalid, value := 0, queue := y, seq := 0 }) })
  { s with arg := { s.arg with flag := true } }

theorem wit_EntryRetires_traps : (((owing 5).ctx 0).queue .vx).entries.map (fun e => e.done && !e.parked && e.report.isNone && (arithTrap e.flags e.nctl).isSome) = [true] ∧
    (owing 5).arg.flag = true ∧ (owing 5).me.lastArith.map (fun x => (x.1, x.2.queue)) = some ((owing 5).clock, 5) ∧
    (owing 1).me.lastArith.map (fun x => (x.1, x.2.queue)) = some ((owing 1).clock, 1) ∧
    EngineQ.vx.code < 5 ∧ 1 < EngineQ.vx.code ∧ (ranVx 3).arg.flag = false := by decide +kernel

/-- The FIFO toward CO is full, and both are. -/
def fullNext : State := me (ranVx 3) (fun c => { c with tokens := c.tokens.set (fifoSN .vx).val 8 })
def fullBoth : State := me (ranVx 3) (fun c => { c with tokens := (c.tokens.set (fifoSN .vx).val 8).set (fifoSP .vx).val 8 })

theorem wit_EntryRetires_full_both :
    (((fullNext.ctx 0).queue .vx).entries.map (fun e => e.done && !e.parked && e.pushP && e.pushN)) = [true] ∧
    8 ≤ (fullNext.ctx 0).tok (fifoSN .vx) ∧ (fullNext.ctx 0).tok (fifoSP .vx) < 8 ∧
    8 ≤ (fullBoth.ctx 0).tok (fifoSN .vx) ∧ 8 ≤ (fullBoth.ctx 0).tok (fifoSP .vx) ∧ (fullBoth.ctx 0).enginesRun = true := by decide +kernel

/-- A report while a precise trap of the FE, or an engine's report in S mode, drains. -/
theorem wit_EntryRetires_draining :
    let fe : Trap := { code := .misaligned, value := 0, queue := 0, seq := 0 }
    (run (.draining (.trap fe)) base).me.run = .draining (.trap fe) ∧ fe.code ≠ .barrierMismatch ∧ fe.queue = 0 ∧ fe.code ≠ .queueStall ∧
    (run (.draining (.trap aReport)) (smode base)).me.csr.sact = true ∧ aReport.queue ≠ 0 ∧ aReport.code ≠ .barrierMismatch := by decide +kernel

/-- Context 0 is placed, so ACCSPLIT cannot move its range; one whose slots are spilled does not hold it back. -/
theorem wit_FirmwareRegisterWrites_split :
    let s := gang pairTask id
    let n : BitVec 12 := 0x004
    (coreOf 0 = s.arg.core ∧ splitSlots n (numOf 0) ≠ splitSlots (s.core s.arg.core).accsplit (numOf 0) ∧ (s.ctx 0).run ≠ .idle ∧ (s.ctx 0).spilled = false) ∧
    splitOk n = true ∧ ((State.reset.ctx 0).run = .idle) ∧ (me s (fun c => { c with spilled := true })).me.spilled = true := by decide +kernel

/-- A write-back of a request of task 0 has a flit in the replay buffer of a link that dies. -/
def dyingMove : State :=
  let m := { oneMove false none with part := 0 }
  let s := State.reset.modDie 0 (fun d => { d with moves := [m] })
  let s := s.setBport 1 { State.reset.bport 1 with up := true, unacked := [{ seq := 7, owner := m.flits 0 }], replays := 16 }
  { s with arg := { s.arg with port := 1 } }

theorem wit_LinkAndFronthaulEvents_move : let m := oneMove false none
    (dyingMove.bport 1).up = true ∧ 16 ≤ (dyingMove.bport 1).replays ∧ (dyingMove.bport 1).unacked = [{ seq := 7, owner := m.flits 0 }] ∧
    (dyingMove.die 0).moves[0]? = some m ∧ m.load = false ∧ (∀ k, ∀ q ∈ allQueues, (dyingMove.ctx k).running q = none) := by decide +kernel

/-- Entry 5 takes section 3 of a frame on port 2 into the ring of context 0. -/
def iqEntry : SteerEntry := { SteerEntry.zero with valid := true, ports := 4, sechi := 7, symm := 0x3FFF, ring := 0x121000 }
def iqFrame : FhFrame := { State.reset.arg.frame with port := 2, fcsOk := true, ecpri := true, sections := [{ sectionId := 3, bytes := [1, 2, 3, 4] }] }
def iqState (r : State) (e : SteerEntry) : State :=
  { r with fhSpeed := r.fhSpeed.set 2 25, steering := [(5, e)], arg := { r.arg with frame := iqFrame } }

/-- The ring of context 0 refuses nothing of the section. -/
def taken (s : State) (e : SteerEntry) : Bool :=
  let c := s.ctx 0
  let r := ringOf (s.read (.pool 0) 0x121000 32)
  e.core == 0 && e.ctx == 0 && c.run != .idle && decide (c.csr.partn.val = e.part.toNat) && decide (0x121000 % 32 = 0) && decide (c.scrStart ≤ 0x121000) &&
    decide (0x121000 + 32 ≤ c.privStart) && r.valid c && !spent (s.part 0).fhb (s.part 0).fhLeft
def roomy (s : State) : Bool :=
  let r := ringOf (s.read (.pool 0) 0x121000 32)
  decide (32 + 4 ≤ r.slotsz) && decide ((r.resv - r.freed).toNat < 2 ^ r.lgn)

theorem wit_LinkAndFronthaulEvents_iq :
    (iqFrame.fcsOk = true ∧ (iqState base iqEntry).fhSpeed[iqFrame.port.val] ≠ 0 ∧ iqFrame.ecpri = true ∧ iqFrame.msgType = 0) ∧
    iqEntry.takes iqFrame { sectionId := 3, bytes := [1, 2, 3, 4] } ∧
    (taken (iqState (ring 3 3 3 0) iqEntry) iqEntry = true ∧ roomy (iqState (ring 3 3 3 0) iqEntry) = true ∧ (iqState (ring 3 3 3 0) iqEntry).memWf = true) ∧
    (taken (iqState (ring 4 4 4 0) iqEntry) iqEntry = true ∧ roomy (iqState (ring 4 4 4 0) iqEntry) = false) ∧
    ((ringOf ((iqState base iqEntry).read (.pool 0) 0x121000 32)).valid ((iqState base iqEntry).ctx 0) = false) := by
  refine ⟨by decide +kernel, ⟨by decide, by decide, fun b h => ?_, fun _ => ⟨by decide, by decide, by decide, fun h => ?_⟩⟩, by decide +kernel, by decide +kernel,
    by decide +kernel⟩
  · simp [iqEntry, SteerEntry.zero] at h
  · simp [iqEntry, SteerEntry.zero] at h

theorem wit_LinkAndFronthaulEvents_publish : let y : SteerClaim := { ctx := 0, ring := 0x121000, claim := 3 }
    let s := { ring 4 3 3 0 with steerClaims := [y], arg := { (ring 4 3 3 0).arg with producer := .steering 0 0x121000 } }
    s.memWf = true ∧ s.steerClaims.find? (fun x => decide (x.ctx = 0 ∧ x.ring = 0x121000)) = some y ∧
    s.readNat (.pool 0) (0x121000 + 20) 4 = y.claim.toNat ∧ (ring 4 2 2 0).readNat (.pool 0) (0x121000 + 20) 4 ≠ y.claim.toNat := by decide +kernel

/-- A table of 512 entries, each with a ring of its own. -/
def fullTable : List (Fin 4096 × SteerEntry) :=
  (List.range 512).map (fun i => (Fin.ofNat 4096 (i + 1), { SteerEntry.zero with valid := true, ring := BitVec.ofNat 32 (32 * i + 32) }))

theorem eraseDups_of_nodup {α : Type} [BEq α] [LawfulBEq α] : ∀ l : List α, l.Nodup → l.eraseDups = l
  | [], _ => rfl
  | a :: l, h => by
    have ⟨h1, h2⟩ := List.nodup_cons.1 h
    have e : l.filter (fun b => !(b == a)) = l := List.filter_eq_self.2 (fun b hb => by
      have : b ≠ a := fun x => h1 (x ▸ hb)
      simpa using this)
    rw [List.eraseDups_cons, e, eraseDups_of_nodup l h2]

theorem wit_LinkAndFronthaulEvents_bindings : 512 < (bindings (steerPut 0 { SteerEntry.zero with valid := true } fullTable)).length := by
  have p : steerPut 0 { SteerEntry.zero with valid := true } fullTable = (0, { SteerEntry.zero with valid := true }) :: fullTable := by decide +kernel
  have b : bindings ((0, { SteerEntry.zero with valid := true }) :: fullTable) =
      ((List.range 513).map (fun i => ((0 : BitVec 8), (0 : BitVec 8), (0 : BitVec 8), BitVec.ofNat 32 (32 * i)))).eraseDups :=
    congrArg List.eraseDups (by decide +kernel)
  rw [p, b, eraseDups_of_nodup]
  · decide +kernel
  · refine List.pairwise_map.2 (List.Pairwise.imp_of_mem (fun {i j} hi hj (h : i < j) e => ?_) List.pairwise_lt_range)
    have hi := List.mem_range.1 hi
    have hj := List.mem_range.1 hj
    have := congrArg (fun x => x.2.2.2.toNat) e
    simp only [BitVec.toNat_ofNat] at this
    omega

/-- A granule of a copy that runs has nothing in its way. -/
def granuleGoes (s : State) (f : Entry → CopyOp → Gathered → Bool) : Bool := s.memWf && s.posts.isEmpty && flies s s.arg.q (fun e op =>
  let e1 := e.accept s 0 op
  let g := (nextGranule (s.setHead 0 s.arg.q e1) 0 e1 op).2.2
  e.onEngine && !e.dead && !e.drop && decide (256 * e.goff < op.total) && (op.kind != .cstrm || e.claim.isSome) && (refusedNow s 0 e op).isEmpty &&
    g.halt.isNone && f e op g)

def goes (i : Instr) (q : EngineQ) (f : Entry → CopyOp → Bool) : Bool := granuleGoes (inFlight i q copyRegs) (fun e op _ => f e op)

theorem wit_CopyStreamEvents_forms :
    goes (.cin 0 1 2 3 1) .ci (fun _ op => op.kind == .cin && !op.kind.isCred) = true ∧ goes (.cout 0 1 2 3 1) .co (fun _ op => op.kind == .cout) = true ∧
    goes (.credAddf 0 1 2 3 1) .co (fun _ op => op.kind == .cred .addf) = true ∧ goes (.cfill 0 1 2 3 1) .ci (fun _ op => op.kind == .cfill) = true ∧
    goes (.cpack 0 14 21 3 1) .ci (fun _ op => op.kind == .cpack && fmtBits (shapeFields op.shape).fmt != 4) = true ∧
    goes (.cunpk 0 14 21 3 0) .ci (fun _ op => op.kind == .cunpk && fmtBits (shapeFields op.shape).fmt != 4 && ilvPos (ilvGroup (shapeFields op.shape).ilv) (shapeFields op.shape).cols 0 == 0) = true := by decide +kernel

theorem wit_CopyStreamEvents_forms2 :
    goes (.cmcast 0 19 2 3 1) .ci (fun _ op => op.kind == .cmcast && op.ra == scrAt 0 0x121000 && decide (0x121000 + op.total ≤ 2 ^ 22) && op.total % 4 == 0) = true ∧
    goes (.cnestGo 0 1 2 7 0) .ci (fun _ op => op.kind == .nest) = true ∧ goes (.cnestoGo 0 1 2 7 0) .co (fun _ op => op.kind == .nesto) = true := by decide +kernel
/-- Page 0x10000 is mapped: context 0 copies 256 bytes from it, gathers rows through a page list that names it, and writes the die-shared
store, late or at once. -/
def copyState (l : List (Reg5 × Word)) (f : Ctx → Ctx) : State :=
  let s := (mapped.setCtx 0 ctx0).modDie 0 (fun d => { d with dscarve := 1 })
  me (regs (words s (.pool 0) 0x141000 [0x10000, 0]) l) f
def fromDevice : State := inFlight (.cin 0 5 6 8 0) .ci (copyState [(5, 0xFFFFF10000121000), (6, 0x10000), (8, 256)] id)
def gathering : State := inFlight (.cgath 0 5 6 8 0) .ci (copyState [(5, 0xFFFFF10000121000), (6, 0xFFFFF10000141000), (8, 0x1004000000)] id)
def copyingOut (late : Bool) : State :=
  inFlight (.cout 0 5 6 8 0) .co (copyState [(5, 0xFFFFF20000000000), (6, 0xFFFFF10000121000), (8, 256)] (fun c => { c with lags := late }))

/-- The partition's device-memory budget is spent. -/
def spentOut (s : State) : State := s.setPart 0 { s.part 0 with dmem := 0, dmemLeft := 0 }

theorem wit_CopyStreamEvents_device :
    granuleGoes fromDevice (fun _ op g => op.rb == 0x10000 && decide (g.dm = 256) && !budgetStops fromDevice 0 g.dm g.lk) = true ∧
    granuleGoes (spentOut fromDevice) (fun _ _ g => budgetStops (spentOut fromDevice) 0 g.dm g.lk) = true ∧
    granuleGoes (copyingOut true) (fun _ _ g => g.moved.all (fun m => m.dests.all (fun d => d.1.beyond 0))) = true ∧
    (copyingOut true).me.lags = true ∧ granuleGoes (copyingOut false) (fun _ op _ => op.ra == dshAt 0 0) = true := by decide +kernel
theorem wit_CopyStreamEvents_gather : granuleGoes gathering (fun _ op g => op.kind == .cgath && g.moved.length == 64) = true ∧
    (match (after (exec .evStreamSlotClaim (streaming (ring 3 3 3 0) 64))) with
     | some t => granuleGoes { t with arg := { t.arg with q := .co } } (fun e op _ => op.kind == .cstrm && e.claim.isSome)
     | none => false) = true := by decide +kernel

/-- Where a copy's addresses lead, and what its translation answers. -/
theorem wit_CopyStreamEvents_places : let s := copyState [] id
    (0xFFFFFF < 2 ^ 24 ∧ 0x3FFFFF < 2 ^ 22) ∧ ¬ malformedPtr 0x10000 ∧ (0x10000 : Word).toNat / 2 ^ 40 % 256 < 0xF0 ∧
    okAnd (translate s 0 (some 0) 0 false accCopySrc 0x10000) (fun y => okIs (answered y.1 y.2.1 y.2.2) ()) = true ∧
    errs (translate s 0 (some 0) 0 false accCopySrc 0x30000) = true := by
  unfold malformedPtr; decide +kernel

/-- Four bytes on their way to one element. -/
def element : List Moved := (List.range 4).map (fun i => { pos := i, byte := ⟨1, false⟩, dests := [(.dmem, 0x20 + i)] })

theorem wit_CopyStreamEvents_element : base.memWf = true ∧ base.posts = [] ∧ element.length = credBytes .addi ∧
    element.flatMap (·.dests) = (List.range (credBytes .addi)).map (fun i => (Space.dmem, 0x20 + i)) ∧
    (0xFFFFFFFF : Nat) < 2 ^ 32 := by decide +kernel

/-- The same copy with its first source byte poisoned: what it writes is. -/
theorem wit_CopyStreamEvents_poison :
    granuleGoes ((fromDevice.write .dmem 0x10000 (pbytes true [1]))) (fun _ _ g => g.moved.any (fun m => m.byte.poison)) = true := by decide +kernel

theorem wit_QueuePackets_record : let s := queued []
    unitPlace (unitStore (learn s .outside [s.latest .unit]) 0 (s.qpart 2) 0x18100 [⟨5, false⟩]) 0 (s.qpart 2) accDevWrite 0x18100 = some 0x18100 := by
  decide +kernel

/-- The host reads a word it holds, as an acquire or not. -/
theorem wit_HostAccessEvents_held : barsRespond hostFilled = true ∧ (heldWord none 0x40 hostFilled.stale).map (·.bytes.length) = some 8 ∧
    ({ hostFilled with arg := { hostFilled.arg with word := 8, n := 0x40, flag := true } }).arg.word.toNat = 8 ∧ 0x40 % 8 = 0 ∧
    0x40 / 2 ^ 36 < 2 ∧ 0x40 % 2 ^ 36 + 8 ≤ 64000000000 ∧ (∀ x ∈ barsUp.stale, x.seer ≠ none) := by
  refine ⟨by decide +kernel, by decide +kernel, by decide +kernel, by decide, by decide, by decide, fun x h => ?_⟩
  rw [show barsUp.stale = [] by decide +kernel] at h
  exact absurd h List.not_mem_nil

/-- A mask of automaton 5 into the scratchpad part, at its start and past its end; an image whose header fails; a snapshot that is not
valid; an automaton of no partition. -/
theorem wit_MadderPerforms_masks : let s := automatic true (.mask 5 0x121000 none)
    (s.me.gops = [(.mask 5 0x121000 none, 0)] ∧ gWaits s 0 (.mask 5 0x121000 none) 0 = false ∧ (s.aut 0 5).part = some s.me.csr.partn ∧
      (s.aut 0 5).bound = true ∧ s.memWf = true) ∧
    128 * ((((s.aut 0 5).image 0 0).hdr.ntok + 1023) / 1024) = 128 ∧ (0x121000 : Word).toNat + 128 ≤ (s.ctx 0).scrStop ∧
    (s.ctx 0).scrStop < (0x3FFF80 : Word).toNat + 128 ∧ (readHeader s 0 0 0x10140).isNone = true ∧ (s.aut 0 5).snaps[0] = none ∧
    (s.aut 0 6).part = some s.me.csr.partn ∧ (s.aut 0 6).bound = true ∧ (s.aut 0 6).snaps[0] = none ∧ (s.aut 0 7).part ≠ some s.me.csr.partn := by
  decide +kernel

/-- The partition's device-memory budget is spent. -/
theorem wit_FrameEngine_budget : let s := (moving true none).setPart 0 { (moving true none).part 0 with dmem := 0, dmemLeft := 0 }
    (s.part 0).dmem ≠ 0xFFFFFFFF ∧ (s.part 0).dmemLeft = 0 ∧ (s.die 0).moves[0]? = some (oneMove true none) ∧ (oneMove true none).pos < 2048 ∧
    (sliceAt oneMap.ffmt (oneMap.ofRank 0) 0).isSome = true ∧ 2048 ≤ ({ oneMove false none with pos := 2048 } : Move).pos := by decide +kernel

/-- A write-back with a flit in a replay buffer. -/
theorem wit_FrameEngine_unacked :
    unackedOf (State.reset.setBport 1 { State.reset.bport 1 with unacked := [{ seq := 7, owner := (oneMove false none).flits 0 }] })
      (fun o => o == (oneMove false none).flits 0) = true := by decide +kernel

/-- A finished member whose load from the host has not been answered; one with a report that escalates. -/
theorem wit_TaskEndEvents_waits : let s := gang pairTask (fun c => { c with run := .finished })
    (∃ m ∈ pairTask.members, ((s.setCtx 4 { s.ctx 4 with hostLoads := [{ acq := false, d := 9, addr := 0, size := 8, signed := true }] }).ctx m).hostLoads ≠ []) ∧
    (let t := run (.escalated none) (smode (me s (fun c => { c with heldEscs := [aReport] })))
     t.me.run = .escalated none ∧ t.me.doomed = false ∧ t.me.csr.sact = true ∧ t.me.heldEscs = [aReport]) := by decide +kernel

/-- A borrower whose started entry has still to write. -/
theorem wit_LentCoreEvents_writes : ∃ j ∈ borrowers apartSq apartSq.arg.core, (apartSq.ctx j).stillWrites = true := by decide +kernel

end Sys2Proof.Tests
end

section
/-! The proof that an entry starts only at the head with its tokens and its turn, and writes whole or element by element (O37). -/
namespace Sys2Proof.Machine

/-! ## Tokens popped and the head replaced (R28, R30) -/

theorem Ctx.popTok_tok (c : Ctx) (b : Bool) (f g : Fin 10) :
    (c.popTok b f).tok g = c.tok g - (if b = true ∧ g = f then 1 else 0) := by
  unfold Ctx.popTok
  by_cases hb : b = true
  · by_cases hg : g = f
    · subst hg; simp [hb]
    · simp [hb, hg, c.setTok_tok_ne f g _ hg]
  · simp [hb]

@[simp] theorem Ctx.popTok_queues (c : Ctx) (b : Bool) (f : Fin 10) : (c.popTok b f).queues = c.queues := by
  unfold Ctx.popTok; split <;> rfl

@[simp] theorem Ctx.setHead_tok (c : Ctx) (q : EngineQ) (e : Entry) (f : Fin 10) : (c.setHead q e).tok f = c.tok f := rfl

@[simp] theorem Ctx.setHead_entries (c : Ctx) (q : EngineQ) (e : Entry) :
    ((c.setHead q e).queue q).entries = e :: (c.queue q).entries.tail := by simp [Ctx.setHead]

@[simp] theorem Ctx.setHead_head (c : Ctx) (q : EngineQ) (e : Entry) : (c.setHead q e).head q = some e := by
  simp [Ctx.head]

theorem Ctx.queue_congr {c d : Ctx} (h : c.queues = d.queues) (q : EngineQ) : c.queue q = d.queue q := by
  simp only [Ctx.queue, h]

theorem Ctx.tok_congr {c d : Ctx} (h : c.tokens = d.tokens) (f : Fin 10) : c.tok f = d.tok f := by
  simp only [Ctx.tok, h]

theorem Ctx.tokensThere_iff (c : Ctx) (q : EngineQ) (e : Entry) : c.tokensThere q e = true ↔
    (depWP e.dep = true → 0 < c.tok (fifoWP q)) ∧ (depWN e.dep = true → 0 < c.tok (fifoWN q)) := by
  cases hp : depWP e.dep <;> cases hn : depWN e.dep <;> simp [Ctx.tokensThere, hp, hn]

/-! ## Which head can start (R27, R30) -/

/-- A startable entry is the head of its queue, not started, and its tokens are there. -/
theorem startable_some {s : State} {k : CtxId} {q : EngineQ} {e : Entry} (h : startable s k q = some e) :
    (s.ctx k).head q = some e ∧ e.started = false ∧ (s.ctx k).tokensThere q e = true := by
  unfold startable at h
  extract_lets c at h
  split at h
  · exact absurd h (by simp)
  · next x hx =>
    split at h
    · next g =>
      obtain rfl := Option.some.inj h
      simp only [Bool.and_eq_true, Bool.not_eq_true'] at g
      obtain ⟨⟨⟨⟨⟨⟨⟨⟨-, hs⟩, -⟩, ht⟩, -⟩, -⟩, -⟩, -⟩, -⟩ := g
      exact ⟨hx, hs, ht⟩
    · exact absurd h (by simp)

/-- Without its tokens the head cannot start. -/
theorem startable_none {s : State} {k : CtxId} {q : EngineQ} {e : Entry} (h : (s.ctx k).head q = some e)
    (ht : (s.ctx k).tokensThere q e = false) : startable s k q = none := by
  cases hx : startable s k q with
  | none => rfl
  | some x =>
    obtain ⟨hh, -, hxt⟩ := startable_some hx
    obtain rfl := Option.some.inj (h.symm.trans hh)
    exact absurd hxt (by simp [ht])

/-! ## ENTRY_START, case by case -/

theorem exec_evEntryStart_none {s : State} (h : startable s s.arg.ctx s.arg.q = none) : exec .evEntryStart s = .next s := by
  show execEvEntryStart s = _
  simp only [execEvEntryStart, h]

theorem exec_evEntryStart_notPicked {s : State} {e : Entry} (h : startable s s.arg.ctx s.arg.q = some e)
    (hp : enginePick s (coreOf s.arg.ctx) s.arg.q ≠ some s.arg.ctx) : exec .evEntryStart s = .next s := by
  show execEvEntryStart s = _
  simp only [execEvEntryStart, h, if_neg hp]

theorem exec_evEntryStart_picked {s : State} {e : Entry} (h : startable s s.arg.ctx s.arg.q = some e)
    (hp : enginePick s (coreOf s.arg.ctx) s.arg.q = some s.arg.ctx) :
    exec .evEntryStart s = .next (startEntry s s.arg.ctx s.arg.q e s.arg.flag) := by
  show execEvEntryStart s = _
  simp only [execEvEntryStart, h, if_pos hp]

/-! ## What the start of an entry does (R28, R30, R238) -/

/-- The context after the pops of its entry. -/
def poppedFor (s : State) (k : CtxId) (q : EngineQ) (e : Entry) : Ctx :=
  ((s.ctx k).popTok (depWP e.dep) (fifoWP q)).popTok (depWN e.dep) (fifoWN q)

/-- The whole effect of the entry as it starts. -/
def effectOf (s : State) (k : CtxId) (q : EngineQ) (e : Entry) : Ran := runOp k s.fresh (s.emem k) (poppedFor s k q e) e

/-- What a start leaves to turns of their own. -/
def leftToWrite (s : State) (k : CtxId) (q : EngineQ) (e : Entry) (apart : Bool) : List EngineWrite :=
  if apart then engineWrites e.op (s.emem k) (effectOf s k q e).mem else []

/-- The head as it stands once its entry, no copy, has started. -/
def startedHead (q : EngineQ) (e : Entry) (r : Ran) (todo : List EngineWrite) : Entry :=
  { e with started := true, done := todo.isEmpty, onEngine := !todo.isEmpty, todo := todo, flags := r.flags
           report := r.report.map (fun x => { code := x.1, value := x.2, queue := q.code, seq := e.seq }) }

theorem tokensLearnt_views (s : State) (k : CtxId) (q : EngineQ) (e : Entry) : ViewsOnly s (tokensLearnt s k q e) := by
  unfold tokensLearnt
  extract_lets src
  split
  · exact .refl s
  · exact learnAt_views _ _ _

/-- A copy that starts pops its tokens and moves no byte yet; whether it takes its engine at once is open here (a cstrm does not, R227). -/
theorem startEntry_copy (s : State) (k : CtxId) (q : EngineQ) (e : Entry) (apart : Bool) (h : e.isCopy = true) :
    ∃ u b, ViewsOnly s u ∧
      startEntry s k q e apart = u.setCtx k ((poppedFor s k q e).setHead q { e with started := true, onEngine := b }) := by
  have hv := tokensLearnt_views s k q e
  refine ⟨tokensLearnt s k q e, ?flag, hv, ?start⟩
  case start =>
    simp only [startEntry, h, if_true, hv.ctx]
    rfl

/-- An entry that is no copy has its whole effect on its context, and on the memories where no write is left for later. -/
theorem startEntry_run (s : State) (k : CtxId) (q : EngineQ) (e : Entry) (apart : Bool) (h : e.isCopy = false) :
    let r := effectOf s k q e
    let todo := leftToWrite s k q e apart
    ∃ u, ViewsOnly s u ∧ startEntry s k q e apart =
      { (if todo.isEmpty then u.putEmem k r.mem else u).setCtx k (r.ctx.setHead q (startedHead q e r todo)) with fresh := s.fresh + 1 } := by
  have hv := tokensLearnt_views s k q e
  refine ⟨tokensLearnt s k q e, hv, ?_⟩
  unfold startEntry
  obtain ⟨a, b, c, d, hu⟩ := hv
  rw [hu]
  simp only [h]
  rfl

/-! ## What the start of an entry leaves alone -/

/-- Two states agree but for one context, the memories of its core, and what concerns no context, core or memory. -/
structure ApartFrom (k : CtxId) (s t : State) : Prop where
  ctx : ∀ j, j ≠ k → t.ctx j = s.ctx j
  core : ∀ x, x ≠ coreOf k → t.core x = s.core x
  dmem : t.dmem = s.dmem
  hostMem : t.hostMem = s.hostMem
  peerMem : t.peerMem = s.peerMem

theorem ViewsOnly.apartFrom {s t : State} (h : ViewsOnly s t) (k : CtxId) : ApartFrom k s t := by
  obtain ⟨_, _, _, _, rfl⟩ := h
  exact ⟨fun _ _ => rfl, fun _ _ => rfl, rfl, rfl, rfl⟩

theorem ApartFrom.setCtx {k : CtxId} {s t : State} (h : ApartFrom k s t) (c : Ctx) : ApartFrom k s (t.setCtx k c) :=
  { h with ctx := fun j hj => (t.setCtx_ctx_ne j k c hj).trans (h.ctx j hj) }

theorem ApartFrom.putEmem {k : CtxId} {s t : State} (h : ApartFrom k s t) (m : EMem) : ApartFrom k s (t.putEmem k m) :=
  { h with core := fun x hx => (t.setCore_core_ne (coreOf k) x _ hx).trans (h.core x hx) }

theorem ApartFrom.setFresh {k : CtxId} {s t : State} (h : ApartFrom k s t) (n : Nat) : ApartFrom k s { t with fresh := n } := by
  obtain ⟨h1, h2, h3, h4, h5⟩ := h
  exact ⟨h1, h2, h3, h4, h5⟩

theorem putEmem_core (s : State) (k : CtxId) (m : EMem) :
    (s.putEmem k m).core (coreOf k) = { s.core (coreOf k) with pool := m.pool, acc := m.acc } :=
  s.setCore_core (coreOf k) _

theorem startEntry_apartFrom (s : State) (k : CtxId) (q : EngineQ) (e : Entry) (apart : Bool) :
    ApartFrom k s (startEntry s k q e apart) := by
  cases h : e.isCopy with
  | true =>
    obtain ⟨u, b, hv, ht⟩ := startEntry_copy s k q e apart h
    exact ht ▸ (hv.apartFrom k).setCtx _
  | false =>
    obtain ⟨u, hv, ht⟩ := startEntry_run s k q e apart h
    rw [ht]
    refine ApartFrom.setFresh (ApartFrom.setCtx ?_ _) _
    split
    · exact (hv.apartFrom k).putEmem _
    · exact hv.apartFrom k

theorem poppedFor_tok (s : State) (k : CtxId) (q : EngineQ) (e : Entry) (f : Fin 10) :
    (poppedFor s k q e).tok f = (s.ctx k).tok f - (if e.dep.getLsbD 3 = true ∧ f = fifoWP q then 1 else 0)
      - (if e.dep.getLsbD 2 = true ∧ f = fifoWN q then 1 else 0) := by
  simp only [poppedFor, Ctx.popTok_tok]; rfl

theorem poppedFor_queue (s : State) (k : CtxId) (q r : EngineQ) (e : Entry) : (poppedFor s k q e).queue r = (s.ctx k).queue r :=
  Ctx.queue_congr (by simp [poppedFor]) r

theorem effectOf_tok (s : State) (k : CtxId) (q : EngineQ) (e : Entry) (f : Fin 10) :
    (effectOf s k q e).ctx.tok f = (poppedFor s k q e).tok f :=
  Ctx.tok_congr (runOp_queues_tokens k s.fresh (s.emem k) (poppedFor s k q e) e).2 f

theorem effectOf_queue (s : State) (k : CtxId) (q r : EngineQ) (e : Entry) : (effectOf s k q e).ctx.queue r = (s.ctx k).queue r :=
  (Ctx.queue_congr (runOp_queues_tokens k s.fresh (s.emem k) (poppedFor s k q e) e).1 r).trans (poppedFor_queue s k q r e)

/-- What becomes of the head whose entry starts: its place and number stay; a copy moves nothing, any other entry has its effect, whole or
left to be written. -/
def HeadStarted (s : State) (k : CtxId) (q : EngineQ) (e : Entry) (apart : Bool) (t : State) (e' : Entry) : Prop :=
  let r := effectOf s k q e
  ((t.ctx k).queue q).entries = e' :: ((s.ctx k).queue q).entries.tail ∧ e'.started = true ∧ e'.seq = e.seq ∧ e'.op = e.op ∧
  (e.isCopy = true → e'.done = e.done ∧ t.cores = s.cores) ∧
  (e.isCopy = false → e'.flags = r.flags ∧ e'.done = e'.todo.isEmpty ∧ t.ctx k = r.ctx.setHead q e' ∧
    e'.report = r.report.map (fun x => { code := x.1, value := x.2, queue := q.code, seq := e.seq }) ∧
    (apart = false → e'.todo = [] ∧ (t.core (coreOf k)).pool = r.mem.pool ∧ (t.core (coreOf k)).acc = r.mem.acc) ∧
    (apart = true → e'.todo = engineWrites e.op (s.emem k) r.mem ∧ (e'.todo ≠ [] → t.cores = s.cores)))

theorem ViewsOnly.cores {s t : State} (h : ViewsOnly s t) : t.cores = s.cores := by obtain ⟨_, _, _, _, rfl⟩ := h; rfl

/-- The start of an entry pops its tokens and leaves its queue in order, the head started. -/
theorem startEntry_head (s : State) (k : CtxId) (q : EngineQ) (e : Entry) (apart : Bool) :
    (∀ f, ((startEntry s k q e apart).ctx k).tok f = (poppedFor s k q e).tok f) ∧
    ∃ e', HeadStarted s k q e apart (startEntry s k q e apart) e' := by
  cases h : e.isCopy with
  | true =>
    obtain ⟨u, b, hv, ht⟩ := startEntry_copy s k q e apart h
    rw [ht]
    refine ⟨fun f => by simp, { e with started := true, onEngine := b }, ?_, rfl, rfl, rfl, fun _ => ⟨rfl, hv.cores⟩,
      fun hc => absurd (h.symm.trans hc) (by simp)⟩
    simp [poppedFor_queue]
  | false =>
    obtain ⟨u, hv, ht⟩ := startEntry_run s k q e apart h
    have hctx : (startEntry s k q e apart).ctx k =
        (effectOf s k q e).ctx.setHead q (startedHead q e (effectOf s k q e) (leftToWrite s k q e apart)) := by
      rw [ht]; exact State.setCtx_ctx _ k _
    refine ⟨fun f => by simp [hctx, effectOf_tok], startedHead q e (effectOf s k q e) (leftToWrite s k q e apart), ?_, rfl, rfl, rfl,
      fun hc => absurd (h.symm.trans hc) (by simp), fun _ => ⟨rfl, rfl, hctx, rfl, ?_, ?_⟩⟩
    · simp [hctx, effectOf_queue]
    · rintro rfl
      have hcore : (startEntry s k q e false).core (coreOf k) = (u.putEmem k (effectOf s k q e).mem).core (coreOf k) := by
        rw [ht]; rfl
      rw [hcore, putEmem_core]
      exact ⟨rfl, rfl, rfl⟩
    · rintro rfl
      refine ⟨rfl, fun hne => ?_⟩
      have hleft : (leftToWrite s k q e true).isEmpty = false := List.isEmpty_eq_false_iff.mpr hne
      rw [ht, hleft]
      exact hv.cores

/-! ## Whose turn an engine is (R40) -/

theorem mem_coreCtxs {c : CoreId} {k : CtxId} : k ∈ coreCtxs c ↔ coreOf k = c := by
  constructor
  · intro h
    obtain ⟨n, -, rfl⟩ := List.mem_map.mp h
    exact Fin.ext (by simp only [coreOf, ctxAt]; omega)
  · rintro rfl
    exact List.mem_map.mpr ⟨numOf k, List.mem_finRange _, Fin.ext (by simp only [ctxAt, coreOf, numOf]; omega)⟩

theorem coreCtxs_sorted (c : CoreId) : (coreCtxs c).Pairwise (fun i j => i.val ≤ j.val) := by
  refine List.pairwise_map.mpr ((List.pairwise_lt_finRange 4).imp fun {a b} h => ?_)
  simp only [ctxAt]
  omega

/-- Of two heads the first has waited at least as long, and of equally long waits has the lower number. -/
def waitsBefore (s : State) (q : EngineQ) (k j : CtxId) : Prop :=
  (s.ctx k).headSince[q.idx.val] ≤ (s.ctx j).headSince[q.idx.val] ∧
  ((s.ctx k).headSince[q.idx.val] = (s.ctx j).headSince[q.idx.val] → k.val ≤ j.val)

theorem oldestHead_none {s : State} {q : EngineQ} : ∀ {l : List CtxId}, oldestHead s q l = none → l = []
  | [], _ => rfl
  | k :: r, h => by
    unfold oldestHead at h
    split at h
    · exact absurd h (by simp)
    · split at h <;> exact absurd h (by simp)

/-- The oldest head of a list in rising order is one of it, and waits before each of it. -/
theorem oldestHead_some {s : State} {q : EngineQ} {k : CtxId} : ∀ {l : List CtxId}, l.Pairwise (fun i j => i.val ≤ j.val) →
    oldestHead s q l = some k → k ∈ l ∧ ∀ j ∈ l, waitsBefore s q k j
  | [], _, h => by simp [oldestHead] at h
  | x :: r, hs, h => by
    obtain ⟨hx, hr⟩ := List.pairwise_cons.mp hs
    have self : waitsBefore s q k k := ⟨Nat.le_refl _, fun _ => Nat.le_refl _⟩
    cases hy : oldestHead s q r with
    | none =>
      obtain rfl := oldestHead_none hy
      obtain rfl : x = k := by simpa [oldestHead] using h
      simpa using self
    | some y =>
      obtain ⟨hmem, hall⟩ := oldestHead_some hr hy
      by_cases hle : (s.ctx x).headSince[q.idx.val] ≤ (s.ctx y).headSince[q.idx.val]
      · obtain rfl : x = k := by simpa [oldestHead, hy, hle] using h
        refine ⟨List.mem_cons_self, fun j hj => ?_⟩
        rcases List.mem_cons.mp hj with rfl | hj
        · exact self
        · exact ⟨Nat.le_trans hle (hall j hj).1, fun _ => hx j hj⟩
      · obtain rfl : y = k := by simpa [oldestHead, hy, hle] using h
        refine ⟨List.mem_cons_of_mem _ hmem, fun j hj => ?_⟩
        rcases List.mem_cons.mp hj with rfl | hj
        · exact ⟨by omega, fun he => by omega⟩
        · exact hall j hj

theorem engineBusy_false {s : State} {c : CoreId} {q : EngineQ} (h : engineBusy s c q = false) {j : CtxId} {e : Entry} (hj : coreOf j = c)
    (he : (s.ctx j).head q = some e) : e.onEngine = false := by
  have := List.any_eq_false.mp h j (mem_coreCtxs.mpr hj)
  simpa [he] using this

/-- A free engine is taken by the oldest asking head of the deadline class, else by the oldest asking head. -/
theorem enginePick_some {s : State} {c : CoreId} {q : EngineQ} {k : CtxId} (h : enginePick s c q = some k) :
    engineBusy s c q = false ∧ coreOf k = c ∧ wantsEngine s k q = true ∧ ∀ j, coreOf j = c → wantsEngine s j q = true →
      ((s.ctx j).csr.dlc = true → (s.ctx k).csr.dlc = true) ∧ ((s.ctx j).csr.dlc = (s.ctx k).csr.dlc → waitsBefore s q k j) := by
  unfold enginePick at h
  split at h
  · exact absurd h (by simp)
  next hb =>
  extract_lets asking at h
  have hasking : ∀ j, j ∈ asking ↔ coreOf j = c ∧ wantsEngine s j q = true := fun j => by
    simp [asking, mem_coreCtxs]
  have hsorted : asking.Pairwise (fun i j => i.val ≤ j.val) := (coreCtxs_sorted c).filter _
  refine ⟨by simpa using hb, ?_⟩
  cases hd : oldestHead s q (asking.filter (fun k => (s.ctx k).csr.dlc)) with
  | some d =>
    obtain rfl : d = k := by simpa [hd] using h
    obtain ⟨hmem, hall⟩ := oldestHead_some (hsorted.filter _) hd
    obtain ⟨hk, hdlc⟩ := List.mem_filter.mp hmem
    obtain ⟨hcore, hwants⟩ := (hasking d).mp hk
    exact ⟨hcore, hwants, fun j hj hw => ⟨fun _ => hdlc, fun he =>
      hall j (List.mem_filter.mpr ⟨(hasking j).mpr ⟨hj, hw⟩, he.trans hdlc⟩)⟩⟩
  | none =>
    have hnone := List.filter_eq_nil_iff.mp (oldestHead_none hd)
    obtain ⟨hk, hall⟩ := oldestHead_some hsorted (by simpa [hd] using h : oldestHead s q asking = some k)
    obtain ⟨hcore, hwants⟩ := (hasking k).mp hk
    exact ⟨hcore, hwants, fun j hj hw =>
      have hjm := (hasking j).mpr ⟨hj, hw⟩
      ⟨fun hdlc => absurd hdlc (hnone j hjm), fun _ => hall j hjm⟩⟩

/-! ## One element written by its turn (R238) -/

@[simp] theorem State.setMem_late (s : State) (sp : Space) (m : Mem) : (s.setMem sp m).late = s.late := by cases sp <;> rfl
@[simp] theorem State.write_late (s : State) (sp : Space) (a : Nat) (l : List PByte) : (s.write sp a l).late = s.late :=
  s.setMem_late sp _
@[simp] theorem State.setHead_late (s : State) (k : CtxId) (q : EngineQ) (e : Entry) : (s.setHead k q e).late = s.late := rfl
@[simp] theorem State.setHead_memOf (s : State) (k : CtxId) (q : EngineQ) (e : Entry) (sp : Space) :
    (s.setHead k q e).memOf sp = s.memOf sp := by cases sp <;> rfl
@[simp] theorem State.setHead_head (s : State) (k : CtxId) (q : EngineQ) (e : Entry) : ((s.setHead k q e).ctx k).head q = some e := by
  simp [State.setHead]

/-- The state in which a turn acts: it has left the agenda, and who writes is known. -/
def State.inTurn (s : State) (rest : List Turn) (w : Knower) : State := { s with agenda := rest, writer := w }

@[simp] theorem State.inTurn_memOf (s : State) (rest : List Turn) (w : Knower) (sp : Space) : (s.inTurn rest w).memOf sp = s.memOf sp := by
  cases sp <;> rfl
@[simp] theorem State.inTurn_memWf (s : State) (rest : List Turn) (w : Knower) : (s.inTurn rest w).memWf = s.memWf := rfl
@[simp] theorem State.inTurn_ctx (s : State) (rest : List Turn) (w : Knower) (k : CtxId) : (s.inTurn rest w).ctx k = s.ctx k := rfl
@[simp] theorem State.inTurn_late (s : State) (rest : List Turn) (w : Knower) : (s.inTurn rest w).late = s.late := rfl

/-- The memory an element of a result belongs to. -/
def EngineWrite.space (w : EngineWrite) (k : CtxId) : Space := if w.acc then .acc (coreOf k) else .pool (coreOf k)

/-- Engine memory has no ECC granules. -/
theorem EngineWrite.space_ecc (w : EngineWrite) (k : CtxId) : (w.space k).ecc = false := by
  unfold EngineWrite.space; split <;> rfl

/-- A head with one of its elements written. -/
def Entry.wrote (e : Entry) (i : Nat) : Entry :=
  { e with todo := e.todo.eraseIdx i, done := (e.todo.eraseIdx i).isEmpty, onEngine := !(e.todo.eraseIdx i).isEmpty }

theorem engineWrite_eq {s : State} {k : CtxId} {q : EngineQ} {i : Nat} {e : Entry} {w : EngineWrite} (he : (s.ctx k).head q = some e)
    (hw : e.todo[i]? = some w) : engineWrite s k q i = (s.write (w.space k) w.addr w.bytes).setHead k q (e.wrote i) := by
  simp only [engineWrite, he, hw]
  rfl

/-- A turn that writes an element does so and no more, unless it comes late. -/
theorem step_engineWrite {s : State} {rest : List Turn} {k : CtxId} {q : EngineQ} {i : Nat} {e : Entry} {w : EngineWrite}
    (ha : s.agenda = .engineWrite k q i :: rest) (he : (s.ctx k).head q = some e) (hw : e.todo[i]? = some w) (hl : s.late = false) :
    step s = .next (((s.inTurn rest (headWriter s k q)).write (w.space k) w.addr w.bytes).setHead k q (e.wrote i)) := by
  have hplan : plan s = .out (.next (engineWrite (s.inTurn rest (headWriter s k q)) k q i)) := by
    unfold plan; rw [ha]; rfl
  have hwrite := engineWrite_eq (s := s.inTurn rest (headWriter s k q)) he hw
  simp only [step, hplan, hwrite, afterTurn, State.setHead_late, State.write_late, State.inTurn_late, hl, Bool.false_eq_true, if_false]

/-- A byte written outside ECC memory is there. -/
theorem State.write_get_in (s : State) (sp : Space) (a j : Nat) (l : List PByte) (h : s.memWf = true)
    (e : sp.ecc = false) (hj : j < l.length) : ((s.write sp a l).memOf sp).get (a + j) = l[j] := by
  simp only [State.write, State.writeBy, State.note_memOf, State.put, State.setMem_memOf, e]
  exact Mem.write_get_in l _ a j (s.memOf_wf sp h) hj

/-- A byte that a write does not reach, in its space or in another, is as before. -/
theorem State.write_get_beside (s : State) (sp sp' : Space) (a c : Nat) (l : List PByte) (h : s.memWf = true)
    (o : sp' ≠ sp ∨ c < a ∨ a + l.length ≤ c) : ((s.write sp a l).memOf sp').get c = (s.memOf sp').get c := by
  by_cases hsp : sp' = sp
  · subst hsp
    exact s.writeBy_get_out s.writer sp' a c l h (o.resolve_left (fun hne => hne rfl))
  · exact congrArg (Mem.get · c) (s.writeBy_memOf_ne s.writer sp sp' a l hsp)

/-! ## All elements of a result together (R238, R271) -/

theorem mem_addrSet_true (a x : Nat) : ∀ l, x ∈ addrSet l a true ↔ x = a ∨ x ∈ l
  | [] => by simp [addrSet]
  | y :: r => by
    unfold addrSet
    split
    · next h => subst h; simp
    · split
      · simp
      · simp [mem_addrSet_true a x r, or_left_comm]

theorem mem_foldl_addrSet (f : Nat → Nat) (x : Nat) : ∀ (l acc : List Nat),
    x ∈ l.foldl (fun l a => addrSet l (f a) true) acc ↔ x ∈ acc ∨ ∃ a ∈ l, f a = x
  | [], acc => by simp
  | a :: r, acc => by
    rw [List.foldl_cons, mem_foldl_addrSet f x r, mem_addrSet_true]
    constructor
    · rintro ((hx | hx) | ⟨b, hb, hx⟩)
      · exact .inr ⟨a, List.mem_cons_self, hx.symm⟩
      · exact .inl hx
      · exact .inr ⟨b, List.mem_cons_of_mem _ hb, hx⟩
    · rintro (hx | ⟨b, hb, hx⟩)
      · exact .inl (.inr hx)
      · rcases List.mem_cons.mp hb with rfl | hb
        · exact .inl (.inl hx.symm)
        · exact .inr ⟨b, hb, hx⟩

theorem cellGet_unlisted (a : Nat) : ∀ l : List Host.Cell, a ∉ l.map (·.1) → cellGet l a = 0
  | [], _ => rfl
  | (x, b) :: r, h => by
    simp only [List.map_cons, List.mem_cons, not_or] at h
    simp [cellGet, Ne.symm h.1, cellGet_unlisted a r h.2]

theorem addrMem_unlisted (a : Nat) : ∀ l : List Nat, a ∉ l → addrMem l a = false
  | [], _ => rfl
  | x :: r, h => by
    simp only [List.mem_cons, not_or] at h
    simp [addrMem, Ne.symm h.1, addrMem_unlisted a r h.2]

theorem Mem.get_unlisted (m : Mem) (a : Nat) (hc : a ∉ m.cells.map (·.1)) (hp : a ∉ m.poison) : m.get a = { val := 0, poison := false } := by
  simp [Mem.get, cellGet_unlisted a _ hc, addrMem_unlisted a _ hp]

/-- A byte that differs is listed by one of the two memories. -/
theorem Mem.listed_of_ne {old new : Mem} {a : Nat} (h : old.get a ≠ new.get a) :
    a ∈ old.cells.map (·.1) ++ new.cells.map (·.1) ++ old.poison ++ new.poison := by
  refine Decidable.byContradiction fun hn => ?_
  simp only [List.mem_append, not_or] at hn
  obtain ⟨⟨⟨h1, h2⟩, h3⟩, h4⟩ := hn
  exact h ((old.get_unlisted a h1 h3).trans (new.get_unlisted a h2 h4).symm)

/-- The changed units are those of the bytes that differ. -/
theorem mem_changedUnits {n : Nat} {old new : Mem} {x : Nat} :
    x ∈ changedUnits n old new ↔ ∃ a, old.get a ≠ new.get a ∧ a / n * n = x := by
  simp only [changedUnits, mem_foldl_addrSet, List.not_mem_nil, false_or, List.mem_filter, decide_eq_true_eq]
  exact ⟨fun ⟨a, ⟨_, hne⟩, hx⟩ => ⟨a, hne, hx⟩, fun ⟨a, hne, hx⟩ => ⟨a, ⟨Mem.listed_of_ne hne, hne⟩, hx⟩⟩

theorem EngineOp.unitBytes_pos (o : EngineOp) : 0 < o.unitBytes := by
  unfold EngineOp.unitBytes
  split
  case h_4 => decide
  all_goals
    extract_lets b
    split
    · decide
    · split <;> decide

/-- Writes of a memory's own bytes, one after another, give its bytes wherever one reaches or nothing differed. -/
theorem foldl_write_get (new : Mem) (n a : Nat) : ∀ (ws : List EngineWrite) (x : Mem), x.wf = true →
    (∀ w ∈ ws, w.bytes = new.read w.addr n) → (x.get a = new.get a ∨ ∃ w ∈ ws, w.addr ≤ a ∧ a < w.addr + n) →
    (ws.foldl (fun x w => x.write w.addr w.bytes) x).get a = new.get a
  | [], x, _, _, h => by simpa using h
  | w :: r, x, hx, hb, h => by
    have hw : w.bytes = new.read w.addr n := hb w List.mem_cons_self
    have hlen : w.bytes.length = n := by rw [hw, Mem.read_length]
    refine foldl_write_get new n a r _ (Mem.write_wf _ _ _ hx) (fun v hv => hb v (List.mem_cons_of_mem _ hv)) ?_
    by_cases hin : w.addr ≤ a ∧ a < w.addr + n
    · left
      obtain ⟨i, rfl⟩ := Nat.exists_eq_add_of_le hin.1
      have hi : i < n := by omega
      rw [Mem.write_get_in w.bytes x w.addr i hx (by omega)]
      simp only [hw, new.read_getElem n w.addr i hi]
    · rw [Mem.write_get_out w.bytes x w.addr a hx (by omega)]
      exact h.imp_right fun ⟨v, hv, hva⟩ => (List.mem_cons.mp hv).elim (fun he => absurd (he ▸ hva) hin) (fun hv => ⟨v, hv, hva⟩)

/-- The part of an engine memory that a write's kind names. -/
def EMem.part (m : EMem) (acc : Bool) : Mem := if acc then m.acc else m.pool

/-- Bytes of an element of a result in the part of that kind. -/
def EngineOp.elementBytes (op : EngineOp) (acc : Bool) : Nat := if acc then 4 else op.unitBytes

theorem EngineOp.elementBytes_pos (op : EngineOp) (acc : Bool) : 0 < op.elementBytes acc := by
  cases acc
  · exact op.unitBytes_pos
  · exact Nat.zero_lt_succ 3

/-- A list of which each member's image passes is kept whole, one of which none does is dropped. -/
theorem filter_map_all {α β : Type} {p : β → Bool} (f : α → β) (l : List α) (h : ∀ a, p (f a) = true) :
    (l.map f).filter p = l.map f := by
  refine List.filter_eq_self.mpr fun b hb => ?_
  obtain ⟨a, -, rfl⟩ := List.mem_map.mp hb
  exact h a
theorem filter_map_none {α β : Type} {p : β → Bool} (f : α → β) (l : List α) (h : ∀ a, p (f a) = false) :
    (l.map f).filter p = [] := by
  refine List.filter_eq_nil_iff.mpr fun b hb => ?_
  obtain ⟨a, -, rfl⟩ := List.mem_map.mp hb
  simp only [h a, Bool.false_eq_true, not_false_eq_true]

/-- What is written to one part: each of its changed elements, as the result has it. -/
theorem engineWrites_filter (op : EngineOp) (old new : EMem) (acc : Bool) :
    (engineWrites op old new).filter (fun w => w.acc == acc) =
      (changedUnits (op.elementBytes acc) (old.part acc) (new.part acc)).map
        (fun x => { acc := acc, addr := x, bytes := (new.part acc).read x (op.elementBytes acc) }) := by
  unfold engineWrites
  rw [List.filter_append]
  cases acc with
  | false => rw [filter_map_all _ _ fun _ => rfl, filter_map_none _ _ fun _ => rfl, List.append_nil]; rfl
  | true => rw [filter_map_none _ _ fun _ => rfl, filter_map_all _ _ fun _ => rfl, List.nil_append]; rfl

/-- Each write of a part is one aligned element of the result. -/
theorem engineWrites_element {op : EngineOp} {old new : EMem} {acc : Bool} {w : EngineWrite}
    (hw : w ∈ (engineWrites op old new).filter (fun w => w.acc == acc)) :
    w.bytes = (new.part acc).read w.addr (op.elementBytes acc) ∧ w.addr % op.elementBytes acc = 0 := by
  rw [engineWrites_filter] at hw
  obtain ⟨x, hx, rfl⟩ := List.mem_map.mp hw
  obtain ⟨a, -, rfl⟩ := mem_changedUnits.mp hx
  exact ⟨rfl, Nat.mul_mod_left _ _⟩

/-- A byte that differs lies in an element that is written. -/
theorem engineWrites_reach (op : EngineOp) {old new : EMem} {acc : Bool} {a : Nat} (h : (old.part acc).get a ≠ (new.part acc).get a) :
    ∃ w ∈ (engineWrites op old new).filter (fun w => w.acc == acc), w.addr ≤ a ∧ a < w.addr + op.elementBytes acc := by
  rw [engineWrites_filter]
  exact ⟨_, List.mem_map_of_mem (mem_changedUnits.mpr ⟨a, h, rfl⟩), Nat.div_mul_le_self _ _, Nat.lt_div_mul_add (op.elementBytes_pos acc)⟩

/-- All writes of a part together make it what the result says. -/
theorem engineWrites_get (op : EngineOp) (old new : EMem) (hok : old.ok) (acc : Bool) (a : Nat) :
    (((engineWrites op old new).filter (fun w => w.acc == acc)).foldl (fun x w => x.write w.addr w.bytes) (old.part acc)).get a =
      (new.part acc).get a := by
  have hwf : (old.part acc).wf = true := by
    cases acc
    · exact hok.1
    · exact hok.2
  refine foldl_write_get _ (op.elementBytes acc) a _ _ hwf (fun w hw => (engineWrites_element hw).1) ?_
  by_cases h : (old.part acc).get a = (new.part acc).get a
  · exact .inl h
  · exact .inr (engineWrites_reach op h)

/-! ## The obligation -/

/-- Settles O37: ENTRY_START through `startEntry_copy` and `startEntry_run`, the turn at the engine by induction on the asking heads
(`oldestHead_some`), and the writes of a result by induction on their list (`foldl_write_get`). -/
theorem entryStarts : Obligations.EntryStarts := by
  unfold Obligations.EntryStarts
  refine ⟨fun s e => ⟨fun h => ?_, fun hh hno => ?_⟩, fun s c q k h => ?_, fun s rest k q i e w ha he hw hwf hl => ?_,
    fun op old new hok acc => ?_⟩
  · obtain ⟨hh, hs, ht⟩ := startable_some h
    obtain ⟨hp, hn⟩ := (Ctx.tokensThere_iff _ _ e).mp ht
    refine ⟨hh, hs, hp, hn, exec_evEntryStart_notPicked h, fun hpick => ?_⟩
    obtain ⟨hctx, hcore, hdmem, hhost, hpeer⟩ := startEntry_apartFrom s s.arg.ctx s.arg.q e s.arg.flag
    obtain ⟨htok, hhead⟩ := startEntry_head s s.arg.ctx s.arg.q e s.arg.flag
    exact ⟨_, exec_evEntryStart_picked h hpick, fun f => (htok f).trans (poppedFor_tok s _ _ e f), hctx, hdmem, hhost, hpeer, hcore,
      hhead⟩
  · refine exec_evEntryStart_none (startable_none hh (Bool.eq_false_iff.mpr fun ht => ?_))
    obtain ⟨hp, hn⟩ := (Ctx.tokensThere_iff _ _ e).mp ht
    rcases hno with ⟨hd, hnone⟩ | ⟨hd, hnone⟩
    · exact absurd hnone (Nat.pos_iff_ne_zero.mp (hp hd))
    · exact absurd hnone (Nat.pos_iff_ne_zero.mp (hn hd))
  · obtain ⟨hbusy, hcore, hwants, hfirst⟩ := enginePick_some h
    exact ⟨hcore, hwants, fun j e hj => engineBusy_false hbusy hj, hfirst⟩
  · refine ⟨_, step_engineWrite ha he hw hl, fun j hj => ?_, fun sp' a ho => ?_, State.setHead_head _ k q _⟩
    · rw [State.setHead_memOf, List.getD_eq_getElem?_getD, List.getElem?_eq_getElem hj, Option.getD_some]
      exact (s.inTurn rest _).write_get_in (w.space k) w.addr j w.bytes hwf (w.space_ecc k) hj
    · rw [State.setHead_memOf, ← s.inTurn_memOf rest (headWriter s k q) sp']
      exact (s.inTurn rest _).write_get_beside (w.space k) sp' w.addr a w.bytes hwf ho
  · exact ⟨fun w hw => engineWrites_element hw, engineWrites_get op old new hok acc⟩

end Sys2Proof.Machine
end
